-- ==== Sys2Proof/Syntax.lean ====
section
/-! DEFINITION. Syntax.lean: the commands the module takes, one constructor per row of opcode_table.json,
and the operands they carry. A core command names its core; a syllable carries the fields of Table 2.5. -/

namespace Sys2Proof

/-- Global core number 0 to 127 (R15). -/
abbrev CoreId := Fin 128
/-- Compute die 0 to 7. -/
abbrev CdId := Fin 8
/-- Memory die 0 to 7. -/
abbrev MdId := Fin 8
/-- A die that holds a wheel and a copy of fabric time: 0 to 7 the CDs, 8 the IOD (R24, R26). -/
abbrev DieId := Fin 9
/-- Array of a core: 0 FA, 1 BA0, 2 BA1. -/
abbrev ArrId := Fin 3
/-- Unit of a core: 0 FA, 1 BA0, 2 BA1, 3 V half 0, 4 V half 1, 5 X, 6 K, 7 Q, and 8 to 10 the drain path of FA, BA0,
BA1 (R57, R94). -/
abbrev UnitId := Fin 11
/-- Context ID (R253). -/
abbrev CtxId := Fin 4096
/-- Context-relative core index, the virtual core (R42 VCORE, R297). -/
abbrev VCoreId := Fin 128
/-- Queue number (QUE_DB.QID). -/
abbrev QueueId := Fin 65536
/-- Absolute index of an entry of a queue, modulo 65,536 (R276). -/
abbrev EntryIdx := Fin 65536
/-- Group number (COL_GCMD.GROUP). -/
abbrev GroupId := Fin 4096
/-- Optical link L0 to L47 (R312). -/
abbrev LinkId := Fin 48
/-- Page of BAR0 by its number, address / 4,096 (R466). -/
abbrev PageRef := Fin 16384

/-- Syllable of slots S0 and S1 (Table 2.5). -/
structure SSyl where
  pred : BitVec 4
  pneg : Bool
  rd : BitVec 6
  ra : BitVec 6
  rb : BitVec 6
  im : Bool
  imm : Word32
  deriving DecidableEq, Repr

/-- Syllable of slot C. -/
structure CSyl where
  pred : BitVec 4
  pneg : Bool
  ra : BitVec 6
  ofs : Word32
  deriving DecidableEq, Repr

/-- Syllable of slots M0 and M1, opcodes 0x01 to 0x0F. -/
structure MSyl where
  pred : BitVec 4
  pneg : Bool
  rt : BitVec 6
  ra : BitVec 6
  size : BitVec 3
  pd : BitVec 4
  ofs : Word32
  deriving DecidableEq, Repr

/-- Syllable of slots M0 and M1, opcodes 0x10 to 0x1F. -/
structure DSyl where
  pred : BitVec 4
  pneg : Bool
  ds : BitVec 5
  dd : BitVec 5
  di : BitVec 5
  rm : BitVec 6
  tag : BitVec 4
  deriving DecidableEq, Repr

/-- Syllable of slots F, B0 and B1. -/
structure ASyl where
  pred : BitVec 4
  pneg : Bool
  acc : BitVec 2
  da : BitVec 5
  db : BitVec 5
  td : BitVec 3
  dfl : BitVec 3
  cell : BitVec 3
  accum : Bool
  rot : Bool
  ksteps : BitVec 16
  deriving DecidableEq, Repr

/-- Syllable of slots V0 and V1. -/
structure VSyl where
  pred : BitVec 4
  pneg : Bool
  vd : BitVec 3
  va : BitVec 3
  vb : BitVec 3
  vc : BitVec 3
  row0 : BitVec 6
  nrm1 : BitVec 6
  bsrc : BitVec 2
  gs : BitVec 6
  dn : BitVec 5
  pd : BitVec 4
  deriving DecidableEq, Repr

/-- Syllable of slot X. -/
structure XSyl where
  pred : BitVec 4
  pneg : Bool
  ta : BitVec 3
  axis : BitVec 2
  td : BitVec 3
  gd : BitVec 6
  accg : Bool
  row0 : BitVec 6
  nrm1 : BitVec 6
  deriving DecidableEq, Repr

/-- Syllable of slot Y. -/
structure YSyl where
  pred : BitVec 4
  pneg : Bool
  ra : BitVec 6
  rb : BitVec 6
  imm : Word32
  deriving DecidableEq, Repr

/-- Syllable of slot K. -/
structure KSyl where
  pred : BitVec 4
  pneg : Bool
  ts : BitVec 3
  dd : BitVec 5
  fmt : BitVec 4
  rnd : BitVec 2
  kind : BitVec 3
  rot : Bool
  deriving DecidableEq, Repr

/-- Syllable of slot Q. -/
structure QSyl where
  pred : BitVec 4
  pneg : Bool
  ts : BitVec 3
  dn : BitVec 5
  gs : BitVec 6
  kind : BitVec 3
  deriving DecidableEq, Repr

/-- Operations of the scalar slots (Table 2.8, S). -/
inductive SOp where
  | nop | add | sub | mul | mulh | and | or | xor | shl | shr | sar | min | max | mov | movhi
  | cmpeq | cmpne | cmplt | cmpltu | cmple | cmpleu | pand | por | pxor | pnot | pmov | pget | popc | clz | rdsr | wrsr
  deriving DecidableEq, Repr

/-- Operations of slot C. -/
inductive COp where
  | br | brr | call | ret | loop | halt | stop
  deriving DecidableEq, Repr

/-- Operations of slots M0 and M1 below 0x10. -/
inductive MOp where
  | ld | lds | st | descLd | descSv | descAdv | descSts
  deriving DecidableEq, Repr

/-- DMA and stack operations of slots M0 and M1. -/
inductive DOp where
  | cpy | xp | gath | scat | scadd | push | pop
  deriving DecidableEq, Repr

/-- Operations of slots F, B0 and B1. -/
inductive AOp where
  | aload | amm | adist | adrain | afill | aclr
  deriving DecidableEq, Repr

/-- Operations of slots V0 and V1. -/
inductive VOp where
  | vadd | vsub | vmul | vfma | vmax | vmin | vabs | vneg | vmov | vcmplt | vcmpeq
  | vexp | vlog | vrcp | vrsq | vsqrt | vtanh | vsig | vgelu | vsilu | vslope | vld | vst
  deriving DecidableEq, Repr

/-- Operations of slot X. -/
inductive XOp where
  | xsum | xsumsq | xmax | xmin | xamax | xargmax | xnfin
  deriving DecidableEq, Repr

/-- Operations of slot Y. -/
inductive YOp where
  | wdma | weng | sig | tokw | twait | fence | qpost
  deriving DecidableEq, Repr

/-- Operations of slot K. -/
inductive KOp where
  | kcvt | kunp
  deriving DecidableEq, Repr

/-- Operations of slot Q. -/
inductive QOp where
  | qamax | qseed | qrot | qtsc
  deriving DecidableEq, Repr

/-- A syllable with the slot class it belongs to; array and vector syllables name their unit. -/
inductive Syl where
  | s (op : SOp) (y : SSyl)
  | c (op : COp) (y : CSyl)
  | m (op : MOp) (y : MSyl)
  | d (op : DOp) (y : DSyl)
  | a (arr : ArrId) (op : AOp) (y : ASyl)
  | v (half : Fin 2) (op : VOp) (y : VSyl)
  | x (op : XOp) (y : XSyl)
  | y (op : YOp) (y : YSyl)
  | k (op : KOp) (y : KSyl)
  | q (op : QOp) (y : QSyl)
  deriving DecidableEq, Repr

/-- A flit as it arrives: sixteen 144-bit codewords, granule 0 first (R315). -/
structure RxFlit where
  cw : List (BitVec 144)
  deriving DecidableEq, Repr

/-- A packet: the transaction header of Table 11.5, its lane and its body (R318). -/
structure Packet where
  vl : Fin 4
  dst : Word16
  src : Word16
  ctxgen : Word32
  fepoch : Word16
  op : Byte
  hops : BitVec 4
  addr : Word64
  token : Word32
  body : List Byte
  deriving DecidableEq, Repr

/-- Kind of a memory access (Table 9.7 ACCESS). -/
inductive Access where
  | read
  | write
  | fetch
  | readWrite
  deriving DecidableEq, Repr

/-- Unit whose access a walk serves (Table 9.7 UNIT). -/
inductive XUnit where
  | core (c : CoreId)
  | coll
  | kiln (m : MdId)
  deriving DecidableEq, Repr

/-- Allocation class of a request at the memory-side cache (R212). -/
inductive Alloc where
  | normal
  | stream
  | noalloc
  deriving DecidableEq, Repr

/-- A read of device memory as it reaches its home MD: DPA, bytes, the context and generation it bears if any
(R255), and its allocation class (R212). -/
structure MemRead where
  dpa : BitVec 40
  len : Nat
  ctxgen : Option Word32
  cls : Alloc
  deriving DecidableEq, Repr

/-- A write of device memory as it reaches its home MD. -/
structure MemWrite where
  dpa : BitVec 40
  data : List Byte
  poison : Bool
  ctxgen : Option Word32
  cls : Alloc
  deriving DecidableEq, Repr

/-- A unit that the fill of R216 writes. -/
inductive FillUnit where
  | md (m : MdId)
  | spm (c : CoreId)
  | dsm (d : CdId)
  deriving DecidableEq, Repr

/-- What the source of a kiln block reports (R418): bytes that host memory returned, which only a HOST source has here; poison
and errors of the source. -/
structure SourceData where
  data : List Byte
  poison : Bool
  failed : Bool
  status : Word16
  deriving DecidableEq, Repr

/-- Who starts a crash dump (Table 13.8 TRIGGER). -/
inductive DumpTrigger where
  | software
  | aedord
  | reset
  deriving DecidableEq, Repr

/-- A transaction of the debug bridge (R36, R504). -/
structure JtagTxn where
  write : Bool
  addr : BitVec 26
  data : Word32
  deriving DecidableEq, Repr

/-- Outcome of host link training (R399): mode, WIDTH and RATE codes of Table 14.8. -/
structure HostTraining where
  cxl : Bool
  width : BitVec 2
  rate : BitVec 2
  deriving DecidableEq, Repr

/-- A host CXL.mem or BAR2 access (R401, R407). `addr` is the host physical address in CXL mode and the BAR2 offset in
PCIe mode. -/
structure HostAccess where
  addr : Word64
  len : Nat
  write : Bool
  data : List Byte
  poison : Bool
  deriving DecidableEq, Repr

/-- What a storage target answers at connect (R413). -/
structure TargetReply where
  eth0 : Bool
  eth1 : Bool
  lbaSize : Nat
  metadata : Bool
  deriving DecidableEq, Repr

/-- MCTP binding a management message arrives on (R433). -/
inductive Binding where
  | smbus
  | pcieVdm
  deriving DecidableEq, Repr

/-- Where a management message comes from: its binding, and the secured session it arrives in, if any (R435). -/
structure Origin where
  binding : Binding
  session : Option (Fin 8)
  deriving DecidableEq, Repr

/-- Scope of a grant (R457). -/
inductive Scope where
  | jtag
  | inject
  | cal
  | fm
  | owner
  deriving DecidableEq, Repr

/-- Contents of a GRANT message (R457). -/
structure GrantMsg where
  scope : Scope
  serial : List Byte
  nonce : List Byte
  seconds : Nat
  sig : List Byte
  deriving DecidableEq, Repr

/-- One entry of the user calibration overlay (R459): item and signed offset in the item's steps. -/
structure CalEntry where
  item : Word16
  offset : Int
  deriving DecidableEq, Repr

/-- One regulator's answer to the PMBus poll (R429). -/
structure RailReading where
  answered : Bool
  vout : Word16
  iout : Word16
  iin : Word16
  treg : BitVec 12
  deriving DecidableEq, Repr

/-- A firmware processor (R439, R440). -/
inductive Processor where
  | link
  | memTraining (m : MdId)
  | scheduler (d : CdId)
  | aedord
  deriving DecidableEq, Repr

/-- Size of a register access (R466). -/
inductive AccSize where
  | b1
  | b2
  | b4
  | b8
  deriving DecidableEq, Repr

/-- The commands of the module. -/
inductive Instr where
  /-- NOP (R53): Scalar syllable with no effect. -/
  | nop (c : CoreId) (y : SSyl)
  /-- ADD (R53): Scalar add modulo 2^64 into g[RD]. -/
  | add (c : CoreId) (y : SSyl)
  /-- SUB (R53): Scalar subtract modulo 2^64 into g[RD]. -/
  | sub (c : CoreId) (y : SSyl)
  /-- MUL (R53): Low 64 bits of a scalar product into g[RD]. -/
  | mul (c : CoreId) (y : SSyl)
  /-- MULH (R53): High 64 bits of the signed 128-bit product into g[RD]. -/
  | mulh (c : CoreId) (y : SSyl)
  /-- AND (R53): Bitwise AND into g[RD]. -/
  | and (c : CoreId) (y : SSyl)
  /-- OR (R53): Bitwise OR into g[RD]. -/
  | or (c : CoreId) (y : SSyl)
  /-- XOR (R53): Bitwise exclusive-or into g[RD]. -/
  | xor (c : CoreId) (y : SSyl)
  /-- SHL (R53): Left shift by b[5:0]. -/
  | shl (c : CoreId) (y : SSyl)
  /-- SHR (R53): Logical right shift by b[5:0]. -/
  | shr (c : CoreId) (y : SSyl)
  /-- SAR (R53): Arithmetic right shift by b[5:0]. -/
  | sar (c : CoreId) (y : SSyl)
  /-- MIN (R53): Signed minimum into g[RD]. -/
  | min (c : CoreId) (y : SSyl)
  /-- MAX (R53): Signed maximum into g[RD]. -/
  | max (c : CoreId) (y : SSyl)
  /-- MOV (R53): g[RD] = b. -/
  | mov (c : CoreId) (y : SSyl)
  /-- MOVHI (R53): Writes IMM into g[RD][63:32]. -/
  | movhi (c : CoreId) (y : SSyl)
  /-- CMPEQ (R53): Sets all bits of p[RD] to equality of g[RA] and b. -/
  | cmpeq (c : CoreId) (y : SSyl)
  /-- CMPNE (R53): Sets p[RD] to inequality of g[RA] and b. -/
  | cmpne (c : CoreId) (y : SSyl)
  /-- CMPLT (R53): Sets p[RD] to signed less-than. -/
  | cmplt (c : CoreId) (y : SSyl)
  /-- CMPLTU (R53): Sets p[RD] to unsigned less-than. -/
  | cmpltu (c : CoreId) (y : SSyl)
  /-- CMPLE (R53): Sets p[RD] to signed less-or-equal. -/
  | cmple (c : CoreId) (y : SSyl)
  /-- CMPLEU (R53): Sets p[RD] to unsigned less-or-equal. -/
  | cmpleu (c : CoreId) (y : SSyl)
  /-- PAND (R53): Predicate AND. -/
  | pand (c : CoreId) (y : SSyl)
  /-- POR (R53): Predicate OR. -/
  | por (c : CoreId) (y : SSyl)
  /-- PXOR (R53): Predicate exclusive-or. -/
  | pxor (c : CoreId) (y : SSyl)
  /-- PNOT (R53): Predicate NOT. -/
  | pnot (c : CoreId) (y : SSyl)
  /-- PMOV (R53): p[RD] = b. -/
  | pmov (c : CoreId) (y : SSyl)
  /-- PGET (R53): g[RD] = p[RA]. -/
  | pget (c : CoreId) (y : SSyl)
  /-- POPC (R53): Counts set bits of g[RA]. -/
  | popc (c : CoreId) (y : SSyl)
  /-- CLZ (R53): Counts leading zero bits of g[RA]. -/
  | clz (c : CoreId) (y : SSyl)
  /-- RDSR (R42): Reads a special register into g[RD]. -/
  | rdsr (c : CoreId) (y : SSyl)
  /-- WRSR (R42): Writes g[RA] to an RW special register (LC0, LC1). -/
  | wrsr (c : CoreId) (y : SSyl)
  /-- BR (R53): Branches to this header + 8 × OFS. -/
  | br (c : CoreId) (y : CSyl)
  /-- BRR (R53): Branches to g[RA], closing the innermost loop level if the target is outside its body. -/
  | brr (c : CoreId) (y : CSyl)
  /-- CALL (R53): Writes the return address to g63 and branches. -/
  | call (c : CoreId) (y : CSyl)
  /-- RET (R53): Branches to g63. -/
  | ret (c : CoreId) (y : CSyl)
  /-- LOOP (R62): Opens a hardware loop level of g[RA] passes, or skips the body. -/
  | loop (c : CoreId) (y : CSyl)
  /-- HALT (R80): Ends the work item on the core once every unit and DMA tag is idle. -/
  | halt (c : CoreId) (y : CSyl)
  /-- STOP (R76): Stops the context with SW_STOP and a software code. -/
  | stop (c : CoreId) (y : CSyl)
  /-- LD (R53): Zero-extending scalar load from SPM. -/
  | ld (c : CoreId) (y : MSyl)
  /-- LDS (R53): Sign-extending scalar load from SPM. -/
  | lds (c : CoreId) (y : MSyl)
  /-- ST (R53): Scalar store to SPM. -/
  | st (c : CoreId) (y : MSyl)
  /-- DESC_LD (R228): Loads and validates a descriptor into d[RT], writing p[PD]. -/
  | descLd (c : CoreId) (y : MSyl)
  /-- DESC_SV (R53): Stores a descriptor register to SPM. -/
  | descSv (c : CoreId) (y : MSyl)
  /-- DESC_ADV (R230): Advances a descriptor view and revalidates it. -/
  | descAdv (c : CoreId) (y : MSyl)
  /-- DESC_STS (R53): Returns validity and last refusal code of a descriptor register. -/
  | descSts (c : CoreId) (y : MSyl)
  /-- DMA_CPY (R232): Issues a tensor copy under a tag. -/
  | dmaCpy (c : CoreId) (y : DSyl)
  /-- DMA_XP (R235): Issues a transposing copy, re-blocking E8M0 scales. -/
  | dmaXp (c : CoreId) (y : DSyl)
  /-- DMA_GATH (R239): Issues an indexed row gather. -/
  | dmaGath (c : CoreId) (y : DSyl)
  /-- DMA_SCAT (R242): Issues an indexed row scatter. -/
  | dmaScat (c : CoreId) (y : DSyl)
  /-- DMA_SCADD (R242): Issues an indexed FP32 scatter-add. -/
  | dmaScadd (c : CoreId) (y : DSyl)
  /-- PUSH (R170): Pushes a tensor entry onto a woodpile stream. -/
  | push (c : CoreId) (y : DSyl)
  /-- POP (R171): Pops the top entry of a woodpile stream into a tensor. -/
  | pop (c : CoreId) (y : DSyl)
  /-- DMA_CHUNK (R249): A DMA transfer moves one chunk and advances PROG. -/
  | dmaChunk (c : CoreId) (x : Fin 16)
  /-- DMA_TRANSFER_COMPLETE (R237): All writes of a transfer are visible; its tag completes and the status record is written. -/
  | dmaTransferComplete (c : CoreId) (x : Fin 16)
  /-- STAGING_GRANT (R246): The IOD staging arbiter grants the units a waiting overlapping transfer needs. -/
  | stagingGrant
  /-- PHASE_S_END (R247): A staged transfer has read every overlap byte and enters phase W. -/
  | phaseSEnd (c : CoreId) (x : Fin 16)
  /-- WINDOW_REFILL (R173): Background refill of a woodpile window downward after a POP. -/
  | windowRefill (c : CoreId) (st : Fin 16)
  /-- WINDOW_SPILL (R173): A pushed entry is spilled from the window to device memory. -/
  | windowSpill (c : CoreId) (st : Fin 16)
  /-- ALOAD (R92): Loads an array's stationary register under WS or IS. -/
  | aload (c : CoreId) (a : ArrId) (y : ASyl)
  /-- AMM (R87): Matrix multiply-accumulate into a bank over KSTEPS steps. -/
  | amm (c : CoreId) (a : ArrId) (y : ASyl)
  /-- ADIST (R99): Distance or comparison operation into a bank. -/
  | adist (c : CoreId) (a : ArrId) (y : ASyl)
  /-- ADRAIN (R94): Copies a bank into a tile buffer over the drain path. -/
  | adrain (c : CoreId) (a : ArrId) (y : ASyl)
  /-- AFILL (R94): Copies a tile buffer into a bank over the drain path. -/
  | afill (c : CoreId) (a : ArrId) (y : ASyl)
  /-- ACLR (R53): Clears a bank and its poison bit. -/
  | aclr (c : CoreId) (a : ArrId) (y : ASyl)
  /-- TILE_END (R103): An array step or operation ends; checksums compare and the bank poison bit updates. -/
  | tileEnd (c : CoreId) (a : ArrId)
  /-- BANK_RELEASE (R93): A bank is released to the interlock eight cycles after its step. -/
  | bankRelease (c : CoreId) (a : ArrId)
  /-- ABFT_EVENT (R108): A poisoned tile's ABFT event reaches the CD scheduler processor. -/
  | abftEvent (c : CoreId)
  /-- VADD (R149): Vector add. -/
  | vadd (c : CoreId) (h : Fin 2) (y : VSyl)
  /-- VSUB (R149): Vector subtract. -/
  | vsub (c : CoreId) (h : Fin 2) (y : VSyl)
  /-- VMUL (R149): Vector multiply. -/
  | vmul (c : CoreId) (h : Fin 2) (y : VSyl)
  /-- VFMA (R152): Vector fused multiply-add with one rounding. -/
  | vfma (c : CoreId) (h : Fin 2) (y : VSyl)
  /-- VMAX (R152): Element-wise IEEE maximum. -/
  | vmax (c : CoreId) (h : Fin 2) (y : VSyl)
  /-- VMIN (R152): Element-wise IEEE minimum. -/
  | vmin (c : CoreId) (h : Fin 2) (y : VSyl)
  /-- VABS (R152): Absolute value by clearing the sign bit. -/
  | vabs (c : CoreId) (h : Fin 2) (y : VSyl)
  /-- VNEG (R152): Negation by flipping the sign bit. -/
  | vneg (c : CoreId) (h : Fin 2) (y : VSyl)
  /-- VMOV (R149): Vector move of B. -/
  | vmov (c : CoreId) (h : Fin 2) (y : VSyl)
  /-- VCMPLT (R151): Less-than compare of row ROW0 into p[PD]. -/
  | vcmplt (c : CoreId) (h : Fin 2) (y : VSyl)
  /-- VCMPEQ (R151): Equality compare of row ROW0 into p[PD]. -/
  | vcmpeq (c : CoreId) (h : Fin 2) (y : VSyl)
  /-- VEXP (R155): Vector exponential. -/
  | vexp (c : CoreId) (h : Fin 2) (y : VSyl)
  /-- VLOG (R155): Vector natural logarithm. -/
  | vlog (c : CoreId) (h : Fin 2) (y : VSyl)
  /-- VRCP (R155): Vector reciprocal. -/
  | vrcp (c : CoreId) (h : Fin 2) (y : VSyl)
  /-- VRSQ (R155): Vector reciprocal square root. -/
  | vrsq (c : CoreId) (h : Fin 2) (y : VSyl)
  /-- VSQRT (R155): Vector square root, correctly rounded. -/
  | vsqrt (c : CoreId) (h : Fin 2) (y : VSyl)
  /-- VTANH (R155): Vector hyperbolic tangent. -/
  | vtanh (c : CoreId) (h : Fin 2) (y : VSyl)
  /-- VSIG (R155): Vector logistic sigmoid. -/
  | vsig (c : CoreId) (h : Fin 2) (y : VSyl)
  /-- VGELU (R155): Vector GELU. -/
  | vgelu (c : CoreId) (h : Fin 2) (y : VSyl)
  /-- VSILU (R155): Vector SiLU. -/
  | vsilu (c : CoreId) (h : Fin 2) (y : VSyl)
  /-- VSLOPE (R177): Writes 8-bit slope codes of GELU or SiLU. -/
  | vslope (c : CoreId) (h : Fin 2) (y : VSyl)
  /-- VLD (R161): Loads tensor rows from SPM into a tile, widened to FP32. -/
  | vld (c : CoreId) (h : Fin 2) (y : VSyl)
  /-- VST (R161): Stores tile rows to an FP32 or INT32 tensor in SPM. -/
  | vst (c : CoreId) (h : Fin 2) (y : VSyl)
  /-- XSUM (R158): Reduction sum. -/
  | xsum (c : CoreId) (y : XSyl)
  /-- XSUMSQ (R158): Reduction sum of squares. -/
  | xsumsq (c : CoreId) (y : XSyl)
  /-- XMAX (R158): Reduction maximum. -/
  | xmax (c : CoreId) (y : XSyl)
  /-- XMIN (R158): Reduction minimum. -/
  | xmin (c : CoreId) (y : XSyl)
  /-- XAMAX (R158): Reduction maximum absolute value. -/
  | xamax (c : CoreId) (y : XSyl)
  /-- XARGMAX (R158): Index of the maximum along the reduced axis. -/
  | xargmax (c : CoreId) (y : XSyl)
  /-- XNFIN (R158): Count of non-finite elements. -/
  | xnfin (c : CoreId) (y : XSyl)
  /-- WDMA (R53): Waits until a DMA tag has no transfer outstanding. -/
  | wdma (c : CoreId) (y : YSyl)
  /-- WENG (R53): Waits until selected units are idle. -/
  | weng (c : CoreId) (y : YSyl)
  /-- SIG (R65): Adds 1 to a token counter of a context core. -/
  | sig (c : CoreId) (y : YSyl)
  /-- SIG_ARRIVAL (R65): A SIG reaches its target die and increments or is dropped. -/
  | sigArrival (cd : CdId)
  /-- TOKW (R53): Waits for a non-zero token counter and decrements it. -/
  | tokw (c : CoreId) (y : YSyl)
  /-- TWAIT (R53): Waits until fabric time reaches g[RA]. -/
  | twait (c : CoreId) (y : YSyl)
  /-- FENCE (R53): Orders later writes after earlier writes are visible. -/
  | fence (c : CoreId) (y : YSyl)
  /-- QPOST (R287): Posts a 64-byte SPM entry to an eligible queue or drops it. -/
  | qpost (c : CoreId) (y : YSyl)
  /-- Y_WAIT_SATISFIED (R73): A Y-slot wait's condition holds and the bundle issues. -/
  | yWaitSatisfied (c : CoreId)
  /-- KCVT (R124): Converts a tile into a stored tensor under a recipe. -/
  | kcvt (c : CoreId) (y : KSyl)
  /-- KUNP (R128): Unpacks a stored tensor into a tile in FP32. -/
  | kunp (c : CoreId) (y : KSyl)
  /-- QAMAX (R122): Computes block scales of a tile into the scale buffer. -/
  | qamax (c : CoreId) (y : QSyl)
  /-- QSEED (R136): Seeds the rotation sign vector of a descriptor register. -/
  | qseed (c : CoreId) (y : QSyl)
  /-- QROT (R137): Rotates a tile with the current sign vector. -/
  | qrot (c : CoreId) (y : QSyl)
  /-- QTSC (R121): Sets the per-tensor scale of a descriptor register. -/
  | qtsc (c : CoreId) (y : QSyl)
  /-- BUNDLE_FETCH (R48): The core fetches a bundle through its instruction cache and translation. -/
  | bundleFetch (c : CoreId)
  /-- CONTEXT_STOP (R77): A stop cause reported by a unit reaches the scalar processor and the context stops. -/
  | contextStop (c : CoreId)
  /-- STOP_PROPAGATION (R285): Within 2 µs of a core stop, other cores stop, compute queues halt and work items complete. -/
  | stopPropagation (k : CtxId)
  /-- CHEAP_POINT_BANK (R67): A core with a pending bank request reaches a cheap point, waits for units and saves live state. -/
  | cheapPointBank (c : CoreId)
  /-- FORCED_BANK (R297): CHEAP_WAIT expires or a suspended core is banked: units stop at step boundaries and all state is saved. -/
  | forcedBank (c : CoreId)
  /-- PERIOD_END (R292): Accounting period ends; credits update, placements and bank requests are made. -/
  | periodEnd (cd : CdId)
  /-- HIGH_ARRIVAL (R302): A PRIO HIGH virtual core waits on a full CD; bank requests go to NORMAL cores within 1 µs. -/
  | highArrival (cd : CdId)
  /-- BLOCK_DWELL_EXPIRY (R303): Blocked residents meet a waiting context for BLOCK_DWELL_US; the blocked context is banked. -/
  | blockDwellExpiry (cd : CdId)
  /-- AFFINITY_WINDOW_EXPIRY (R294): The affinity window ends and the virtual core takes the first free core. -/
  | affinityWindowExpiry (k : CtxId) (v : VCoreId)
  /-- PLACEMENT (R294): A waiting virtual core is placed on a free core of its home CD. -/
  | placement (k : CtxId) (v : VCoreId)
  /-- BIND (R295): Binds a virtual core to a core: pin check, template registers, SPM zeroing, state reset or restore. -/
  | bind (k : CtxId) (v : VCoreId)
  /-- QUE_DB (R276): Doorbell write gives a new tail; the module fetches entries or ignores it. -/
  | queDb (q : QueueId) (tail : BitVec 16)
  /-- QUE_ENABLE (R278): QUE_CMD ENABLE checks the descriptor and pins and locks the rings. -/
  | queEnable (q : QueueId)
  /-- QUE_DISABLE (R278): QUE_CMD DISABLE stops fetching; completes once fetched entries complete. -/
  | queDisable (q : QueueId)
  /-- QUE_RESUME (R278): QUE_CMD RESUME returns a HALTED queue to ENABLED. -/
  | queResume (q : QueueId)
  /-- QUE_DISABLED (R278): The last fetched entry of a disabling queue completes and it becomes DISABLED. -/
  | queDisabled (q : QueueId)
  /-- ENTRY_FETCH (R276): The module fetches an entry from a ring. -/
  | entryFetch (q : QueueId)
  /-- ENTRY_ADMISSION (R282): An entry is admitted once NOTBEFORE, BARRIER and model binding allow; its queue timeout is armed. -/
  | entryAdmission (q : QueueId) (i : EntryIdx)
  /-- NOTBEFORE_FIRING (R282): The fabric-time event of an entry's NOTBEFORE fires. -/
  | notbeforeFiring (q : QueueId) (i : EntryIdx)
  /-- QUEUE_TIMEOUT (R286): A queue timeout wins under R342: cores stop, entry completes TIMEOUT, queue HALTED. -/
  | queueTimeout (q : QueueId) (i : EntryIdx)
  /-- ENTRY_NOP (R280): A queue NOP entry completes OK. -/
  | entryNop (q : QueueId) (i : EntryIdx)
  /-- LAUNCH (R281): Starts a work item on virtual cores with g0 to g3 set. -/
  | launch (q : QueueId) (i : EntryIdx)
  /-- WORK_ITEM_COMPLETE (R281): Every core of a work item has executed HALT; the entry completes. -/
  | workItemComplete (q : QueueId) (i : EntryIdx)
  /-- MCOPY (R280): Byte copy through the kilns. -/
  | mcopy (q : QueueId) (i : EntryIdx)
  /-- CTX_SET (R290): Changes SHARE, PRIO, CDMASK and NCORE of a context. -/
  | ctxSet (q : QueueId) (i : EntryIdx)
  /-- SLOT_ALLOC (R304): Makes an EMPTY slot LOADING for a model. -/
  | slotAlloc (q : QueueId) (i : EntryIdx)
  /-- MODEL_FLIP (R306): Waits for kiln jobs, then makes the slot READY at a new epoch and retires the old slot. -/
  | modelFlip (q : QueueId) (i : EntryIdx)
  /-- MODEL_RETIRE (R307): Clears a model's admission pointer and retires its slot. -/
  | modelRetire (q : QueueId) (i : EntryIdx)
  /-- SLOT_ABANDON (R304): Returns a LOADING slot with no kiln job to EMPTY. -/
  | slotAbandon (q : QueueId) (i : EntryIdx)
  /-- SLOT_EMPTIED (R306): A RETIRING slot's in-flight count reaches 0; it becomes EMPTY and its flip or retire completes. -/
  | slotEmptied (sl : Fin 64)
  /-- ADAPTER_SET (R304): Sets the non-current version of an adapter. -/
  | adapterSet (q : QueueId) (i : EntryIdx)
  /-- ADAPTER_FLIP (R308): Makes the SET version current and retires the old one. -/
  | adapterFlip (q : QueueId) (i : EntryIdx)
  /-- ADAPTER_CLEAR (R304): Removes the current adapter version. -/
  | adapterClear (q : QueueId) (i : EntryIdx)
  /-- ADAPTER_VERSION_EMPTIED (R308): A RETIRING adapter version's in-flight count reaches 0 and its command completes. -/
  | adapterVersionEmptied (a : Fin 4096) (ver : Fin 2)
  /-- CREATE (R288): CTX_CMD CREATE checks the entry, locks the ember area and makes the context ACTIVE. -/
  | create (k : CtxId)
  /-- TEARDOWN (R270): CTX_CMD TEARDOWN starts the fence of a context. -/
  | teardown (k : CtxId)
  /-- KILL (R270): CTX_CMD KILL starts the fence and sets KILLED. -/
  | kill (k : CtxId)
  /-- DRAIN_COMPLETE (R271): Every issued request of the context is performed or dropped; the generation advances. -/
  | drainComplete (k : CtxId)
  /-- DRAIN_TIMEOUT (R271): The 500 µs drain bound expires; DRAIN_TIMEOUT is set and the fence continues. -/
  | drainTimeout (k : CtxId)
  /-- GENERATION_ACK (R271): All MDs and CDs acknowledge the new generation; the context enters QUARANTINE and sweeps start. -/
  | generationAck (k : CtxId)
  /-- SWEEP_MARKER (R272): A sweep marker received on a link is echoed on the same lane. -/
  | sweepMarker (l : LinkId) (vl : Fin 4) (p : Packet)
  /-- SWEEP_COMPLETE (R272): Every sweep marker has returned and the context becomes FREE. -/
  | sweepComplete (k : CtxId)
  /-- SWEEP_TIMEOUT (R272): A link returns no echo within 2 ms and counts as swept. -/
  | sweepTimeout (k : CtxId) (l : LinkId)
  /-- XLT_INVAL (R260): Removes cached translations of one context in a scope. -/
  | xltInval (k : CtxId) (scope : Fin 4) (va : BitVec 48)
  /-- XLT_INVAL_DONE (R260): All caches dropped the entries and requests using them are performed; BUSY clears. -/
  | xltInvalDone
  /-- TRANSLATION_WALK (R258): A page-table walk translates a DVA or ends in a fault. -/
  | translationWalk (u : XUnit) (k : CtxId) (va : BitVec 48) (acc : Access)
  /-- FAULT_RECORD (R265): The IOD writes a fault record into a free ring slot and signals its vector. -/
  | faultRecord
  /-- FLT_HEAD (R274): Software advances FLT_HEAD, freeing ring slots for held records. -/
  | fltHead (head : BitVec 16)
  /-- FLT_RESP_RETRY (R266): Response RETRY re-walks every access the record covers. -/
  | fltRespRetry (seq : BitVec 24)
  /-- FLT_RESP_ABORT (R266): Response ABORT kills the context with FAULT_ABORT. -/
  | fltRespAbort (seq : BitVec 24)
  /-- FAULT_SERVICE_TIMEOUT (R267): The 10 ms fault service bound expires and the context is killed. -/
  | faultServiceTimeout (seq : BitVec 32)
  /-- WHEEL_ENTRY_FIRING (R26): An event-timer wheel entry reaches its deadline and fires. -/
  | wheelEntryFiring (die : DieId)
  /-- COARSE_WATCHDOG_FIRING (R28): A deferred queue timeout fires from the coarse watchdog. -/
  | coarseWatchdogFiring (die : DieId)
  /-- DEVICE_MEMORY_READ (R206): A read at the home MD returns data, corrected or marked poisoned. -/
  | deviceMemoryRead (r : MemRead)
  /-- DEVICE_MEMORY_WRITE (R209): A write is performed at the home MD, merging partial granules. -/
  | deviceMemoryWrite (w : MemWrite)
  /-- CRC_RETRY (R208): A read reissue or write repeat after a CRC or parity failure. -/
  | crcRetry (dpa : BitVec 40) (isWrite : Bool) (last : Bool)
  /-- CACHE_EVICTION (R211): A dirty cache line is written back on eviction. -/
  | cacheEviction (dpa : BitVec 40)
  /-- CACHE_WALK (R213): The 2 s walk of the memory-side cache corrects or invalidates lines. -/
  | cacheWalk (m : MdId)
  /-- SCRUB_BLOCK (R214): The scrubber reads one block every PERIOD cycles and repairs or poisons lines. -/
  | scrubBlock (m : MdId)
  /-- SCRUB_WRITEBACK (R215): The scrubber's conditional write-back through slice 0, or its abandonment. -/
  | scrubWriteback (m : MdId)
  /-- PERIODIC_RETRAIN (R196): Once per second a GDDR7 pair is retrained, holding its accesses up to 1 µs. -/
  | periodicRetrain (m : MdId) (pair : Fin 6)
  /-- MEMORY_TRAINING (R195): After reset each pair is trained up to three times. -/
  | memoryTraining (m : MdId) (pair : Fin 6) (ok : Bool)
  /-- MEMORY_FILL (R216): Hardware fills device memory and SRAMs before release; FILL_DONE set. -/
  | memoryFill (u : FillUnit)
  /-- FILL_DONE (R217): An MD completes fill and its held accesses proceed. -/
  | fillDone (m : MdId)
  /-- KILN_YIELD (R33): The kiln finishes its block and releases a pool slice to overlap staging. -/
  | kilnYield (m : MdId)
  /-- STAGING_SLICE_GRANT (R34): A waiting overlap staging request receives a pool slice. -/
  | stagingSliceGrant (m : MdId)
  /-- KILN_LOAD (R419): Reads, decodes, quantises and writes a weight tensor. -/
  | kilnLoad (q : QueueId) (i : EntryIdx)
  /-- KILN_READ (R416): Reads and decodes a source and writes it unchanged. -/
  | kilnRead (q : QueueId) (i : EntryIdx)
  /-- KILN_WRITE (R416): Writes bytes to a storage target. -/
  | kilnWrite (q : QueueId) (i : EntryIdx)
  /-- KILN_BLOCK (R418): The kiln finishes one 64 KiB decoded block. -/
  | kilnBlock (m : MdId) (src : SourceData)
  /-- KILN_JOB_COMPLETE (R424): A kiln job ends and its completion status is written. -/
  | kilnJobComplete (m : MdId)
  /-- DATA_FLIT_RECEIVE (R320): A DATA flit is accepted or discarded, triggering RETRY_REQ on first discard. -/
  | dataFlitReceive (l : LinkId) (f : RxFlit)
  /-- RETRY_REQ (R321): A received RETRY_REQ makes the sender retransmit from the requested SEQ. -/
  | retryReq (l : LinkId) (f : RxFlit)
  /-- RETRY_REQ_REPEAT (R320): The receiver repeats its RETRY_REQ every 2 µs. -/
  | retryReqRepeat (l : LinkId)
  /-- IDLE_FLIT (R316): An IDLE flit arrives carrying ACK and credits. -/
  | idleFlit (l : LinkId) (f : RxFlit)
  /-- TIME_FLIT (R337): A TIME flit from the parent yields a sample that disciplines fabric time. -/
  | timeFlit (l : LinkId) (f : RxFlit)
  /-- TIME_FLIT_SEND (R336): Every 10 µs each end of an UP link sends a TIME flit. -/
  | timeFlitSend (l : LinkId)
  /-- TRAIN_FLIT (R323): TRAIN flits are exchanged; a link comes UP when roles match. -/
  | trainFlit (l : LinkId) (f : RxFlit)
  /-- LASER_READY (R323): A laser source reaches output power and its links enter TRAINING. -/
  | laserReady (pe : Fin 6)
  /-- LASER_FAILURE (R313): A laser source fails and all eight links of its engine enter FAILED. -/
  | laserFailure (pe : Fin 6)
  /-- LOSS_OF_SIGNAL (R324): Loss of signal for 1 µs makes an UP link retrain. -/
  | lossOfSignal (l : LinkId) (wave : Fin 8)
  /-- RETRAIN_TIMEOUT (R324): A retraining not UP within 50 µs is retried; the third failure enters FAILED. -/
  | retrainTimeout (l : LinkId)
  /-- LNK_ENABLE (R323): LNK_CTL ENABLE moves a DISABLED link to TRAINING. -/
  | lnkEnable (l : LinkId)
  /-- LNK_DISABLE (R325): LNK_CTL DISABLE takes a link out of service. -/
  | lnkDisable (l : LinkId)
  /-- LNK_RESTART (R324): LNK_CTL RESTART retrains a FAILED link. -/
  | lnkRestart (l : LinkId)
  /-- ROLE_WRITE (R328): A ROLE write takes effect only while the link is DISABLED. -/
  | roleWrite (l : LinkId) (role : BitVec 2)
  /-- RTE_MODID_WRITE (R329): Writes the module ID, ignored while any link is UP. -/
  | rteModidWrite (id : BitVec 16)
  /-- FLIP_GO (R331): Schedules a routing bank flip at RTE_FLIP. -/
  | flipGo
  /-- ROUTING_FLIP (R331): The flip event fires and ACTIVE toggles. -/
  | routingFlip
  /-- PACKET_ROUTING (R330): A packet's SOP flit is routed, delivered locally or dropped. -/
  | packetRouting
  /-- HOLDOVER_ENTRY (R338): No TIME flit from the parent for 30 µs, or parent link down: LOCKED enters HOLDOVER. -/
  | holdoverEntry
  /-- HOLDOVER_EXPIRY (R338): HOLD_US passes in HOLDOVER and the module enters UNLOCKED. -/
  | holdoverExpiry
  /-- FT_SET (R335): Sets the root's fabric time in state NEVER. -/
  | ftSet (v : BitVec 64)
  /-- SYNC_IN_EDGE (R340): A SYNC_IN rising edge marks a second and disciplines the root. -/
  | syncInEdge
  /-- ALLREDUCE (R353): Sequenced all-reduce by tree or ring. -/
  | allreduce (q : QueueId) (i : EntryIdx)
  /-- REDUCE_SCATTER (R353): Sequenced ring reduce-scatter. -/
  | reduceScatter (q : QueueId) (i : EntryIdx)
  /-- ALLGATHER (R347): Sequenced ring all-gather. -/
  | allgather (q : QueueId) (i : EntryIdx)
  /-- BROADCAST (R347): Sequenced tree broadcast from ROOT. -/
  | broadcast (q : QueueId) (i : EntryIdx)
  /-- BARRIER (R347): Sequenced tree barrier. -/
  | barrier (q : QueueId) (i : EntryIdx)
  /-- SHARD_PERMUTE (R358): Re-shards buffers in place in two phases. -/
  | shardPermute (q : QueueId) (i : EntryIdx)
  /-- PUT (R359): Claims a token slot at the destination and sends data. -/
  | put (q : QueueId) (i : EntryIdx)
  /-- WAIT_TOKEN (R361): Completes when a token slot is DONE. -/
  | waitToken (q : QueueId) (i : EntryIdx)
  /-- TEVENT (R362): Arms a timed event of every member at T. -/
  | tevent (q : QueueId) (i : EntryIdx)
  /-- ARRIVE (R362): Counts an arrival for a TEVENT. -/
  | arrive (q : QueueId) (i : EntryIdx)
  /-- GATE (R181): Combines contributions and runs the cross-module gate reduction. -/
  | gate (q : QueueId) (i : EntryIdx)
  /-- GATE_CONTRIB (R180): A posted gate contribution arms the core's gate and is held for its GATE. -/
  | gateContrib (q : QueueId) (i : EntryIdx)
  /-- SEAL (R356): Arms a step seal evaluation at T_s. -/
  | seal (q : QueueId) (i : EntryIdx)
  /-- SEQUENCED_START (R348): A sequenced command's CSEQ reaches NEXTSEQ and it starts, sending READY. -/
  | sequencedStart (gr : GroupId)
  /-- READY (R349): A READY arrives, granting a window or causing MISMATCH. -/
  | ready (p : Packet)
  /-- COLL_DATA (R350): A collective DATA packet arrives and is placed in the buffer. -/
  | collData (p : Packet)
  /-- ARMED (R362): ARMED arrives from a child of a TEVENT tree. -/
  | armed (p : Packet)
  /-- ALLARMED (R362): ALLARMED arrives from the parent of a TEVENT tree. -/
  | allarmed (p : Packet)
  /-- VETO (R362): A VETO arrives and is forwarded to other tree neighbours. -/
  | veto (p : Packet)
  /-- CLAIM (R359): A CLAIM arrives; the destination answers GRANT, DUP or BUSY. -/
  | claim (p : Packet)
  /-- GRANT (R360): A GRANT arrives and the PUT sends its data. -/
  | grant (p : Packet)
  /-- DUP (R359): A DUP arrives and the PUT ends DUPLICATE. -/
  | dup (p : Packet)
  /-- DONE (R360): A DONE arrives and the PUT ends OK. -/
  | done (p : Packet)
  /-- BUSY (R359): A BUSY arrives and the PUT ends TOKEN_BUSY. -/
  | busy (p : Packet)
  /-- ABORT (R354): An ABORT arrives; the command ends PEER_ABORT and the group becomes BROKEN. -/
  | abort (p : Packet)
  /-- TEVENT_AT_T (R362): At T each member checks for ALLARMED, arrivals and lock and may veto. -/
  | teventAtT (gr : GroupId)
  /-- TEVENT_RELEASE (R362): At T + 2σ + H the TEVENT ends OK or VETO and its kind acts. -/
  | teventRelease (gr : GroupId)
  /-- CLAIM_EXPIRY (R360): A claimed slot with no data for CLAIM_US becomes FREE. -/
  | claimExpiry (gr : GroupId) (claim : BitVec 16)
  /-- CONTRIB_HOLD_TIMEOUT (R355): A contribution no GATE takes within HOLD_MS is answered SKIP TIMEOUT. -/
  | contribHoldTimeout (q : QueueId) (i : EntryIdx)
  /-- LOCAL_GATE_COMBINE (R181): NLOCAL contributions have arrived and are combined locally. -/
  | localGateCombine (gr : GroupId)
  /-- GATE_VERDICT (R183): The verdict is delivered: result records written and tokens added. -/
  | gateVerdict (gr : GroupId)
  /-- GATE_DEADLINE (R187): The gate deadline passes without a verdict; SKIP TIMEOUT is delivered. -/
  | gateDeadline (gr : GroupId)
  /-- SEAL_EVALUATION (R189): At T_s + 1 µs readiness is evaluated and the seal is taken or missed. -/
  | sealEvaluation (q : QueueId) (i : EntryIdx)
  /-- COL_GCMD_RESET (R365): Returns a group to IDLE and sets NEXTSEQ. -/
  | colGcmdReset (gr : GroupId) (seq : BitVec 16)
  /-- BEACON_SEND (R367): Every 100 µs a BEACON goes to the twin. -/
  | beaconSend
  /-- BEACON (R367): A BEACON arrives; a DEGRADED module returns to PAIRED. -/
  | beacon (p : Packet)
  /-- TWIN_SILENCE (R367): No BEACON for 1 ms or no causeway link UP: PAIRED enters DEGRADED. -/
  | twinSilence
  /-- ATTACH (R371): TWN_CMD ATTACH sends the window table and pairs when both ends match. -/
  | attach
  /-- ATTACH_MESSAGE (R371): The twin's ATTACH message arrives and pairing is decided. -/
  | attachMessage (p : Packet)
  /-- ATTACH_TIMEOUT (R371): An ATTACH unmatched within 10 ms completes NO_PEER. -/
  | attachTimeout
  /-- DETACH (R372): TWN_CMD DETACH unpairs the module. -/
  | detach
  /-- DETACH_MESSAGE (R372): The twin's DETACH arrives and the module becomes UNPAIRED. -/
  | detachMessage (p : Packet)
  /-- PASS_PAGE_SEND (R374): The mirror engine reads a pending page, clears Wb and sends it as PAGE packets. -/
  | passPageSend
  /-- PAGE (R374): A PAGE arrives at the twin and is written into the store. -/
  | page (p : Packet)
  /-- COMMIT (R375): COMMIT arrives; the twin marks the bank COMPLETE and returns COMMIT_ACK. -/
  | commit (p : Packet)
  /-- COMMIT_ACK (R375): COMMIT_ACK arrives and loads TWN_BANKb. -/
  | commitAck (p : Packet)
  /-- PROMOTE (R378): TWN_CMD PROMOTE starts sending the twin image to a spare. -/
  | promote (id : BitVec 16)
  /-- RECEIVE (R378): TWN_CMD RECEIVE makes a spare RECEIVING. -/
  | receive (id : BitVec 16)
  /-- XFER (R378): An XFER packet arrives at a spare and is written to its windows. -/
  | xfer (p : Packet)
  /-- XFER_END (R379): XFER_END arrives; with all pages received the promotion ends OK. -/
  | xferEnd (p : Packet)
  /-- PROMO_STALL (R380): No XFER for 2 ms while RECEIVING raises PROMO_STALL. -/
  | promoStall
  /-- LOST (R380): TWN_CMD LOST ends a promotion with loss and poisons unreceived pages. -/
  | lost
  /-- PULL (R383): TWN_CMD PULL requests a committed bank back from the twin. -/
  | pull (bank : Fin 2)
  /-- PULL_REQ (R383): A PULL_REQ arrives and the bank is sent back as XFER packets. -/
  | pullReq (p : Packet)
  /-- CLEAR_STORE (R372): TWN_CMD CLEAR_STORE discards the stored banks. -/
  | clearStore
  /-- KINDLING_TEST (R384): A kindling test runs on an unbound core and yields a signature. -/
  | kindlingTest (c : CoreId) (discard : Bool)
  /-- SIGNATURE_COMPARE (R385): Signatures are compared across CDs and a differing core is marked SUSPECT. -/
  | signatureCompare (seed : BitVec 64)
  /-- SNAPSHOT (R386): A kind-1 TEVENT releasing OK captures the windows to storage. -/
  | snapshot (gr : GroupId)
  /-- SNAPSHOT_DONE (R386): A snapshot's storage writes end and SNAP_DONE is raised. -/
  | snapshotDone (status : BitVec 64)
  /-- HEARTBEAT_SAMPLE (R387): Every HB_US bundle counts are sampled and HANG_CORE may be raised. -/
  | heartbeatSample (cd : CdId)
  /-- HEALTH_RESEND (R436): Every 100 ms held health records are resent. -/
  | healthResend
  /-- HEALTH_ACK (R436): HEALTH_ACK releases a held health record. -/
  | healthAck (sess : Fin 8) (seq : BitVec 32)
  /-- RAS_VERDICT (R390): A fence verdict updates FEPOCH and kills contexts declared dead. -/
  | rasVerdict (job : BitVec 16) (fepoch : BitVec 16) (dead : Bool)
  /-- CORE_RESET (R392): RST_CMD domain 1 resets an unbound core. -/
  | coreReset (c : CoreId) (dump : Bool)
  /-- CD_RESET (R392): RST_CMD domain 2 resets a CD. -/
  | cdReset (cd : CdId) (dump : Bool)
  /-- MD_RESET (R392): RST_CMD domain 3 resets an MD and refills its pairs. -/
  | mdReset (m : MdId) (dump : Bool)
  /-- LINK_RESET (R392): RST_CMD domain 4 resets a link as DISABLE then ENABLE. -/
  | linkReset (l : LinkId) (dump : Bool)
  /-- IOD_FUNCTION_RESET (R392): RST_CMD domain 5 resets an IOD function or the whole IOD. -/
  | iodFunctionReset (u : BitVec 8) (dump : Bool)
  /-- RESET_DONE (R392): A domain reset completes. -/
  | resetDone
  /-- DUMP_START (R394): DMP_CTL GO, Aedord or a reset starts a dump over the debug path. -/
  | dumpStart (trigger : DumpTrigger)
  /-- DUMP_UNIT_READ (R394): The dump engine reads one unit's BLK_ERRCODE. -/
  | dumpUnitRead
  /-- DUMP_UNIT_TIMEOUT (R394): A unit not answering within 64 µs is recorded as no response. -/
  | dumpUnitTimeout
  /-- DUMP_END (R395): The dump ends, releases the debug path and raises DUMP_DONE. -/
  | dumpEnd
  /-- JTAG_TRANSACTION (R36): A JTAG debug transaction runs or is answered BUSY. -/
  | jtagTransaction (t : JtagTxn)
  /-- INJ_ARM (R396): INJ_CTL ARM arms a fault injection under authorisation. -/
  | injArm
  /-- INJ_CANCEL (R396): INJ_CTL CANCEL disarms a pending injection. -/
  | injCancel
  /-- INJECTION_FIRING (R397): An armed injection fires at INJ_TIME. -/
  | injectionFiring
  /-- LOG_WRITE (R31): The log writer takes a dump or trace record from its FIFO. -/
  | logWrite
  /-- TRACE_POINT (R431): An enabled trace point offers a record to the writer FIFO. -/
  | tracePoint (src : BitVec 16) (code : BitVec 16) (data : List Byte)
  /-- HOST_LINK_TRAINING (R399): The host link trains as CXL or falls back to PCIe. -/
  | hostLinkTraining (t : HostTraining)
  /-- CXL_MEM_ACCESS (R401): A host CXL.mem access reaches device memory through the window. -/
  | cxlMemAccess (a : HostAccess)
  /-- BIAS_SNOOP (R402): A module access to a host-bias page issues a CXL.cache request first. -/
  | biasSnoop (dpa : BitVec 40) (isWrite : Bool)
  /-- BIAS_TO_DEVICE (R403): BIAS_CMD flips pages to device bias after host write-back. -/
  | biasToDevice (page : BitVec 20) (npm1 : BitVec 11)
  /-- BIAS_TO_HOST (R403): BIAS_CMD flips pages to host bias after module writes drain. -/
  | biasToHost (page : BitVec 20) (npm1 : BitVec 11)
  /-- HOST_WIN_WRITE (R401): A HOST_WIN write sets the window or is refused or ignored. -/
  | hostWinWrite (v : Word32)
  /-- IDE_KM (R406): An IDE_KM message programs stream keys inside a session. -/
  | ideKm (sess : Fin 8) (stream : Fin 256) (viaDoe : Bool)
  /-- IDE_INTEGRITY_FAILURE (R406): An integrity failure puts a stream in the insecure state. -/
  | ideIntegrityFailure (stream : Fin 256)
  /-- FUNCTION_LEVEL_RESET (R410): An FLR or hot reset kills every context and disables queues. -/
  | functionLevelReset (hot : Bool)
  /-- PERST_N (R500): PERST_N holds or releases the host link; later assertions act as hot reset. -/
  | perstN (high : Bool)
  /-- MSIX_UNMASK (R409): Unmasking a vector with a pending bit sends one message. -/
  | msixUnmask (vec : Fin 2048)
  /-- ETH_INBOUND_DROP (R412): An inbound packet that is not a response to own requests is dropped. -/
  | ethInboundDrop (port : Fin 2)
  /-- STO_ENABLE (R413): STO_CMD ENABLE connects a storage target through both ports. -/
  | stoEnable (tgt : Fin 256) (peer : TargetReply)
  /-- STO_DISABLE (R414): STO_CMD DISABLE disconnects a storage target. -/
  | stoDisable (tgt : Fin 256)
  /-- KEEP_ALIVE (R413): The link processor sends a keep-alive at the target's interval. -/
  | keepAlive (tgt : Fin 256)
  /-- NVME_COMMAND_TIMEOUT (R415): A storage command without completion for IO_TO_MS is reissued or fails. -/
  | nvmeCommandTimeout (id : Nat)
  /-- NVME_COMPLETION (R415): A storage command completion arrives. -/
  | nvmeCompletion (id : Nat) (status : BitVec 16) (data : List Byte)
  /-- GET_VERSION (R435): Returns version and enterprise number. -/
  | getVersion (o : Origin)
  /-- GET_NONCE (R435): Returns a single-use nonce. -/
  | getNonce (o : Origin)
  /-- GET_CERT (R451): Returns the device and manufacturing certificates. -/
  | getCert (o : Origin)
  /-- GET_MEASUREMENTS (R454): Returns signed measurements with the requester nonce. -/
  | getMeasurements (o : Origin) (nonce : List Byte)
  /-- SESSION_OPEN (R455): Establishes a secured ML-KEM session. -/
  | sessionOpen (o : Origin) (nonce : List Byte) (encap : List Byte)
  /-- SESSION_CLOSE (R455): Closes a secured session. -/
  | sessionClose (o : Origin)
  /-- SESSION_TIMEOUT (R455): A session without a message for 60 s ends. -/
  | sessionTimeout (sess : Fin 8)
  /-- GRANT_MESSAGE (R457): A signed GRANT of a scope is accepted into a session. -/
  | grantMessage (o : Origin) (m : GrantMsg)
  /-- GRANT_EXPIRY (R457): A grant's duration expires. -/
  | grantExpiry (sess : Fin 8) (scope : Scope)
  /-- OWNER_SET (R456): Installs a new owner key hash. -/
  | ownerSet (o : Origin) (hash : List Byte) (key : List Byte) (sig : List Byte)
  /-- SVN_COMMIT (R444): Raises the anti-rollback counter to the running image's SVN. -/
  | svnCommit (o : Origin)
  /-- CAL_SET (R459): Commits a new user calibration overlay. -/
  | calSet (o : Origin) (overlay : List CalEntry)
  /-- REG_READ (R437): Management-path read of an allowed register. -/
  | regRead (o : Origin) (off : BitVec 26)
  /-- REG_WRITE (R437): Management-path write of an allowed register. -/
  | regWrite (o : Origin) (off : BitVec 26) (v : Word32)
  /-- DUMP_REQ (R438): Management request that starts a dump. -/
  | dumpReq (o : Origin)
  /-- PLDM_MONITORING_REQUEST (R434): A PLDM Type 2 request for sensor readings. -/
  | pldmMonitoringRequest (o : Origin) (sensor : BitVec 16)
  /-- REQUEST_FIRMWARE_DATA (R462): Writes a 1,024-byte piece of a firmware image. -/
  | requestFirmwareData (o : Origin) (off : BitVec 24) (data : List Byte)
  /-- VERIFY_COMPLETE (R462): Verifies the written image. -/
  | verifyComplete (o : Origin)
  /-- ACTIVATE_FIRMWARE (R462): Sets PENDING with a store commit. -/
  | activateFirmware (o : Origin)
  /-- SENSOR_SAMPLE (R428): Every 250 µs each temperature sensor is sampled. -/
  | sensorSample (raw : List (BitVec 12))
  /-- PMBUS_POLL (R429): Every 10 ms Aedord reads every regulator. -/
  | pmbusPoll (rails : List RailReading)
  /-- WATCHDOG_RESTART (R439): A firmware processor's watchdog expires and it is restarted. -/
  | watchdogRestart (p : Processor)
  /-- AED_FWRST (R439): Software restarts a firmware processor. -/
  | aedFwrst (v : Word32)
  /-- RESTART_END (R440): A firmware processor restart ends and deferred work resumes. -/
  | restartEnd (p : Processor)
  /-- ROM_BOOT (R443): The mask ROM verifies and boots an image. -/
  | romBoot
  /-- IMAGE_HEALTHY (R445): A PENDING image is marked healthy and made ACTIVE. -/
  | imageHealthy
  /-- STORE_COMMIT (R448): A whole store record is written to flash. -/
  | storeCommit
  /-- SIGNATURE_RELEASE (R452): A signature index is released after its reservation commit. -/
  | signatureRelease
  /-- POWER_CEILING_TICK (R491): Every 10 µs the ceiling duty c steps on P10. -/
  | powerCeilingTick (p10 : Nat)
  /-- JUNCTION_DUTY_TICK (R492): Junction duties step on sensor readings. -/
  | junctionDutyTick
  /-- JUNCTION_TRIP (R495): A junction at 115 °C trips: duty 0, dump, commit, rails off. -/
  | junctionTrip
  /-- RAIL_FAULT (R496): Input or rail fault turns every rail off at once. -/
  | railFault
  /-- PWR_EN_HIGH (R497): Powers up the rails in sequence. -/
  | pwrEnHigh
  /-- PWR_EN_LOW (R499): Enters reset and powers down the rails. -/
  | pwrEnLow
  /-- RESET_N (R498): RESET_N low then release performs a module cold reset. -/
  | resetN (high : Bool) (straps : BitVec 3) (mfgTestLow : Bool)
  /-- REFCLK_STOP (R498): REFCLK stopping for 10 µs acts as a module cold reset. -/
  | refclkStop
  /-- BLK_STS_WRITE (R473): W1C write of page event bits. -/
  | blkStsWrite (off : BitVec 26) (v : Word32)
  /-- POSTED_WRITE_PERFORMED (R476): A posted slow-page write is performed in the block's domain. -/
  | postedWritePerformed (pg : PageRef)
  /-- BLK_IND_DATA_WRITE (R479): Queues an indirect write in the page FIFO. -/
  | blkIndDataWrite (pg : PageRef) (viaMgmt : Bool) (v : Word32)
  /-- BLK_IND_DATA_READ (R479): Reads the word at ADDR after the FIFO empties, applying latches. -/
  | blkIndDataRead (pg : PageRef) (viaMgmt : Bool)
  /-- INDIRECT_FIFO_ENTRY (R479): An indirect FIFO entry is performed. -/
  | indirectFifoEntry (pg : PageRef)
  /-- ACCMODE_WRITE (R481): Changes the slow-page access mode when BUSY next reads 0. -/
  | accmodeWrite (pg : PageRef) (indirect : Bool)
  /-- VOTE_WALK (R482): Once per ms every RWV field is voted and minority copies rewritten. -/
  | voteWalk (pg : PageRef)
  /-- COUNTER_WORD0_READ (R143): Reading word 0 of a counter entry latches words 1 to 7. -/
  | counterWord0Read (c : CoreId) (n : Fin 128)
  /-- FT_NOW_LO_READ (R343): Reading FT_NOW_LO latches NOW_HI. -/
  | ftNowLoRead
  /-- NUM_CTL_CLR (R144): Clears all 512 counters of the counter array. -/
  | numCtlClr (c : CoreId)
  /-- REGISTER_WRITE (R12): A write to a register that has no row of its own. -/
  | registerWrite (off : BitVec 26) (size : AccSize) (v : BitVec 64)
  /-- RESULT_READY (R61): A vector, reduction, K, Q, ALOAD or drain operation finishes, writes its result and releases the registers it holds. -/
  | resultReady (c : CoreId) (u : UnitId)
  /-- REFCLK_RETURN (R498): REFCLK resumes and after running for 1 ms the module leaves the cold reset that its stop caused. -/
  | refclkReturn
  /-- TRIP_HOLD_TIMEOUT (R495): 500 ms after a junction trip the rails turn off if neither the commit report nor 120 °C came first. -/
  | tripHoldTimeout
  /-- ETH_PORT_LINK_CHANGE (R415): An Ethernet port goes down or comes up, and commands outstanding on a port that went down are reissued on the other port. -/
  | ethPortLinkChange (port : Fin 2) (up : Bool)
  /-- HDM_DECODER_COMMIT (R401): The host commits the CXL HDM decoder, after which HOST_WIN writes are ignored. -/
  | hdmDecoderCommit (base : BitVec 52)
  /-- BOUNDARY_SCAN_INSTRUCTION (R464): A JTAG TAP instruction other than DBG_ACCESS (BYPASS, IDCODE, SAMPLE/PRELOAD, EXTEST) is performed, EXTEST only while RESET_N holds reset. -/
  | boundaryScanInstruction (ir : BitVec 8) (data : List Bool)
  /-- CONGESTION_NOTIFICATION_PACKET (R411): A RoCEv2 congestion notification packet arrives and the port reduces its sending rate. -/
  | congestionNotificationPacket (port : Fin 2)
  /-- PRIORITY_FLOW_CONTROL_PAUSE (R411): An 802.1Qbb pause frame for the selected priority arrives and pauses or resumes sending on that port. -/
  | priorityFlowControlPause (port : Fin 2) (prio : Fin 8) (pause : Bool)
  /-- ENDPOINT_ID_ASSIGNMENT (R433): The bus owner of an MCTP binding assigns Aedord's endpoint ID. -/
  | endpointIdAssignment (binding : Binding) (eid : BitVec 8)
  deriving DecidableEq, Repr

end Sys2Proof
end

