-- ==== Sys2Proof/WellFormed.lean ====
section
/-! DEFINITION. WellFormed.lean: the checks that an operand list has the length its format gives it. Operands whose
range is their type's range need none. -/

namespace Sys2Proof

/-- A flit is sixteen granules (R315). -/
def RxFlit.wf (f : RxFlit) : Bool := f.cw.length == 16

/-- A packet body is at most 4,096 bytes (Table 11.5 LEN). -/
def Packet.wf (p : Packet) : Bool := decide (p.body.length ≤ 4096)

/-- A command whose operands have the lengths their formats give. -/
def Instr.wf : Instr → Bool
  | .dataFlitReceive _ f | .retryReq _ f | .idleFlit _ f | .timeFlit _ f | .trainFlit _ f => f.wf
  | .sweepMarker _ _ p => p.wf
  | .ready p | .collData p | .armed p | .allarmed p | .veto p | .claim p | .grant p | .dup p | .done p | .busy p
  | .abort p | .beacon p | .attachMessage p | .detachMessage p | .page p | .commit p | .commitAck p | .xfer p
  | .xferEnd p | .pullReq p => p.wf
  | .deviceMemoryRead r => decide (0 < r.len)
  | .deviceMemoryWrite w => decide (0 < w.data.length)
  | .tracePoint _ _ d => decide (d.length ≤ 20)
  | .getMeasurements _ n => n.length == 32
  | .sessionOpen _ n _ => n.length == 32
  | .sensorSample raw => raw.length == 64
  | .pmbusPoll rs => rs.length == 24
  | .calSet _ es => decide (es.length ≤ 128)
  | .requestFirmwareData _ _ d => decide (d.length ≤ 1024)
  | .cxlMemAccess a => decide (0 < a.len) && (!a.write || a.data.length == a.len)
  | _ => true

end Sys2Proof
end

