-- ==== Sys2Proof/Decode.lean ====
section
/-! DEFINITION. Decode.lean: the command a word of the operation table spells. No row of opcode_table.json gives bits:
the commands of this block are not encoded in words, so no word spells one. -/

namespace Sys2Proof

/-- The command that the low `nbits` bits `w` spell by the table's bits: none, since no row gives bits. -/
def decodeTableWord (_nbits _w : Nat) : Option Instr := none

end Sys2Proof
end

