-- ==== Sys2Proof/Machine/Bits.lean ====
section
/-! DEFINITION. Machine/Bits.lean: bit fields, byte order (little-endian, R9), sign extension, saturation. -/

namespace Sys2Proof.Machine

/-- Bits [hi:lo] of a natural number. -/
def bitsOf (w : Nat) (hi lo : Nat) : Nat := (w / 2 ^ lo) % 2 ^ (hi + 1 - lo)

/-- Bit `n` of a natural number. -/
def bitAt (w n : Nat) : Bool := (w / 2 ^ n) % 2 == 1

/-- `w` with bits [hi:lo] replaced by the low bits of `v`. -/
def putBits (w : Word32) (hi lo : Nat) (v : Nat) : Word32 :=
  let mask : Word32 := BitVec.ofNat 32 ((2 ^ (hi + 1 - lo) - 1) * 2 ^ lo)
  (w &&& ~~~mask) ||| (BitVec.ofNat 32 (v * 2 ^ lo) &&& mask)

/-- Little-endian value of a list of bytes. -/
def leNat : List Byte → Nat
  | [] => 0
  | b :: t => b.toNat + 256 * leNat t

/-- `n` bytes of `v`, lowest first. -/
def leBytes : Nat → Nat → List Byte
  | 0, _ => []
  | n + 1, v => BitVec.ofNat 8 v :: leBytes n (v / 256)

/-- Bytes lo to hi of a list, as a little-endian value. -/
def fieldLE (l : List Byte) (lo hi : Nat) : Nat := leNat ((l.drop lo).take (hi + 1 - lo))

/-- Pad with zero bytes, or cut, to `n` bytes. -/
def padTo (n : Nat) (l : List Byte) : List Byte := (l ++ List.replicate n 0).take n

/-- Signed reading of the low `n` bits of `v`. -/
def signedOf (n v : Nat) : Int :=
  let u := v % 2 ^ n
  if 2 * u ≥ 2 ^ n then (u : Int) - 2 ^ n else u

/-- Two's complement of `i` on `n` bits, as a natural. -/
def ofInt (n : Nat) (i : Int) : Nat := (i % (2 ^ n : Int)).toNat

/-- `i` saturated to the signed range of `n` bits. -/
def satSigned (n : Nat) (i : Int) : Int :=
  max (-(2 ^ (n - 1) : Int)) (min ((2 ^ (n - 1) : Int) - 1) i)

/-- Sign extension of a 32-bit immediate to 64 bits. -/
def sext32 (w : Word32) : Word64 := w.signExtend 64

/-- Number of set bits. -/
def popcount (n w : Nat) : Nat := ((List.range n).filter (bitAt w)).length

/-- Leading zero bits of the low `n` bits of `w`; `n` for zero. -/
def leadingZeros (n w : Nat) : Nat :=
  match (List.range n).reverse.find? (bitAt w) with
  | some i => n - 1 - i
  | none => n

/-- Ceiling division. -/
def cdiv (a b : Nat) : Nat := (a + b - 1) / b

/-- Replace bytes from offset `off` by `src`. -/
def splice (l : List Byte) (off : Nat) (src : List Byte) : List Byte :=
  l.take off ++ src ++ l.drop (off + src.length)

end Sys2Proof.Machine
end

