-- ==== Sys2Proof/Machine/Granule.lean ====
section
/-! DEFINITION. Machine/Granule.lean: the granule code (R201 to R204), over GF(16) with x^4 + x + 1. -/

namespace Sys2Proof.Machine

/-- A field element of GF(16). -/
abbrev Sym := BitVec 4

/-- Multiply by α. -/
def gxtime (a : Sym) : Sym := (a <<< 1) ^^^ (if a.getMsbD 0 then 0x3 else 0)

/-- Product in GF(16) (R202). -/
def gmul (a b : Sym) : Sym :=
  let a1 := gxtime a
  let a2 := gxtime a1
  let a3 := gxtime a2
  (if b.getLsbD 0 then a else 0) ^^^ (if b.getLsbD 1 then a1 else 0) ^^^
    (if b.getLsbD 2 then a2 else 0) ^^^ (if b.getLsbD 3 then a3 else 0)

/-- Inverse in GF(16): a to the power 14. -/
def ginv (a : Sym) : Sym :=
  let a2 := gmul a a
  let a4 := gmul a2 a2
  let a8 := gmul a4 a4
  gmul a2 (gmul a4 a8)

def gdiv (a b : Sym) : Sym := gmul a (ginv b)

/-- q(x, y) = x² + x·y + 0x8·y² (R202). -/
def gq (x y : Sym) : Sym := gmul x x ^^^ gmul x y ^^^ gmul 0x8 (gmul y y)

/-- x of data symbol i. -/
def symX (i : Nat) : Sym := BitVec.ofNat 4 (i % 16)

/-- y of data symbol i. -/
def symY (i : Nat) : Sym := BitVec.ofNat 4 (2 + i / 16)

/-- A syndrome, or the column of a symbol times an error. -/
structure Synd where
  t0 : Sym
  t1 : Sym
  t2 : Sym
  t3 : Sym
  deriving DecidableEq, Repr

def Synd.zero : Synd := ⟨0, 0, 0, 0⟩

def Synd.add (a b : Synd) : Synd := ⟨a.t0 ^^^ b.t0, a.t1 ^^^ b.t1, a.t2 ^^^ b.t2, a.t3 ^^^ b.t3⟩

/-- Column of data symbol `i` times `e` (R202). -/
def colData (i : Nat) (e : Sym) : Synd :=
  ⟨e, gmul (symX i) e, gmul (symY i) e, gmul (gq (symX i) (symY i)) e⟩

/-- Columns of C0 to C3 times their symbols (R202). -/
def colCheck (c0 c1 c2 c3 : Sym) : Synd :=
  ⟨c0 ^^^ c1 ^^^ c2, c1, c2, c1 ^^^ gmul 0x8 c2 ^^^ c3⟩

/-- Data symbol `i` of a granule (R201). -/
def dataSym (d : BitVec 128) (i : Nat) : Sym := (d >>> (4 * i)).setWidth 4

/-- Check symbol `k` of a check word (Table 7.2). -/
def chkSym (w : Word16) (k : Nat) : Sym := (w >>> (4 * k)).setWidth 4

/-- The sum of the data symbols times their columns. -/
def dataSynd (d : BitVec 128) : Synd :=
  (List.range 32).foldl (fun t i => t.add (colData i (dataSym d i))) Synd.zero

/-- The sum of the check symbols times their columns. -/
def chkSynd (w : Word16) : Synd := colCheck (chkSym w 0) (chkSym w 1) (chkSym w 2) (chkSym w 3)

/-- The encoder (R203): the check word of a granule. -/
def encodeChk (d : BitVec 128) : Word16 :=
  let s := dataSynd d
  let c0 := s.t0 ^^^ s.t1 ^^^ s.t2
  let c3 := s.t3 ^^^ s.t1 ^^^ gmul 0x8 s.t2
  c3 ++ s.t2 ++ s.t1 ++ c0

/-- What the decoder finds: clean, a symbol to correct (0 to 31 data, 32 to 35 C0 to C3) with its error, or
uncorrectable. -/
inductive Decoded where
  | clean
  | fix (sym : Nat) (e : Sym)
  | bad
  deriving DecidableEq, Repr

/-- The symbol at point (x, y), if the point belongs to one (R204). -/
def symbolAt (x y : Sym) : Option Nat :=
  if x = 0 ∧ y = 0 then some 32
  else if x = 1 ∧ y = 0 then some 33
  else if x = 0 ∧ y = 1 then some 34
  else if y = 2 then some x.toNat
  else if y = 3 then some (16 + x.toNat)
  else none

/-- The decoder's decision on a syndrome (R204). -/
def decodeSynd (t : Synd) : Decoded :=
  if t = Synd.zero then .clean
  else if t.t0 = 0 then
    if t.t1 = 0 ∧ t.t2 = 0 then .fix 35 t.t3 else .bad
  else
    let x := gdiv t.t1 t.t0
    let y := gdiv t.t2 t.t0
    if t.t3 = gmul t.t0 (gq x y) then
      match symbolAt x y with
      | some i => .fix i t.t0
      | none => .bad
    else .bad

/-- Decode a received granule with its received check word. -/
def decodeGranule (d : BitVec 128) (w : Word16) : Decoded := decodeSynd ((dataSynd d).add (chkSynd w))

/-- Decode a stored granule from the difference of its check word (the code is linear). -/
def decodeDiff (diff : Word16) : Decoded := decodeSynd (chkSynd diff)

/-- The data after a correction; a corrected check symbol leaves the data as it is. -/
def applyFix (d : BitVec 128) : Decoded → BitVec 128
  | .fix i e => if i < 32 then d ^^^ ((e.setWidth 128) <<< (4 * i)) else d
  | _ => d

/-- The check difference that flips data symbol `i` of a stored codeword by `e` leaves behind. -/
def diffOfSym (i : Nat) (e : Sym) : Word16 := encodeChk ((e.setWidth 128) <<< (4 * i))

end Sys2Proof.Machine
end

