-- ==== Sys2Proof/Config.lean ====
section
/-! DEFINITION. Config.lean: what the spec leaves open or names by an outside standard. No constant here has a body, so
nothing can be proved about its value. -/

namespace Sys2Proof

/-- Fresh random bits: RAND (R42), stochastic rounding (R127), seeds, nonces. Applied to State.freshIdx.
DESIGN CHOICE, notes/assumptions/2.md: a free value. -/
opaque Config.freeBits : Nat → Word64

/-- The result that the hardware forms for transcendental function `fn` (opcode 0x10 to 0x18) of an operand, which the
model takes where it lies within the bound of Table 5.1 (R155). A free value, notes/assumptions/15.md. -/
opaque Config.transPick (fn : Nat) (x : Word32) : Word32

/-- Set of its MD's cache that a line maps to, modulo 65,536: R211 makes the mapping invisible to software
(notes/assumptions/38.md). -/
opaque Config.cacheSet : Nat → Nat

/-- Signature of the kindling kernel on the operands of a seed (R384). The spec gives neither: a free value,
notes/assumptions/27.md. -/
opaque Config.kindlingSig (seed : Word64) : Word64

/-- What is wrong with the signature of core `c` for a seed; zero throughout for a sound core. Whether a core is sound is
outside the model: a free value, notes/assumptions/27.md. -/
opaque Config.kindlingFlaw (c : Nat) (seed : Word64) : Word64

/-- What frame b of a sequence of Zstandard frames is, read from the bytes of the sequence that have come: not there whole yet,
in breach of RFC 8878, decoded, or absent because the bytes end where it would begin (R418). -/
inductive ZFrame where
  | more
  | bad
  | out (data : List Byte)
  | fin
  deriving DecidableEq, Repr, Inhabited

/-- The decoder of RFC 8878 (R418), an outside standard: bytes, frame number. A free value, notes/assumptions/30.md. -/
opaque Config.zstdFrame : List Byte → Nat → ZFrame

/-! What the module is made with, and what its outside standards compute (R433 to R462; notes/assumptions/30.md). -/

/-- Version and enterprise number that GET_VERSION reports. -/
opaque Config.version : List Byte

/-- Serial number of the module. -/
opaque Config.serial : List Byte

/-- The two certificates of GET_CERT. -/
opaque Config.certs : List Byte

/-- Signature of the device key with an index over a message (R451). -/
opaque Config.sign : Nat → List Byte → List Byte

/-- Key with a digest, message and signature: the XMSS signature of the owner checks (R456, R457). -/
opaque Config.ownerSig : List Byte → List Byte → List Byte → Bool

/-- Ephemeral ML-KEM-1024 public key drawn as free value number n (R455). -/
opaque Config.kemKey : Nat → List Byte

/-- Key, signature and digest of the image in a slot check (R442). -/
opaque Config.imageGood : List Host.Cell → Bool

/-- SVN of the image in a slot. -/
opaque Config.imageSvn : List Host.Cell → BitVec 7

/-- The recovery image verifies, and its SVN. -/
opaque Config.recoveryGood : Bool
opaque Config.recoverySvn : BitVec 7

/-- The factory calibration area verifies (R458). -/
opaque Config.calGood : Bool

/-- Digests of Table 15.8: mask ROM, manifest of an image (`none`: recovery), factory calibration, CALOVL and CONFIG; and the
root key hash. -/
opaque Config.romDigest : List Byte
opaque Config.manifestDigest : Option (List Host.Cell) → List Byte
opaque Config.factoryDigest : List Byte
opaque Config.recordDigest : List CalEntry → Nat → Option Nat → Bool → List Byte
opaque Config.rootKeyHash : List Byte

/-- What an 8-bit instruction code of the TAP selects: 0 BYPASS, 1 IDCODE, 2 SAMPLE/PRELOAD, 3 EXTEST, anything else no
instruction of R504's list. The spec gives no codes (notes/assumptions/10.md). -/
opaque Config.tapCode : BitVec 8 → Nat

end Sys2Proof
end

