-- ==== Sys2Proof/Machine/Regs.lean ====
section
/-! DEFINITION. Machine/Regs.lean: the register pages of BAR0 (Tables 16.1 to 16.4) and every field of their registers,
each with its page, offset, bits, access type (R12) and reset value, from the register tables of the chapters. -/

namespace Sys2Proof.Machine

/-- Page types (Table 16.4). -/
inductive Page where
  | core
  | arr
  | num
  | vec
  | bwd
  | dma
  | cd
  | tmr
  | sch
  | md
  | kln
  | iod
  | mod
  | ctx
  | que
  | res
  | col
  | twn
  | ras
  | rte
  | ft
  | dbg
  | aed
  | host
  | sto
  | eth
  | lnk
  deriving DecidableEq, Repr

/-- Access types (R12). -/
inductive Acc where
  | ro
  | rw
  | w1c
  | wo
  | rwv
  deriving DecidableEq, Repr

/-- A field of a register: its page, the offset of its word, its bits, its access type and its reset value. -/
structure Fld where
  page : Page
  off : Nat
  hi : Nat
  lo : Nat
  acc : Acc
  rst : Nat
  deriving DecidableEq, Repr

/-- BLK_ID.TYPE of a page (Table 16.4). -/
def pageType : Page → Nat
  | .core => 0x0001
  | .arr => 0x0002
  | .num => 0x0003
  | .vec => 0x0004
  | .bwd => 0x0005
  | .dma => 0x0006
  | .cd => 0x0010
  | .tmr => 0x0011
  | .sch => 0x0012
  | .md => 0x0020
  | .kln => 0x0021
  | .iod => 0x0030
  | .mod => 0x003F
  | .ctx => 0x0031
  | .que => 0x0032
  | .res => 0x0033
  | .col => 0x0034
  | .twn => 0x0035
  | .ras => 0x0036
  | .rte => 0x0037
  | .ft => 0x0038
  | .dbg => 0x0039
  | .aed => 0x003A
  | .host => 0x003B
  | .sto => 0x003C
  | .eth => 0x003D
  | .lnk => 0x003E

/-- BAR0 address of page `p` of unit `n` (Table 16.1). The TMR page of unit 8 is the IOD's. -/
def pageBase (p : Page) (n : Nat) : Nat :=
  match p with
  | .core => 0x8000 * n + 0x0
  | .arr => 0x8000 * n + 0x1000
  | .num => 0x8000 * n + 0x2000
  | .vec => 0x8000 * n + 0x3000
  | .bwd => 0x8000 * n + 0x4000
  | .dma => 0x8000 * n + 0x5000
  | .cd => 0x400000 + 0x10000 * n
  | .tmr => if n = 8 then 0x60A000 else 0x400000 + 0x10000 * n + 0x1000
  | .sch => 0x400000 + 0x10000 * n + 0x2000
  | .md => 0x500000 + 0x10000 * n
  | .kln => 0x500000 + 0x10000 * n + 0x1000
  | .iod => 0x600000
  | .mod => 0x601000
  | .ctx => 0x602000
  | .que => 0x603000
  | .res => 0x604000
  | .col => 0x605000
  | .twn => 0x606000
  | .ras => 0x607000
  | .rte => 0x608000
  | .ft => 0x609000
  | .dbg => 0x60B000
  | .aed => 0x60C000
  | .host => 0x60D000
  | .sto => 0x60E000
  | .eth => 0x60F000 + 0x1000 * n
  | .lnk => 0x700000 + 0x1000 * n

/-- The page that holds BAR0 address `a` and its unit, if one is implemented there (Table 16.1). -/
def pageAt (a : Nat) : Option (Page × Nat) :=
  let n := a / 4096
  if n < 0x400 then
    match n % 8 with
    | 0 => some (.core, n / 8)
    | 1 => some (.arr, n / 8)
    | 2 => some (.num, n / 8)
    | 3 => some (.vec, n / 8)
    | 4 => some (.bwd, n / 8)
    | 5 => some (.dma, n / 8)
    | _ => none
  else if n < 0x480 then
    match n % 16 with
    | 0 => some (.cd, (n - 0x400) / 16)
    | 1 => some (.tmr, (n - 0x400) / 16)
    | 2 => some (.sch, (n - 0x400) / 16)
    | _ => none
  else if n < 0x500 then none
  else if n < 0x580 then
    match n % 16 with
    | 0 => some (.md, (n - 0x500) / 16)
    | 1 => some (.kln, (n - 0x500) / 16)
    | _ => none
  else if n < 0x600 then none
  else if n < 0x611 then
    match n - 0x600 with
    | 0 => some (.iod, 0)
    | 1 => some (.mod, 0)
    | 2 => some (.ctx, 0)
    | 3 => some (.que, 0)
    | 4 => some (.res, 0)
    | 5 => some (.col, 0)
    | 6 => some (.twn, 0)
    | 7 => some (.ras, 0)
    | 8 => some (.rte, 0)
    | 9 => some (.ft, 0)
    | 10 => some (.tmr, 8)
    | 11 => some (.dbg, 0)
    | 12 => some (.aed, 0)
    | 13 => some (.host, 0)
    | 14 => some (.sto, 0)
    | 15 => some (.eth, 0)
    | _ => some (.eth, 1)
  else if n < 0x700 then none
  else if n < 0x730 then some (.lnk, n - 0x700)
  else none

/-- The reset value of the register word at offset `off` of page `p` of unit `n` (the Reset columns; L44 to L47 have
role 1, R326). -/
def resetWord (p : Page) (n off : Nat) : Nat :=
  match p with
  | .core => 0
  | .arr => if off = 0x100 then 0x17 else 0
  | .num => if off = 0x100 then 0x10000001 else 0
  | .vec => 0
  | .bwd => 0
  | .dma => 0
  | .cd => 0
  | .tmr => if off = 0x100 then 0x400 else 0
  | .sch => if off = 0x100 then 0x320064 else if off = 0x104 then 0x7800C8 else if off = 0x108 then 0xC8 else 0
  | .md => if off = 0x104 then 0xFB750 else if off = 0x140 then 0x4 else 0
  | .kln => 0
  | .iod => 0
  | .mod => 0
  | .ctx => 0
  | .que => 0
  | .res => 0
  | .col => if off = 0x108 then 0x6440 else 0
  | .twn => if off = 0x124 then 0xFFFFFFFF else if off = 0x128 then 0xFFFFFFFF else 0
  | .ras => if off = 0x144 then 0x100 else if off = 0x100 then 0x140064 else if off = 0x104 then 0x1F40001 else 0
  | .rte => 0
  | .ft => if off = 0x100 then 0x7D00000 else 0
  | .dbg => 0
  | .aed => 0
  | .host => 0
  | .sto => if off = 0x108 then 0x1F4 else 0
  | .eth => if off = 0x100 then 0x6 else 0
  | .lnk => if off = 0x100 ∧ 44 ≤ n then 1 else 0

/-- The reset value of the word at BAR0 address `a`. -/
def resetAt (a : Nat) : Word32 :=
  match pageAt a with
  | some (p, n) => BitVec.ofNat 32 (resetWord p n (a % 4096))
  | none => 0

/-- TMR_CFG.SCHED_RSV of the TMR page (Table 1.9, R37). -/
def F.TMR_CFG_SCHED_RSV : Fld := ⟨.tmr, 0x100, 13, 0, .rw, 1024⟩
/-- TMR_CNT.DEFER_CNT of the TMR page (Table 1.10, R37). -/
def F.TMR_CNT_DEFER_CNT : Fld := ⟨.tmr, 0x104, 15, 0, .rw, 0⟩
/-- TMR_CNT.FULL_CNT of the TMR page (Table 1.10, R37). -/
def F.TMR_CNT_FULL_CNT : Fld := ⟨.tmr, 0x104, 31, 16, .rw, 0⟩
/-- LOG_CNT.TRACE_DROP of the AED page (Table 1.11, R37). -/
def F.LOG_CNT_TRACE_DROP : Fld := ⟨.aed, 0x100, 31, 0, .rw, 0⟩
/-- MD_STG_CNT.KILN_YIELD_CNT of the MD page (Table 1.12, R37). -/
def F.MD_STG_CNT_KILN_YIELD_CNT : Fld := ⟨.md, 0x180, 15, 0, .rw, 0⟩
/-- MD_STG_CNT.OVL_WAIT_CNT of the MD page (Table 1.12, R37). -/
def F.MD_STG_CNT_OVL_WAIT_CNT : Fld := ⟨.md, 0x180, 31, 16, .rw, 0⟩
/-- DBG_STS.MFG_TEST of the DBG page (Table 1.13, R37). -/
def F.DBG_STS_MFG_TEST : Fld := ⟨.dbg, 0x100, 0, 0, .ro, 0⟩
/-- DBG_STS.JTAG_BUSY_CNT of the DBG page (Table 1.13, R37). -/
def F.DBG_STS_JTAG_BUSY_CNT : Fld := ⟨.dbg, 0x100, 31, 16, .rw, 0⟩
/-- CORE_STS.STATE of the CORE page (Table 2.16, R81). -/
def F.CORE_STS_STATE : Fld := ⟨.core, 0x100, 2, 0, .ro, 0⟩
/-- CORE_STS.BANK_REQ of the CORE page (Table 2.16, R81). -/
def F.CORE_STS_BANK_REQ : Fld := ⟨.core, 0x100, 3, 3, .ro, 0⟩
/-- CORE_STS.CTX of the CORE page (Table 2.16, R81). -/
def F.CORE_STS_CTX : Fld := ⟨.core, 0x100, 27, 16, .ro, 0⟩
/-- CORE_STOP.CODE of the CORE page (Table 2.17, R81). -/
def F.CORE_STOP_CODE : Fld := ⟨.core, 0x104, 7, 0, .ro, 0⟩
/-- CORE_STOP.MULTI of the CORE page (Table 2.17, R81). -/
def F.CORE_STOP_MULTI : Fld := ⟨.core, 0x104, 8, 8, .ro, 0⟩
/-- CORE_STOP.SWCODE of the CORE page (Table 2.17, R81). -/
def F.CORE_STOP_SWCODE : Fld := ⟨.core, 0x104, 31, 16, .ro, 0⟩
/-- CORE_STOP_PC_LO.PC_LO of the CORE page (Table 2.18, R81). -/
def F.CORE_STOP_PC_LO_PC_LO : Fld := ⟨.core, 0x108, 31, 0, .ro, 0⟩
/-- CORE_STOP_PC_HI.PC_HI of the CORE page (Table 2.18, R81). -/
def F.CORE_STOP_PC_HI_PC_HI : Fld := ⟨.core, 0x10C, 15, 0, .ro, 0⟩
/-- CORE_LRM_BASE_LO.BASE_LO of the CORE page (Table 2.19, R81). -/
def F.CORE_LRM_BASE_LO_BASE_LO : Fld := ⟨.core, 0x110, 31, 5, .rw, 0⟩
/-- CORE_LRM_BASE_HI.BASE_HI of the CORE page (Table 2.19, R81). -/
def F.CORE_LRM_BASE_HI_BASE_HI : Fld := ⟨.core, 0x114, 15, 0, .rw, 0⟩
/-- CORE_LRM_CNT.COUNT of the CORE page (Table 2.20, R81). -/
def F.CORE_LRM_CNT_COUNT : Fld := ⟨.core, 0x118, 10, 0, .rw, 0⟩
/-- CORE_CNT.YIELD_SKIP_CNT of the CORE page (Table 2.21, R81). -/
def F.CORE_CNT_YIELD_SKIP_CNT : Fld := ⟨.core, 0x120, 15, 0, .rw, 0⟩
/-- CORE_CNT.SIG_DROP_CNT of the CORE page (Table 2.21, R81). -/
def F.CORE_CNT_SIG_DROP_CNT : Fld := ⟨.core, 0x120, 31, 16, .rw, 0⟩
/-- ARR_CFG.TOL_SHIFT of the ARR page (Table 3.10, R111). -/
def F.ARR_CFG_TOL_SHIFT : Fld := ⟨.arr, 0x100, 4, 0, .rwv, 23⟩
/-- ARR_STS.REFUSE of the ARR page (Table 3.11, R111). -/
def F.ARR_STS_REFUSE : Fld := ⟨.arr, 0x104, 2, 0, .ro, 0⟩
/-- ARR_STS.REF_ARR of the ARR page (Table 3.11, R111). -/
def F.ARR_STS_REF_ARR : Fld := ⟨.arr, 0x104, 4, 3, .ro, 0⟩
/-- ARR_STS.POISON of the ARR page (Table 3.11, R111). -/
def F.ARR_STS_POISON : Fld := ⟨.arr, 0x104, 27, 16, .ro, 0⟩
/-- ARR_ABFT_LOG0.VALID of the ARR page (Table 3.12, R111). -/
def F.ARR_ABFT_LOG0_VALID : Fld := ⟨.arr, 0x108, 0, 0, .w1c, 0⟩
/-- ARR_ABFT_LOG0.LOST of the ARR page (Table 3.12, R111). -/
def F.ARR_ABFT_LOG0_LOST : Fld := ⟨.arr, 0x108, 1, 1, .ro, 0⟩
/-- ARR_ABFT_LOG0.ARRAY of the ARR page (Table 3.12, R111). -/
def F.ARR_ABFT_LOG0_ARRAY : Fld := ⟨.arr, 0x108, 3, 2, .ro, 0⟩
/-- ARR_ABFT_LOG0.BANK of the ARR page (Table 3.12, R111). -/
def F.ARR_ABFT_LOG0_BANK : Fld := ⟨.arr, 0x108, 5, 4, .ro, 0⟩
/-- ARR_ABFT_LOG0.INTPAIR of the ARR page (Table 3.12, R111). -/
def F.ARR_ABFT_LOG0_INTPAIR : Fld := ⟨.arr, 0x108, 6, 6, .ro, 0⟩
/-- ARR_ABFT_LOG0.ROWS of the ARR page (Table 3.12, R111). -/
def F.ARR_ABFT_LOG0_ROWS : Fld := ⟨.arr, 0x108, 14, 8, .ro, 0⟩
/-- ARR_ABFT_LOG0.COLS of the ARR page (Table 3.12, R111). -/
def F.ARR_ABFT_LOG0_COLS : Fld := ⟨.arr, 0x108, 22, 16, .ro, 0⟩
/-- ARR_ABFT_LOG1.FTIME_LO of the ARR page (Table 3.13, R111). -/
def F.ARR_ABFT_LOG1_FTIME_LO : Fld := ⟨.arr, 0x10C, 31, 0, .ro, 0⟩
/-- ARR_ABFT_LOG2.FTIME_HI of the ARR page (Table 3.13, R111). -/
def F.ARR_ABFT_LOG2_FTIME_HI : Fld := ⟨.arr, 0x110, 31, 0, .ro, 0⟩
/-- ARR_ABFT_LOG3.CTX of the ARR page (Table 3.14, R111). -/
def F.ARR_ABFT_LOG3_CTX : Fld := ⟨.arr, 0x114, 11, 0, .ro, 0⟩
/-- ARR_ABFT_LOG3.GEN of the ARR page (Table 3.14, R111). -/
def F.ARR_ABFT_LOG3_GEN : Fld := ⟨.arr, 0x114, 31, 12, .ro, 0⟩
/-- ARR_CNT0.ABFT_CNT of the ARR page (Table 3.15, R111). -/
def F.ARR_CNT0_ABFT_CNT : Fld := ⟨.arr, 0x118, 15, 0, .rw, 0⟩
/-- ARR_CNT0.NF_SKIP_CNT of the ARR page (Table 3.15, R111). -/
def F.ARR_CNT0_NF_SKIP_CNT : Fld := ⟨.arr, 0x118, 31, 16, .rw, 0⟩
/-- ARR_CNT1.UNCHECKED_CNT of the ARR page (Table 3.15, R111). -/
def F.ARR_CNT1_UNCHECKED_CNT : Fld := ⟨.arr, 0x11C, 15, 0, .rw, 0⟩
/-- ARR_CNT1.REFUSE_CNT of the ARR page (Table 3.15, R111). -/
def F.ARR_CNT1_REFUSE_CNT : Fld := ⟨.arr, 0x11C, 31, 16, .rw, 0⟩
/-- NUM_CTL.CNT_EN of the NUM page (Table 4.13, R146). -/
def F.NUM_CTL_CNT_EN : Fld := ⟨.num, 0x100, 0, 0, .rw, 1⟩
/-- NUM_CTL.CLR of the NUM page (Table 4.13, R146). -/
def F.NUM_CTL_CLR : Fld := ⟨.num, 0x100, 1, 1, .wo, 0⟩
/-- NUM_CTL.FILT_CTX of the NUM page (Table 4.13, R146). -/
def F.NUM_CTL_FILT_CTX : Fld := ⟨.num, 0x100, 27, 16, .rw, 0⟩
/-- NUM_CTL.FILT_ANY of the NUM page (Table 4.13, R146). -/
def F.NUM_CTL_FILT_ANY : Fld := ⟨.num, 0x100, 28, 28, .rw, 1⟩
/-- NUM_STS.REFUSE of the NUM page (Table 4.14, R146). -/
def F.NUM_STS_REFUSE : Fld := ⟨.num, 0x104, 3, 0, .ro, 0⟩
/-- NUM_STS.REF_UNIT of the NUM page (Table 4.14, R146). -/
def F.NUM_STS_REF_UNIT : Fld := ⟨.num, 0x104, 4, 4, .ro, 0⟩
/-- NUM_CNT.REFUSE_CNT of the NUM page (Table 4.15, R146). -/
def F.NUM_CNT_REFUSE_CNT : Fld := ⟨.num, 0x108, 15, 0, .rw, 0⟩
/-- NUM_CNT.TSC_BAD_CNT of the NUM page (Table 4.15, R146). -/
def F.NUM_CNT_TSC_BAD_CNT : Fld := ⟨.num, 0x108, 31, 16, .rw, 0⟩
/-- VEC_STS.REFUSE of the VEC page (Table 5.6, R165). -/
def F.VEC_STS_REFUSE : Fld := ⟨.vec, 0x100, 2, 0, .ro, 0⟩
/-- VEC_STS.REF_HALF of the VEC page (Table 5.6, R165). -/
def F.VEC_STS_REF_HALF : Fld := ⟨.vec, 0x100, 3, 3, .ro, 0⟩
/-- VEC_STS.ESCAPE of the VEC page (Table 5.6, R165). -/
def F.VEC_STS_ESCAPE : Fld := ⟨.vec, 0x100, 8, 8, .w1c, 0⟩
/-- VEC_STS.TPOISON of the VEC page (Table 5.6, R165). -/
def F.VEC_STS_TPOISON : Fld := ⟨.vec, 0x100, 23, 16, .ro, 0⟩
/-- VEC_CNT_INV.INV_CNT of the VEC page (Table 5.7, R165). -/
def F.VEC_CNT_INV_INV_CNT : Fld := ⟨.vec, 0x104, 31, 0, .rw, 0⟩
/-- VEC_CNT_DZ.DZ_CNT of the VEC page (Table 5.7, R165). -/
def F.VEC_CNT_DZ_DZ_CNT : Fld := ⟨.vec, 0x108, 31, 0, .rw, 0⟩
/-- VEC_CNT_OVF.OVF_CNT of the VEC page (Table 5.7, R165). -/
def F.VEC_CNT_OVF_OVF_CNT : Fld := ⟨.vec, 0x10C, 31, 0, .rw, 0⟩
/-- VEC_CNT_ANF.ANF_CNT of the VEC page (Table 5.7, R165). -/
def F.VEC_CNT_ANF_ANF_CNT : Fld := ⟨.vec, 0x110, 31, 0, .rw, 0⟩
/-- VEC_CNT1.ESC_CNT of the VEC page (Table 5.8, R165). -/
def F.VEC_CNT1_ESC_CNT : Fld := ⟨.vec, 0x114, 15, 0, .rw, 0⟩
/-- VEC_CNT1.REFUSE_CNT of the VEC page (Table 5.8, R165). -/
def F.VEC_CNT1_REFUSE_CNT : Fld := ⟨.vec, 0x114, 31, 16, .rw, 0⟩
/-- BWD_WP_BASE_LO.BASE_LO of the BWD page (Table 6.13, R191). -/
def F.BWD_WP_BASE_LO_BASE_LO : Fld := ⟨.bwd, 0x100, 31, 16, .rw, 0⟩
/-- BWD_WP_BASE_HI.BASE_HI of the BWD page (Table 6.13, R191). -/
def F.BWD_WP_BASE_HI_BASE_HI : Fld := ⟨.bwd, 0x104, 15, 0, .rw, 0⟩
/-- BWD_WP_CFG.SLICE of the BWD page (Table 6.14, R191). -/
def F.BWD_WP_CFG_SLICE : Fld := ⟨.bwd, 0x108, 15, 0, .rw, 0⟩
/-- BWD_WP_CFG.NSTRM1 of the BWD page (Table 6.14, R191). -/
def F.BWD_WP_CFG_NSTRM1 : Fld := ⟨.bwd, 0x108, 19, 16, .rw, 0⟩
/-- BWD_WP_SOFT.SOFT of the BWD page (Table 6.15, R191). -/
def F.BWD_WP_SOFT_SOFT : Fld := ⟨.bwd, 0x10C, 15, 0, .rw, 0⟩
/-- BWD_WP_WIN.SEG0 of the BWD page (Table 6.16, R191). -/
def F.BWD_WP_WIN_SEG0 : Fld := ⟨.bwd, 0x110, 5, 0, .rw, 0⟩
/-- BWD_WP_WIN.NSEG of the BWD page (Table 6.16, R191). -/
def F.BWD_WP_WIN_NSEG : Fld := ⟨.bwd, 0x110, 14, 8, .rw, 0⟩
/-- BWD_WP_STS.CAUSE of the BWD page (Table 6.17, R191). -/
def F.BWD_WP_STS_CAUSE : Fld := ⟨.bwd, 0x114, 2, 0, .ro, 0⟩
/-- BWD_WP_STS.OP of the BWD page (Table 6.17, R191). -/
def F.BWD_WP_STS_OP : Fld := ⟨.bwd, 0x114, 3, 3, .ro, 0⟩
/-- BWD_WP_STS.STREAM of the BWD page (Table 6.17, R191). -/
def F.BWD_WP_STS_STREAM : Fld := ⟨.bwd, 0x114, 7, 4, .ro, 0⟩
/-- BWD_WP_CNT.MARKER_CNT of the BWD page (Table 6.18, R191). -/
def F.BWD_WP_CNT_MARKER_CNT : Fld := ⟨.bwd, 0x118, 15, 0, .rw, 0⟩
/-- BWD_WP_CNT.SLOPE_BAD_CNT of the BWD page (Table 6.18, R191). -/
def F.BWD_WP_CNT_SLOPE_BAD_CNT : Fld := ⟨.bwd, 0x118, 31, 16, .rw, 0⟩
/-- BWD_WP_CNT1.WIN_POP_CNT of the BWD page (Table 6.18, R191). -/
def F.BWD_WP_CNT1_WIN_POP_CNT : Fld := ⟨.bwd, 0x11C, 15, 0, .rw, 0⟩
/-- BWD_WP_CNT1.REFUSE_CNT of the BWD page (Table 6.18, R191). -/
def F.BWD_WP_CNT1_REFUSE_CNT : Fld := ⟨.bwd, 0x11C, 31, 16, .rw, 0⟩
/-- BWD_GATE_STS.STATE of the BWD page (Table 6.19, R191). -/
def F.BWD_GATE_STS_STATE : Fld := ⟨.bwd, 0x120, 1, 0, .ro, 0⟩
/-- BWD_GATE_STS.CAUSE of the BWD page (Table 6.19, R191). -/
def F.BWD_GATE_STS_CAUSE : Fld := ⟨.bwd, 0x120, 6, 2, .ro, 0⟩
/-- BWD_GATE_STS.STEP of the BWD page (Table 6.19, R191). -/
def F.BWD_GATE_STS_STEP : Fld := ⟨.bwd, 0x120, 31, 8, .ro, 0⟩
/-- BWD_GATE_CNT.GATE_SKIP_CNT of the BWD page (Table 6.19, R191). -/
def F.BWD_GATE_CNT_GATE_SKIP_CNT : Fld := ⟨.bwd, 0x124, 15, 0, .rw, 0⟩
/-- BWD_GATE_CNT.GATE_STALE_CNT of the BWD page (Table 6.19, R191). -/
def F.BWD_GATE_CNT_GATE_STALE_CNT : Fld := ⟨.bwd, 0x124, 31, 16, .rw, 0⟩
/-- BWD_SEAL_NUM.SEALNUM of the BWD page (Table 6.20, R191). -/
def F.BWD_SEAL_NUM_SEALNUM : Fld := ⟨.bwd, 0x128, 31, 0, .ro, 0⟩
/-- BWD_WP_SP0.SP of the BWD page (Table 6.20, R191). -/
def F.BWD_WP_SP0_SP : Fld := ⟨.bwd, 0x140, 31, 0, .rw, 0⟩
/-- BWD_WP_SP1.SP of the BWD page (Table 6.20, R191). -/
def F.BWD_WP_SP1_SP : Fld := ⟨.bwd, 0x144, 31, 0, .rw, 0⟩
/-- BWD_WP_SP2.SP of the BWD page (Table 6.20, R191). -/
def F.BWD_WP_SP2_SP : Fld := ⟨.bwd, 0x148, 31, 0, .rw, 0⟩
/-- BWD_WP_SP3.SP of the BWD page (Table 6.20, R191). -/
def F.BWD_WP_SP3_SP : Fld := ⟨.bwd, 0x14C, 31, 0, .rw, 0⟩
/-- BWD_WP_SP4.SP of the BWD page (Table 6.20, R191). -/
def F.BWD_WP_SP4_SP : Fld := ⟨.bwd, 0x150, 31, 0, .rw, 0⟩
/-- BWD_WP_SP5.SP of the BWD page (Table 6.20, R191). -/
def F.BWD_WP_SP5_SP : Fld := ⟨.bwd, 0x154, 31, 0, .rw, 0⟩
/-- BWD_WP_SP6.SP of the BWD page (Table 6.20, R191). -/
def F.BWD_WP_SP6_SP : Fld := ⟨.bwd, 0x158, 31, 0, .rw, 0⟩
/-- BWD_WP_SP7.SP of the BWD page (Table 6.20, R191). -/
def F.BWD_WP_SP7_SP : Fld := ⟨.bwd, 0x15C, 31, 0, .rw, 0⟩
/-- BWD_WP_SP8.SP of the BWD page (Table 6.20, R191). -/
def F.BWD_WP_SP8_SP : Fld := ⟨.bwd, 0x160, 31, 0, .rw, 0⟩
/-- BWD_WP_SP9.SP of the BWD page (Table 6.20, R191). -/
def F.BWD_WP_SP9_SP : Fld := ⟨.bwd, 0x164, 31, 0, .rw, 0⟩
/-- BWD_WP_SP10.SP of the BWD page (Table 6.20, R191). -/
def F.BWD_WP_SP10_SP : Fld := ⟨.bwd, 0x168, 31, 0, .rw, 0⟩
/-- BWD_WP_SP11.SP of the BWD page (Table 6.20, R191). -/
def F.BWD_WP_SP11_SP : Fld := ⟨.bwd, 0x16C, 31, 0, .rw, 0⟩
/-- BWD_WP_SP12.SP of the BWD page (Table 6.20, R191). -/
def F.BWD_WP_SP12_SP : Fld := ⟨.bwd, 0x170, 31, 0, .rw, 0⟩
/-- BWD_WP_SP13.SP of the BWD page (Table 6.20, R191). -/
def F.BWD_WP_SP13_SP : Fld := ⟨.bwd, 0x174, 31, 0, .rw, 0⟩
/-- BWD_WP_SP14.SP of the BWD page (Table 6.20, R191). -/
def F.BWD_WP_SP14_SP : Fld := ⟨.bwd, 0x178, 31, 0, .rw, 0⟩
/-- BWD_WP_SP15.SP of the BWD page (Table 6.20, R191). -/
def F.BWD_WP_SP15_SP : Fld := ⟨.bwd, 0x17C, 31, 0, .rw, 0⟩
/-- MD_STS.TRAIN_DONE of the MD page (Table 7.6, R218). -/
def F.MD_STS_TRAIN_DONE : Fld := ⟨.md, 0x100, 0, 0, .ro, 0⟩
/-- MD_STS.FILL_DONE of the MD page (Table 7.6, R218). -/
def F.MD_STS_FILL_DONE : Fld := ⟨.md, 0x100, 1, 1, .ro, 0⟩
/-- MD_STS.TRAIN_FAIL of the MD page (Table 7.6, R218). -/
def F.MD_STS_TRAIN_FAIL : Fld := ⟨.md, 0x100, 2, 2, .ro, 0⟩
/-- MD_STS.PAIR_FAIL of the MD page (Table 7.6, R218). -/
def F.MD_STS_PAIR_FAIL : Fld := ⟨.md, 0x100, 13, 8, .ro, 0⟩
/-- MD_SCRUB_RATE.PERIOD of the MD page (Table 7.7, R218). -/
def F.MD_SCRUB_RATE_PERIOD : Fld := ⟨.md, 0x104, 23, 0, .rw, 1029968⟩
/-- MD_SCRUB_POS.BLOCK of the MD page (Table 7.8, R218). -/
def F.MD_SCRUB_POS_BLOCK : Fld := ⟨.md, 0x108, 26, 0, .ro, 0⟩
/-- MD_SCRUB_PASS.PASS_CNT of the MD page (Table 7.8, R218). -/
def F.MD_SCRUB_PASS_PASS_CNT : Fld := ⟨.md, 0x10C, 31, 0, .rw, 0⟩
/-- MD_ECC_CNT0.CE_CNT of the MD page (Table 7.9, R218). -/
def F.MD_ECC_CNT0_CE_CNT : Fld := ⟨.md, 0x110, 15, 0, .rw, 0⟩
/-- MD_ECC_CNT0.UE_CNT of the MD page (Table 7.9, R218). -/
def F.MD_ECC_CNT0_UE_CNT : Fld := ⟨.md, 0x110, 31, 16, .rw, 0⟩
/-- MD_ECC_CNT1.POISON_RD_CNT of the MD page (Table 7.9, R218). -/
def F.MD_ECC_CNT1_POISON_RD_CNT : Fld := ⟨.md, 0x114, 15, 0, .rw, 0⟩
/-- MD_ECC_CNT1.CRC_RETRY_CNT of the MD page (Table 7.9, R218). -/
def F.MD_ECC_CNT1_CRC_RETRY_CNT : Fld := ⟨.md, 0x114, 31, 16, .rw, 0⟩
/-- MD_ECC_CNT2.SCRUB_FIX_CNT of the MD page (Table 7.10, R218). -/
def F.MD_ECC_CNT2_SCRUB_FIX_CNT : Fld := ⟨.md, 0x118, 15, 0, .rw, 0⟩
/-- MD_ECC_CNT2.SCRUB_ABANDON_CNT of the MD page (Table 7.10, R218). -/
def F.MD_ECC_CNT2_SCRUB_ABANDON_CNT : Fld := ⟨.md, 0x118, 31, 16, .rw, 0⟩
/-- MD_ECC_CNT3.STALE_DROP_CNT of the MD page (Table 7.10, R218). -/
def F.MD_ECC_CNT3_STALE_DROP_CNT : Fld := ⟨.md, 0x11C, 15, 0, .rw, 0⟩
/-- MD_ECC_CNT3.RANGE_CNT of the MD page (Table 7.10, R218). -/
def F.MD_ECC_CNT3_RANGE_CNT : Fld := ⟨.md, 0x11C, 31, 16, .rw, 0⟩
/-- MD_ECC_LOG0.VALID of the MD page (Table 7.11, R218). -/
def F.MD_ECC_LOG0_VALID : Fld := ⟨.md, 0x120, 0, 0, .w1c, 0⟩
/-- MD_ECC_LOG0.LOST of the MD page (Table 7.11, R218). -/
def F.MD_ECC_LOG0_LOST : Fld := ⟨.md, 0x120, 1, 1, .ro, 0⟩
/-- MD_ECC_LOG0.TYPE of the MD page (Table 7.11, R218). -/
def F.MD_ECC_LOG0_TYPE : Fld := ⟨.md, 0x120, 3, 2, .ro, 0⟩
/-- MD_ECC_LOG0.SRC of the MD page (Table 7.11, R218). -/
def F.MD_ECC_LOG0_SRC : Fld := ⟨.md, 0x120, 5, 4, .ro, 0⟩
/-- MD_ECC_LOG0.PAIR of the MD page (Table 7.11, R218). -/
def F.MD_ECC_LOG0_PAIR : Fld := ⟨.md, 0x120, 8, 6, .ro, 0⟩
/-- MD_ECC_LOG0.SYMBOL of the MD page (Table 7.11, R218). -/
def F.MD_ECC_LOG0_SYMBOL : Fld := ⟨.md, 0x120, 15, 10, .ro, 0⟩
/-- MD_ECC_LOG0.GRANULE of the MD page (Table 7.11, R218). -/
def F.MD_ECC_LOG0_GRANULE : Fld := ⟨.md, 0x120, 17, 16, .ro, 0⟩
/-- MD_ECC_LOG1.DPA_LO of the MD page (Table 7.12, R218). -/
def F.MD_ECC_LOG1_DPA_LO : Fld := ⟨.md, 0x124, 31, 6, .ro, 0⟩
/-- MD_ECC_LOG2.DPA_HI of the MD page (Table 7.12, R218). -/
def F.MD_ECC_LOG2_DPA_HI : Fld := ⟨.md, 0x128, 7, 0, .ro, 0⟩
/-- MD_ECC_LOG3.FTIME_LO of the MD page (Table 7.13, R218). -/
def F.MD_ECC_LOG3_FTIME_LO : Fld := ⟨.md, 0x12C, 31, 0, .ro, 0⟩
/-- MD_CACHE_CFG.STREAM_WAYS of the MD page (Table 7.14, R218). -/
def F.MD_CACHE_CFG_STREAM_WAYS : Fld := ⟨.md, 0x140, 3, 0, .rw, 4⟩
/-- MD_CACHE_HIT.HIT_CNT of the MD page (Table 7.14, R218). -/
def F.MD_CACHE_HIT_HIT_CNT : Fld := ⟨.md, 0x144, 31, 0, .rw, 0⟩
/-- MD_CACHE_MISS.MISS_CNT of the MD page (Table 7.14, R218). -/
def F.MD_CACHE_MISS_MISS_CNT : Fld := ⟨.md, 0x148, 31, 0, .rw, 0⟩
/-- DMA_STS.REFUSE of the DMA page (Table 8.12, R252). -/
def F.DMA_STS_REFUSE : Fld := ⟨.dma, 0x100, 3, 0, .ro, 0⟩
/-- DMA_STS.OP of the DMA page (Table 8.12, R252). -/
def F.DMA_STS_OP : Fld := ⟨.dma, 0x100, 7, 4, .ro, 0⟩
/-- DMA_STS.TAG of the DMA page (Table 8.12, R252). -/
def F.DMA_STS_TAG : Fld := ⟨.dma, 0x100, 11, 8, .ro, 0⟩
/-- DMA_CNT0.IDX_FAULT_CNT of the DMA page (Table 8.13, R252). -/
def F.DMA_CNT0_IDX_FAULT_CNT : Fld := ⟨.dma, 0x104, 15, 0, .rw, 0⟩
/-- DMA_CNT0.PARTIAL_CNT of the DMA page (Table 8.13, R252). -/
def F.DMA_CNT0_PARTIAL_CNT : Fld := ⟨.dma, 0x104, 31, 16, .rw, 0⟩
/-- DMA_CNT1.REFUSE_CNT of the DMA page (Table 8.13, R252). -/
def F.DMA_CNT1_REFUSE_CNT : Fld := ⟨.dma, 0x108, 15, 0, .rw, 0⟩
/-- DMA_CNT1.DESC_REFUSE_CNT of the DMA page (Table 8.13, R252). -/
def F.DMA_CNT1_DESC_REFUSE_CNT : Fld := ⟨.dma, 0x108, 31, 16, .rw, 0⟩
/-- DMA_CNT2.STG_WAIT_CNT of the DMA page (Table 8.14, R252). -/
def F.DMA_CNT2_STG_WAIT_CNT : Fld := ⟨.dma, 0x10C, 15, 0, .rw, 0⟩
/-- DMA_CNT2.STG_ABANDON_CNT of the DMA page (Table 8.14, R252). -/
def F.DMA_CNT2_STG_ABANDON_CNT : Fld := ⟨.dma, 0x10C, 31, 16, .rw, 0⟩
/-- DMA_CNT3.XP_VAN_CNT of the DMA page (Table 8.14, R252). -/
def F.DMA_CNT3_XP_VAN_CNT : Fld := ⟨.dma, 0x110, 31, 0, .rw, 0⟩
/-- DMA_REG_BASE_LO.BASE_LO of the DMA page (Table 8.15, R252). -/
def F.DMA_REG_BASE_LO_BASE_LO : Fld := ⟨.dma, 0x118, 31, 4, .rw, 0⟩
/-- DMA_REG_BASE_HI.BASE_HI of the DMA page (Table 8.15, R252). -/
def F.DMA_REG_BASE_HI_BASE_HI : Fld := ⟨.dma, 0x11C, 15, 0, .rw, 0⟩
/-- DMA_REG_CNT.COUNT of the DMA page (Table 8.16, R252). -/
def F.DMA_REG_CNT_COUNT : Fld := ⟨.dma, 0x120, 15, 0, .rw, 0⟩
/-- CTX_TBL_BASE_LO.BASE_LO of the CTX page (Table 9.10, R274). -/
def F.CTX_TBL_BASE_LO_BASE_LO : Fld := ⟨.ctx, 0x100, 31, 12, .rw, 0⟩
/-- CTX_TBL_BASE_HI.BASE_HI of the CTX page (Table 9.10, R274). -/
def F.CTX_TBL_BASE_HI_BASE_HI : Fld := ⟨.ctx, 0x104, 7, 0, .rw, 0⟩
/-- CTX_CMD.CTX of the CTX page (Table 9.11, R274). -/
def F.CTX_CMD_CTX : Fld := ⟨.ctx, 0x108, 11, 0, .wo, 0⟩
/-- CTX_CMD.OP of the CTX page (Table 9.11, R274). -/
def F.CTX_CMD_OP : Fld := ⟨.ctx, 0x108, 13, 12, .wo, 0⟩
/-- CTX_CMD_STS.BUSY of the CTX page (Table 9.11, R274). -/
def F.CTX_CMD_STS_BUSY : Fld := ⟨.ctx, 0x10C, 0, 0, .ro, 0⟩
/-- CTX_CMD_STS.RESULT of the CTX page (Table 9.11, R274). -/
def F.CTX_CMD_STS_RESULT : Fld := ⟨.ctx, 0x10C, 3, 1, .ro, 0⟩
/-- CTX_CMD_STS.OVERRUN of the CTX page (Table 9.11, R274). -/
def F.CTX_CMD_STS_OVERRUN : Fld := ⟨.ctx, 0x10C, 4, 4, .w1c, 0⟩
/-- CTX_CMD_STS.GEN of the CTX page (Table 9.11, R274). -/
def F.CTX_CMD_STS_GEN : Fld := ⟨.ctx, 0x10C, 31, 12, .ro, 0⟩
/-- FLT_RING_BASE_LO.BASE_LO of the CTX page (Table 9.12, R274). -/
def F.FLT_RING_BASE_LO_BASE_LO : Fld := ⟨.ctx, 0x110, 31, 6, .rw, 0⟩
/-- FLT_RING_BASE_HI.BASE_HI of the CTX page (Table 9.12, R274). -/
def F.FLT_RING_BASE_HI_BASE_HI : Fld := ⟨.ctx, 0x114, 31, 0, .rw, 0⟩
/-- FLT_RING_CFG.LOG2N of the CTX page (Table 9.12, R274). -/
def F.FLT_RING_CFG_LOG2N : Fld := ⟨.ctx, 0x118, 3, 0, .rw, 0⟩
/-- FLT_RING_CFG.VECTOR of the CTX page (Table 9.12, R274). -/
def F.FLT_RING_CFG_VECTOR : Fld := ⟨.ctx, 0x118, 14, 4, .rw, 0⟩
/-- FLT_HEAD.HEAD of the CTX page (Table 9.13, R274). -/
def F.FLT_HEAD_HEAD : Fld := ⟨.ctx, 0x11C, 15, 0, .rw, 0⟩
/-- FLT_TAIL.TAIL of the CTX page (Table 9.13, R274). -/
def F.FLT_TAIL_TAIL : Fld := ⟨.ctx, 0x120, 15, 0, .ro, 0⟩
/-- FLT_RESP.SEQ of the CTX page (Table 9.14, R274). -/
def F.FLT_RESP_SEQ : Fld := ⟨.ctx, 0x124, 23, 0, .wo, 0⟩
/-- FLT_RESP.ACTION of the CTX page (Table 9.14, R274). -/
def F.FLT_RESP_ACTION : Fld := ⟨.ctx, 0x124, 24, 24, .wo, 0⟩
/-- FLT_RESP_STS.LATE of the CTX page (Table 9.14, R274). -/
def F.FLT_RESP_STS_LATE : Fld := ⟨.ctx, 0x128, 0, 0, .w1c, 0⟩
/-- XLT_INVAL_LO.VA_LO of the CTX page (Table 9.15, R274). -/
def F.XLT_INVAL_LO_VA_LO : Fld := ⟨.ctx, 0x12C, 31, 16, .rw, 0⟩
/-- XLT_INVAL_HI.VA_HI of the CTX page (Table 9.15, R274). -/
def F.XLT_INVAL_HI_VA_HI : Fld := ⟨.ctx, 0x130, 15, 0, .rw, 0⟩
/-- XLT_INVAL_HI.CTX of the CTX page (Table 9.15, R274). -/
def F.XLT_INVAL_HI_CTX : Fld := ⟨.ctx, 0x130, 27, 16, .rw, 0⟩
/-- XLT_INVAL_HI.SCOPE of the CTX page (Table 9.15, R274). -/
def F.XLT_INVAL_HI_SCOPE : Fld := ⟨.ctx, 0x130, 29, 28, .rw, 0⟩
/-- XLT_INVAL_HI.GO of the CTX page (Table 9.15, R274). -/
def F.XLT_INVAL_HI_GO : Fld := ⟨.ctx, 0x130, 31, 31, .wo, 0⟩
/-- XLT_INVAL_STS.BUSY of the CTX page (Table 9.15, R274). -/
def F.XLT_INVAL_STS_BUSY : Fld := ⟨.ctx, 0x134, 0, 0, .ro, 0⟩
/-- XLT_INVAL_STS.RESULT of the CTX page (Table 9.15, R274). -/
def F.XLT_INVAL_STS_RESULT : Fld := ⟨.ctx, 0x134, 2, 1, .ro, 0⟩
/-- XLT_INVAL_STS.OVERRUN of the CTX page (Table 9.15, R274). -/
def F.XLT_INVAL_STS_OVERRUN : Fld := ⟨.ctx, 0x134, 3, 3, .w1c, 0⟩
/-- CTX_CNT0.FRESP_STALE_CNT of the CTX page (Table 9.15, R274). -/
def F.CTX_CNT0_FRESP_STALE_CNT : Fld := ⟨.ctx, 0x138, 15, 0, .rw, 0⟩
/-- CTX_CNT0.FLT_TIMEOUT_CNT of the CTX page (Table 9.15, R274). -/
def F.CTX_CNT0_FLT_TIMEOUT_CNT : Fld := ⟨.ctx, 0x138, 31, 16, .rw, 0⟩
/-- CTX_CNT1.DRAIN_TIMEOUT_CNT of the CTX page (Table 9.15, R274). -/
def F.CTX_CNT1_DRAIN_TIMEOUT_CNT : Fld := ⟨.ctx, 0x13C, 15, 0, .rw, 0⟩
/-- CTX_CNT1.STALE_IOD_CNT of the CTX page (Table 9.15, R274). -/
def F.CTX_CNT1_STALE_IOD_CNT : Fld := ⟨.ctx, 0x13C, 31, 16, .rw, 0⟩
/-- QUE_TBL_BASE_LO.BASE_LO of the QUE page (Table 10.17, R310). -/
def F.QUE_TBL_BASE_LO_BASE_LO : Fld := ⟨.que, 0x100, 31, 12, .rw, 0⟩
/-- QUE_TBL_BASE_HI.BASE_HI of the QUE page (Table 10.17, R310). -/
def F.QUE_TBL_BASE_HI_BASE_HI : Fld := ⟨.que, 0x104, 7, 0, .rw, 0⟩
/-- QUE_DB.QID of the QUE page (Table 10.18, R310). -/
def F.QUE_DB_QID : Fld := ⟨.que, 0x108, 15, 0, .wo, 0⟩
/-- QUE_DB.TAIL of the QUE page (Table 10.18, R310). -/
def F.QUE_DB_TAIL : Fld := ⟨.que, 0x108, 31, 16, .wo, 0⟩
/-- QUE_CMD.QID of the QUE page (Table 10.18, R310). -/
def F.QUE_CMD_QID : Fld := ⟨.que, 0x10C, 15, 0, .wo, 0⟩
/-- QUE_CMD.OP of the QUE page (Table 10.18, R310). -/
def F.QUE_CMD_OP : Fld := ⟨.que, 0x10C, 17, 16, .wo, 0⟩
/-- QUE_CMD_STS.BUSY of the QUE page (Table 10.18, R310). -/
def F.QUE_CMD_STS_BUSY : Fld := ⟨.que, 0x110, 0, 0, .ro, 0⟩
/-- QUE_CMD_STS.RESULT of the QUE page (Table 10.18, R310). -/
def F.QUE_CMD_STS_RESULT : Fld := ⟨.que, 0x110, 3, 1, .ro, 0⟩
/-- QUE_CMD_STS.OVERRUN of the QUE page (Table 10.18, R310). -/
def F.QUE_CMD_STS_OVERRUN : Fld := ⟨.que, 0x110, 4, 4, .w1c, 0⟩
/-- QUE_CNT0.DB_IGNORE_CNT of the QUE page (Table 10.19, R310). -/
def F.QUE_CNT0_DB_IGNORE_CNT : Fld := ⟨.que, 0x114, 15, 0, .rw, 0⟩
/-- QUE_CNT0.QPOST_DROP_CNT of the QUE page (Table 10.19, R310). -/
def F.QUE_CNT0_QPOST_DROP_CNT : Fld := ⟨.que, 0x114, 31, 16, .rw, 0⟩
/-- QUE_CNT1.BAD_ENTRY_CNT of the QUE page (Table 10.19, R310). -/
def F.QUE_CNT1_BAD_ENTRY_CNT : Fld := ⟨.que, 0x118, 15, 0, .rw, 0⟩
/-- QUE_CNT1.TIMEOUT_CNT of the QUE page (Table 10.19, R310). -/
def F.QUE_CNT1_TIMEOUT_CNT : Fld := ⟨.que, 0x118, 31, 16, .rw, 0⟩
/-- SCH_CFG.PERIOD_US of the SCH page (Table 10.20, R310). -/
def F.SCH_CFG_PERIOD_US : Fld := ⟨.sch, 0x100, 11, 0, .rw, 100⟩
/-- SCH_CFG.BLOCK_DWELL_US of the SCH page (Table 10.20, R310). -/
def F.SCH_CFG_BLOCK_DWELL_US : Fld := ⟨.sch, 0x100, 27, 16, .rw, 50⟩
/-- SCH_TIMES.AFF_WIN_US of the SCH page (Table 10.20, R310). -/
def F.SCH_TIMES_AFF_WIN_US : Fld := ⟨.sch, 0x104, 15, 0, .rw, 200⟩
/-- SCH_TIMES.CHEAP_WAIT_US of the SCH page (Table 10.20, R310). -/
def F.SCH_TIMES_CHEAP_WAIT_US : Fld := ⟨.sch, 0x104, 31, 16, .rw, 120⟩
/-- SCH_MARGIN.MARGIN_US of the SCH page (Table 10.21, R310). -/
def F.SCH_MARGIN_MARGIN_US : Fld := ⟨.sch, 0x108, 15, 0, .rw, 200⟩
/-- SCH_CNT0.CHEAP_BANK_CNT of the SCH page (Table 10.21, R310). -/
def F.SCH_CNT0_CHEAP_BANK_CNT : Fld := ⟨.sch, 0x10C, 15, 0, .rw, 0⟩
/-- SCH_CNT0.FORCED_BANK_CNT of the SCH page (Table 10.21, R310). -/
def F.SCH_CNT0_FORCED_BANK_CNT : Fld := ⟨.sch, 0x10C, 31, 16, .rw, 0⟩
/-- SCH_CNT1.WARM_RESUME_CNT of the SCH page (Table 10.22, R310). -/
def F.SCH_CNT1_WARM_RESUME_CNT : Fld := ⟨.sch, 0x110, 15, 0, .rw, 0⟩
/-- SCH_CNT1.BLOCKED_BANK_CNT of the SCH page (Table 10.22, R310). -/
def F.SCH_CNT1_BLOCKED_BANK_CNT : Fld := ⟨.sch, 0x110, 31, 16, .rw, 0⟩
/-- SCH_CNT2.AFF_WAIT_CNT of the SCH page (Table 10.22, R310). -/
def F.SCH_CNT2_AFF_WAIT_CNT : Fld := ⟨.sch, 0x114, 15, 0, .rw, 0⟩
/-- SCH_CNT2.DSM_RECLAIM_CNT of the SCH page (Table 10.22, R310). -/
def F.SCH_CNT2_DSM_RECLAIM_CNT : Fld := ⟨.sch, 0x114, 31, 16, .rw, 0⟩
/-- LNK_CFG.ROLE of the LNK page (Table 11.8, R343). -/
def F.LNK_CFG_ROLE : Fld := ⟨.lnk, 0x100, 1, 0, .rw, 0⟩
/-- LNK_CTL.OP of the LNK page (Table 11.8, R343). -/
def F.LNK_CTL_OP : Fld := ⟨.lnk, 0x104, 1, 0, .wo, 0⟩
/-- LNK_STS.STATE of the LNK page (Table 11.9, R343). -/
def F.LNK_STS_STATE : Fld := ⟨.lnk, 0x108, 2, 0, .ro, 0⟩
/-- LNK_STS.ROLE_MISMATCH of the LNK page (Table 11.9, R343). -/
def F.LNK_STS_ROLE_MISMATCH : Fld := ⟨.lnk, 0x108, 3, 3, .ro, 0⟩
/-- LNK_STS.IGNORED of the LNK page (Table 11.9, R343). -/
def F.LNK_STS_IGNORED : Fld := ⟨.lnk, 0x108, 4, 4, .w1c, 0⟩
/-- LNK_STS.WAVE_LOS of the LNK page (Table 11.9, R343). -/
def F.LNK_STS_WAVE_LOS : Fld := ⟨.lnk, 0x108, 15, 8, .ro, 0⟩
/-- LNK_STS.PEER_MOD of the LNK page (Table 11.9, R343). -/
def F.LNK_STS_PEER_MOD : Fld := ⟨.lnk, 0x108, 31, 16, .ro, 0⟩
/-- LNK_DELAY.DELAY_NS of the LNK page (Table 11.9, R343). -/
def F.LNK_DELAY_DELAY_NS : Fld := ⟨.lnk, 0x10C, 15, 0, .ro, 0⟩
/-- LNK_CNT0.CE_CNT of the LNK page (Table 11.10, R343). -/
def F.LNK_CNT0_CE_CNT : Fld := ⟨.lnk, 0x110, 15, 0, .rw, 0⟩
/-- LNK_CNT0.RETRY_CNT of the LNK page (Table 11.10, R343). -/
def F.LNK_CNT0_RETRY_CNT : Fld := ⟨.lnk, 0x110, 31, 16, .rw, 0⟩
/-- LNK_CNT1.RETRAIN_CNT of the LNK page (Table 11.10, R343). -/
def F.LNK_CNT1_RETRAIN_CNT : Fld := ⟨.lnk, 0x114, 15, 0, .rw, 0⟩
/-- LNK_CNT1.LOST_PKT_CNT of the LNK page (Table 11.10, R343). -/
def F.LNK_CNT1_LOST_PKT_CNT : Fld := ⟨.lnk, 0x114, 31, 16, .rw, 0⟩
/-- LNK_CNT2.HOP_DROP_CNT of the LNK page (Table 11.10, R343). -/
def F.LNK_CNT2_HOP_DROP_CNT : Fld := ⟨.lnk, 0x118, 15, 0, .rw, 0⟩
/-- LNK_CNT2.CW_DROP_CNT of the LNK page (Table 11.10, R343). -/
def F.LNK_CNT2_CW_DROP_CNT : Fld := ⟨.lnk, 0x118, 31, 16, .rw, 0⟩
/-- RTE_MODID.MOD_ID of the RTE page (Table 11.11, R343). -/
def F.RTE_MODID_MOD_ID : Fld := ⟨.rte, 0x100, 15, 0, .rw, 0⟩
/-- RTE_CTL.ACTIVE of the RTE page (Table 11.11, R343). -/
def F.RTE_CTL_ACTIVE : Fld := ⟨.rte, 0x104, 0, 0, .ro, 0⟩
/-- RTE_CTL.FLIP_GO of the RTE page (Table 11.11, R343). -/
def F.RTE_CTL_FLIP_GO : Fld := ⟨.rte, 0x104, 1, 1, .wo, 0⟩
/-- RTE_STS.PENDING of the RTE page (Table 11.11, R343). -/
def F.RTE_STS_PENDING : Fld := ⟨.rte, 0x108, 0, 0, .ro, 0⟩
/-- RTE_STS.RESULT of the RTE page (Table 11.11, R343). -/
def F.RTE_STS_RESULT : Fld := ⟨.rte, 0x108, 1, 1, .ro, 0⟩
/-- RTE_STS.OVERRUN of the RTE page (Table 11.11, R343). -/
def F.RTE_STS_OVERRUN : Fld := ⟨.rte, 0x108, 2, 2, .w1c, 0⟩
/-- RTE_FLIP_LO.FTIME_LO of the RTE page (Table 11.12, R343). -/
def F.RTE_FLIP_LO_FTIME_LO : Fld := ⟨.rte, 0x10C, 31, 0, .rw, 0⟩
/-- RTE_FLIP_HI.FTIME_HI of the RTE page (Table 11.12, R343). -/
def F.RTE_FLIP_HI_FTIME_HI : Fld := ⟨.rte, 0x110, 31, 0, .rw, 0⟩
/-- RTE_CNT.UNREACH_CNT of the RTE page (Table 11.12, R343). -/
def F.RTE_CNT_UNREACH_CNT : Fld := ⟨.rte, 0x114, 31, 0, .rw, 0⟩
/-- FT_CFG.ROOT of the FT page (Table 11.13, R343). -/
def F.FT_CFG_ROOT : Fld := ⟨.ft, 0x100, 0, 0, .rw, 0⟩
/-- FT_CFG.SYNC_EN of the FT page (Table 11.13, R343). -/
def F.FT_CFG_SYNC_EN : Fld := ⟨.ft, 0x100, 1, 1, .rw, 0⟩
/-- FT_CFG.PARENT of the FT page (Table 11.13, R343). -/
def F.FT_CFG_PARENT : Fld := ⟨.ft, 0x100, 13, 8, .rw, 0⟩
/-- FT_CFG.HOLD_US of the FT page (Table 11.13, R343). -/
def F.FT_CFG_HOLD_US : Fld := ⟨.ft, 0x100, 31, 16, .rw, 2000⟩
/-- FT_STS.LSTATE of the FT page (Table 11.13, R343). -/
def F.FT_STS_LSTATE : Fld := ⟨.ft, 0x104, 1, 0, .ro, 0⟩
/-- FT_STS.SET_IGN of the FT page (Table 11.13, R343). -/
def F.FT_STS_SET_IGN : Fld := ⟨.ft, 0x104, 2, 2, .w1c, 0⟩
/-- FT_NOW_LO.NOW_LO of the FT page (Table 11.13, R343). -/
def F.FT_NOW_LO_NOW_LO : Fld := ⟨.ft, 0x108, 31, 0, .ro, 0⟩
/-- FT_NOW_HI.NOW_HI of the FT page (Table 11.13, R343). -/
def F.FT_NOW_HI_NOW_HI : Fld := ⟨.ft, 0x10C, 31, 0, .ro, 0⟩
/-- FT_OFFSET.THETA of the FT page (Table 11.14, R343). -/
def F.FT_OFFSET_THETA : Fld := ⟨.ft, 0x110, 15, 0, .ro, 0⟩
/-- FT_OFFSET.SYNC_ERR of the FT page (Table 11.14, R343). -/
def F.FT_OFFSET_SYNC_ERR : Fld := ⟨.ft, 0x110, 31, 16, .ro, 0⟩
/-- FT_SET_LO.SET_LO of the FT page (Table 11.14, R343). -/
def F.FT_SET_LO_SET_LO : Fld := ⟨.ft, 0x114, 31, 0, .wo, 0⟩
/-- FT_SET_HI.SET_HI of the FT page (Table 11.14, R343). -/
def F.FT_SET_HI_SET_HI : Fld := ⟨.ft, 0x118, 31, 0, .wo, 0⟩
/-- FT_CNT.UNLOCK_CNT of the FT page (Table 11.14, R343). -/
def F.FT_CNT_UNLOCK_CNT : Fld := ⟨.ft, 0x11C, 15, 0, .rw, 0⟩
/-- FT_CNT.SYNC_IGN_CNT of the FT page (Table 11.14, R343). -/
def F.FT_CNT_SYNC_IGN_CNT : Fld := ⟨.ft, 0x11C, 31, 16, .rw, 0⟩
/-- TMR_CNT1.LATE_WIN_CNT of the TMR page (Table 11.14, R343). -/
def F.TMR_CNT1_LATE_WIN_CNT : Fld := ⟨.tmr, 0x108, 15, 0, .rw, 0⟩
/-- TMR_CNT1.AFTER_CNT of the TMR page (Table 11.14, R343). -/
def F.TMR_CNT1_AFTER_CNT : Fld := ⟨.tmr, 0x108, 31, 16, .rw, 0⟩
/-- TMR_CNT2.PAST_CNT of the TMR page (Table 11.14, R343). -/
def F.TMR_CNT2_PAST_CNT : Fld := ⟨.tmr, 0x10C, 15, 0, .rw, 0⟩
/-- COL_GRP_BASE_LO.BASE_LO of the COL page (Table 12.12, R365). -/
def F.COL_GRP_BASE_LO_BASE_LO : Fld := ⟨.col, 0x100, 31, 12, .rw, 0⟩
/-- COL_GRP_BASE_HI.BASE_HI of the COL page (Table 12.12, R365). -/
def F.COL_GRP_BASE_HI_BASE_HI : Fld := ⟨.col, 0x104, 7, 0, .rw, 0⟩
/-- COL_CFG.WIN of the COL page (Table 12.12, R365). -/
def F.COL_CFG_WIN : Fld := ⟨.col, 0x108, 7, 0, .rw, 64⟩
/-- COL_CFG.HOLD_MS of the COL page (Table 12.12, R365). -/
def F.COL_CFG_HOLD_MS : Fld := ⟨.col, 0x108, 23, 8, .rw, 100⟩
/-- COL_GCMD.GROUP of the COL page (Table 12.13, R365). -/
def F.COL_GCMD_GROUP : Fld := ⟨.col, 0x10C, 11, 0, .wo, 0⟩
/-- COL_GCMD.OP of the COL page (Table 12.13, R365). -/
def F.COL_GCMD_OP : Fld := ⟨.col, 0x10C, 13, 12, .wo, 0⟩
/-- COL_GCMD.SEQ of the COL page (Table 12.13, R365). -/
def F.COL_GCMD_SEQ : Fld := ⟨.col, 0x10C, 31, 16, .wo, 0⟩
/-- COL_STS.IGNORED of the COL page (Table 12.13, R365). -/
def F.COL_STS_IGNORED : Fld := ⟨.col, 0x110, 0, 0, .w1c, 0⟩
/-- COL_CNT0.ABORT_RX_CNT of the COL page (Table 12.14, R365). -/
def F.COL_CNT0_ABORT_RX_CNT : Fld := ⟨.col, 0x114, 15, 0, .rw, 0⟩
/-- COL_CNT0.LINK_LOST_CNT of the COL page (Table 12.14, R365). -/
def F.COL_CNT0_LINK_LOST_CNT : Fld := ⟨.col, 0x114, 31, 16, .rw, 0⟩
/-- COL_CNT1.DUP_CNT of the COL page (Table 12.14, R365). -/
def F.COL_CNT1_DUP_CNT : Fld := ⟨.col, 0x118, 15, 0, .rw, 0⟩
/-- COL_CNT1.VETO_CNT of the COL page (Table 12.14, R365). -/
def F.COL_CNT1_VETO_CNT : Fld := ⟨.col, 0x118, 31, 16, .rw, 0⟩
/-- COL_CNT2.CLAIM_EXP_CNT of the COL page (Table 12.14, R365). -/
def F.COL_CNT2_CLAIM_EXP_CNT : Fld := ⟨.col, 0x11C, 15, 0, .rw, 0⟩
/-- COL_CNT2.VETO_LATE_CNT of the COL page (Table 12.14, R365). -/
def F.COL_CNT2_VETO_LATE_CNT : Fld := ⟨.col, 0x11C, 31, 16, .rw, 0⟩
/-- TWN_CFG.TWIN_ID of the TWN page (Table 13.10, R398). -/
def F.TWN_CFG_TWIN_ID : Fld := ⟨.twn, 0x100, 15, 0, .rw, 0⟩
/-- TWN_CFG.SEAL_CTX of the TWN page (Table 13.10, R398). -/
def F.TWN_CFG_SEAL_CTX : Fld := ⟨.twn, 0x100, 27, 16, .rw, 0⟩
/-- TWN_CFG.HOLD of the TWN page (Table 13.10, R398). -/
def F.TWN_CFG_HOLD : Fld := ⟨.twn, 0x100, 28, 28, .rw, 0⟩
/-- TWN_CMD.OP of the TWN page (Table 13.10, R398). -/
def F.TWN_CMD_OP : Fld := ⟨.twn, 0x104, 3, 0, .wo, 0⟩
/-- TWN_CMD.ARG of the TWN page (Table 13.10, R398). -/
def F.TWN_CMD_ARG : Fld := ⟨.twn, 0x104, 31, 16, .wo, 0⟩
/-- TWN_STS.STATE of the TWN page (Table 13.10, R398). -/
def F.TWN_STS_STATE : Fld := ⟨.twn, 0x108, 2, 0, .ro, 0⟩
/-- TWN_STS.PASS_RUN of the TWN page (Table 13.10, R398). -/
def F.TWN_STS_PASS_RUN : Fld := ⟨.twn, 0x108, 3, 3, .ro, 0⟩
/-- TWN_STS.BUSY of the TWN page (Table 13.10, R398). -/
def F.TWN_STS_BUSY : Fld := ⟨.twn, 0x108, 4, 4, .ro, 0⟩
/-- TWN_STS.RESULT of the TWN page (Table 13.10, R398). -/
def F.TWN_STS_RESULT : Fld := ⟨.twn, 0x108, 7, 5, .ro, 0⟩
/-- TWN_STS.OVERRUN of the TWN page (Table 13.10, R398). -/
def F.TWN_STS_OVERRUN : Fld := ⟨.twn, 0x108, 8, 8, .w1c, 0⟩
/-- TWN_STS.PEER of the TWN page (Table 13.10, R398). -/
def F.TWN_STS_PEER : Fld := ⟨.twn, 0x108, 31, 16, .ro, 0⟩
/-- TWN_WIN_LO.BASE_LO of the TWN page (Table 13.11, R398). -/
def F.TWN_WIN_LO_BASE_LO : Fld := ⟨.twn, 0x10C, 31, 6, .rw, 0⟩
/-- TWN_WIN_HI.BASE_HI of the TWN page (Table 13.11, R398). -/
def F.TWN_WIN_HI_BASE_HI : Fld := ⟨.twn, 0x110, 7, 0, .rw, 0⟩
/-- TWN_WIN_HI.COUNT of the TWN page (Table 13.11, R398). -/
def F.TWN_WIN_HI_COUNT : Fld := ⟨.twn, 0x110, 14, 8, .rw, 0⟩
/-- TWN_STORE_LO.BASE_LO of the TWN page (Table 13.11, R398). -/
def F.TWN_STORE_LO_BASE_LO : Fld := ⟨.twn, 0x114, 31, 16, .rw, 0⟩
/-- TWN_STORE_HI.BASE_HI of the TWN page (Table 13.11, R398). -/
def F.TWN_STORE_HI_BASE_HI : Fld := ⟨.twn, 0x118, 7, 0, .rw, 0⟩
/-- TWN_STORE_HI.LEN of the TWN page (Table 13.11, R398). -/
def F.TWN_STORE_HI_LEN : Fld := ⟨.twn, 0x118, 29, 8, .rw, 0⟩
/-- TWN_LOSS_LO.BASE_LO of the TWN page (Table 13.11, R398). -/
def F.TWN_LOSS_LO_BASE_LO : Fld := ⟨.twn, 0x11C, 31, 12, .rw, 0⟩
/-- TWN_LOSS_HI.BASE_HI of the TWN page (Table 13.11, R398). -/
def F.TWN_LOSS_HI_BASE_HI : Fld := ⟨.twn, 0x120, 7, 0, .rw, 0⟩
/-- TWN_BANK0.SEAL of the TWN page (Table 13.12, R398). -/
def F.TWN_BANK0_SEAL : Fld := ⟨.twn, 0x124, 31, 0, .ro, 4294967295⟩
/-- TWN_BANK1.SEAL of the TWN page (Table 13.12, R398). -/
def F.TWN_BANK1_SEAL : Fld := ⟨.twn, 0x128, 31, 0, .ro, 4294967295⟩
/-- TWN_CNT0.PASS_CNT of the TWN page (Table 13.12, R398). -/
def F.TWN_CNT0_PASS_CNT : Fld := ⟨.twn, 0x12C, 15, 0, .rw, 0⟩
/-- TWN_CNT0.PASS_SKIP_CNT of the TWN page (Table 13.12, R398). -/
def F.TWN_CNT0_PASS_SKIP_CNT : Fld := ⟨.twn, 0x12C, 31, 16, .rw, 0⟩
/-- TWN_CNT1.HOLD_CNT of the TWN page (Table 13.12, R398). -/
def F.TWN_CNT1_HOLD_CNT : Fld := ⟨.twn, 0x130, 15, 0, .rw, 0⟩
/-- TWN_CNT1.RANGE_DROP_CNT of the TWN page (Table 13.12, R398). -/
def F.TWN_CNT1_RANGE_DROP_CNT : Fld := ⟨.twn, 0x130, 31, 16, .rw, 0⟩
/-- RAS_SUSPECT0.SUSPECT of the RAS page (Table 13.13, R398). -/
def F.RAS_SUSPECT0_SUSPECT : Fld := ⟨.ras, 0x108, 31, 0, .w1c, 0⟩
/-- RAS_SUSPECT1.SUSPECT of the RAS page (Table 13.13, R398). -/
def F.RAS_SUSPECT1_SUSPECT : Fld := ⟨.ras, 0x10C, 31, 0, .w1c, 0⟩
/-- RAS_SUSPECT2.SUSPECT of the RAS page (Table 13.13, R398). -/
def F.RAS_SUSPECT2_SUSPECT : Fld := ⟨.ras, 0x110, 31, 0, .w1c, 0⟩
/-- RAS_SUSPECT3.SUSPECT of the RAS page (Table 13.13, R398). -/
def F.RAS_SUSPECT3_SUSPECT : Fld := ⟨.ras, 0x114, 31, 0, .w1c, 0⟩
/-- RAS_KT_CNT.KT_RUN_CNT of the RAS page (Table 13.13, R398). -/
def F.RAS_KT_CNT_KT_RUN_CNT : Fld := ⟨.ras, 0x118, 15, 0, .rw, 0⟩
/-- RAS_KT_CNT.KT_MISMATCH_CNT of the RAS page (Table 13.13, R398). -/
def F.RAS_KT_CNT_KT_MISMATCH_CNT : Fld := ⟨.ras, 0x118, 31, 16, .rw, 0⟩
/-- RAS_VERDICT_LO.JOB of the RAS page (Table 13.14, R398). -/
def F.RAS_VERDICT_LO_JOB : Fld := ⟨.ras, 0x11C, 15, 0, .wo, 0⟩
/-- RAS_VERDICT_LO.FEPOCH of the RAS page (Table 13.14, R398). -/
def F.RAS_VERDICT_LO_FEPOCH : Fld := ⟨.ras, 0x11C, 31, 16, .wo, 0⟩
/-- RAS_VERDICT_HI.DEAD of the RAS page (Table 13.14, R398). -/
def F.RAS_VERDICT_HI_DEAD : Fld := ⟨.ras, 0x120, 0, 0, .wo, 0⟩
/-- RAS_VERDICT_HI.GO of the RAS page (Table 13.14, R398). -/
def F.RAS_VERDICT_HI_GO : Fld := ⟨.ras, 0x120, 31, 31, .wo, 0⟩
/-- RAS_CNT0.HLT_DROP_CNT of the RAS page (Table 13.14, R398). -/
def F.RAS_CNT0_HLT_DROP_CNT : Fld := ⟨.ras, 0x124, 15, 0, .rw, 0⟩
/-- RAS_CNT0.VERDICT_STALE_CNT of the RAS page (Table 13.14, R398). -/
def F.RAS_CNT0_VERDICT_STALE_CNT : Fld := ⟨.ras, 0x124, 31, 16, .rw, 0⟩
/-- RAS_CNT1.FENCE_DROP_CNT of the RAS page (Table 13.14, R398). -/
def F.RAS_CNT1_FENCE_DROP_CNT : Fld := ⟨.ras, 0x128, 31, 0, .rw, 0⟩
/-- RST_CMD.DOMAIN of the RAS page (Table 13.15, R398). -/
def F.RST_CMD_DOMAIN : Fld := ⟨.ras, 0x12C, 3, 0, .wo, 0⟩
/-- RST_CMD.UNIT of the RAS page (Table 13.15, R398). -/
def F.RST_CMD_UNIT : Fld := ⟨.ras, 0x12C, 11, 4, .wo, 0⟩
/-- RST_CMD.DUMP of the RAS page (Table 13.15, R398). -/
def F.RST_CMD_DUMP : Fld := ⟨.ras, 0x12C, 12, 12, .wo, 0⟩
/-- RST_CMD.GO of the RAS page (Table 13.15, R398). -/
def F.RST_CMD_GO : Fld := ⟨.ras, 0x12C, 31, 31, .wo, 0⟩
/-- RST_STS.BUSY of the RAS page (Table 13.15, R398). -/
def F.RST_STS_BUSY : Fld := ⟨.ras, 0x130, 0, 0, .ro, 0⟩
/-- RST_STS.RESULT of the RAS page (Table 13.15, R398). -/
def F.RST_STS_RESULT : Fld := ⟨.ras, 0x130, 2, 1, .ro, 0⟩
/-- RST_STS.OVERRUN of the RAS page (Table 13.15, R398). -/
def F.RST_STS_OVERRUN : Fld := ⟨.ras, 0x130, 3, 3, .w1c, 0⟩
/-- DMP_CTL.GO of the RAS page (Table 13.15, R398). -/
def F.DMP_CTL_GO : Fld := ⟨.ras, 0x134, 0, 0, .wo, 0⟩
/-- DMP_CTL.FORMAT of the RAS page (Table 13.15, R398). -/
def F.DMP_CTL_FORMAT : Fld := ⟨.ras, 0x134, 1, 1, .rw, 0⟩
/-- DMP_STS.BUSY of the RAS page (Table 13.15, R398). -/
def F.DMP_STS_BUSY : Fld := ⟨.ras, 0x138, 0, 0, .ro, 0⟩
/-- DMP_STS.OVERRUN of the RAS page (Table 13.15, R398). -/
def F.DMP_STS_OVERRUN : Fld := ⟨.ras, 0x138, 1, 1, .w1c, 0⟩
/-- DMP_STS.NORESP of the RAS page (Table 13.15, R398). -/
def F.DMP_STS_NORESP : Fld := ⟨.ras, 0x138, 15, 8, .ro, 0⟩
/-- DMP_STS.DUMPSEQ of the RAS page (Table 13.15, R398). -/
def F.DMP_STS_DUMPSEQ : Fld := ⟨.ras, 0x138, 31, 16, .ro, 0⟩
/-- DMP_BUF_LO.BASE_LO of the RAS page (Table 13.15, R398). -/
def F.DMP_BUF_LO_BASE_LO : Fld := ⟨.ras, 0x13C, 31, 16, .rw, 0⟩
/-- DMP_BUF_HI.BASE_HI of the RAS page (Table 13.15, R398). -/
def F.DMP_BUF_HI_BASE_HI : Fld := ⟨.ras, 0x140, 7, 0, .rw, 0⟩
/-- INJ_CTL.ARM of the RAS page (Table 13.16, R398). -/
def F.INJ_CTL_ARM : Fld := ⟨.ras, 0x144, 0, 0, .wo, 0⟩
/-- INJ_CTL.CANCEL of the RAS page (Table 13.16, R398). -/
def F.INJ_CTL_CANCEL : Fld := ⟨.ras, 0x144, 1, 1, .wo, 0⟩
/-- INJ_CTL.CLASS of the RAS page (Table 13.16, R398). -/
def F.INJ_CTL_CLASS : Fld := ⟨.ras, 0x144, 7, 4, .rw, 0⟩
/-- INJ_CTL.COUNT of the RAS page (Table 13.16, R398). -/
def F.INJ_CTL_COUNT : Fld := ⟨.ras, 0x144, 23, 8, .rw, 1⟩
/-- INJ_TGT.UNIT of the RAS page (Table 13.16, R398). -/
def F.INJ_TGT_UNIT : Fld := ⟨.ras, 0x148, 7, 0, .rw, 0⟩
/-- INJ_TGT.ARRAY of the RAS page (Table 13.16, R398). -/
def F.INJ_TGT_ARRAY : Fld := ⟨.ras, 0x148, 9, 8, .rw, 0⟩
/-- INJ_ADDR_LO.ADDR_LO of the RAS page (Table 13.16, R398). -/
def F.INJ_ADDR_LO_ADDR_LO : Fld := ⟨.ras, 0x14C, 31, 0, .rw, 0⟩
/-- INJ_ADDR_HI.ADDR_HI of the RAS page (Table 13.16, R398). -/
def F.INJ_ADDR_HI_ADDR_HI : Fld := ⟨.ras, 0x150, 7, 0, .rw, 0⟩
/-- INJ_TIME_LO.FTIME_LO of the RAS page (Table 13.16, R398). -/
def F.INJ_TIME_LO_FTIME_LO : Fld := ⟨.ras, 0x154, 31, 0, .rw, 0⟩
/-- INJ_TIME_HI.FTIME_HI of the RAS page (Table 13.16, R398). -/
def F.INJ_TIME_HI_FTIME_HI : Fld := ⟨.ras, 0x158, 31, 0, .rw, 0⟩
/-- INJ_STS.PENDING of the RAS page (Table 13.16, R398). -/
def F.INJ_STS_PENDING : Fld := ⟨.ras, 0x15C, 0, 0, .ro, 0⟩
/-- INJ_STS.DENIED of the RAS page (Table 13.16, R398). -/
def F.INJ_STS_DENIED : Fld := ⟨.ras, 0x15C, 1, 1, .w1c, 0⟩
/-- INJ_STS.TIMER_FULL of the RAS page (Table 13.16, R398). -/
def F.INJ_STS_TIMER_FULL : Fld := ⟨.ras, 0x15C, 2, 2, .w1c, 0⟩
/-- INJ_STS.FIRED_CNT of the RAS page (Table 13.16, R398). -/
def F.INJ_STS_FIRED_CNT : Fld := ⟨.ras, 0x15C, 31, 16, .rw, 0⟩
/-- HOST_STS.MODE of the HOST page (Table 14.8, R426). -/
def F.HOST_STS_MODE : Fld := ⟨.host, 0x100, 0, 0, .ro, 0⟩
/-- HOST_STS.WIDTH of the HOST page (Table 14.8, R426). -/
def F.HOST_STS_WIDTH : Fld := ⟨.host, 0x100, 2, 1, .ro, 0⟩
/-- HOST_STS.RATE of the HOST page (Table 14.8, R426). -/
def F.HOST_STS_RATE : Fld := ⟨.host, 0x100, 4, 3, .ro, 0⟩
/-- HOST_STS.WIN_BAD of the HOST page (Table 14.8, R426). -/
def F.HOST_STS_WIN_BAD : Fld := ⟨.host, 0x100, 5, 5, .w1c, 0⟩
/-- HOST_STS.IGNORED of the HOST page (Table 14.8, R426). -/
def F.HOST_STS_IGNORED : Fld := ⟨.host, 0x100, 6, 6, .w1c, 0⟩
/-- HOST_STS.IDE_FAIL of the HOST page (Table 14.8, R426). -/
def F.HOST_STS_IDE_FAIL : Fld := ⟨.host, 0x100, 7, 7, .ro, 0⟩
/-- HOST_WIN_HI.BASE of the HOST page (Table 14.8, R426). -/
def F.HOST_WIN_HI_BASE : Fld := ⟨.host, 0x108, 11, 0, .rw, 0⟩
/-- HOST_WIN_HI.SIZE of the HOST page (Table 14.8, R426). -/
def F.HOST_WIN_HI_SIZE : Fld := ⟨.host, 0x108, 20, 12, .rw, 0⟩
/-- HOST_CNT.POISON_TX_CNT of the HOST page (Table 14.8, R426). -/
def F.HOST_CNT_POISON_TX_CNT : Fld := ⟨.host, 0x10C, 15, 0, .rw, 0⟩
/-- HOST_CNT.POISON_RX_CNT of the HOST page (Table 14.8, R426). -/
def F.HOST_CNT_POISON_RX_CNT : Fld := ⟨.host, 0x10C, 23, 16, .rw, 0⟩
/-- HOST_CNT.IDE_FAIL_CNT of the HOST page (Table 14.8, R426). -/
def F.HOST_CNT_IDE_FAIL_CNT : Fld := ⟨.host, 0x10C, 31, 24, .rw, 0⟩
/-- BIAS_CMD.PAGE of the HOST page (Table 14.9, R426). -/
def F.BIAS_CMD_PAGE : Fld := ⟨.host, 0x110, 19, 0, .wo, 0⟩
/-- BIAS_CMD.NPM1 of the HOST page (Table 14.9, R426). -/
def F.BIAS_CMD_NPM1 : Fld := ⟨.host, 0x110, 30, 20, .wo, 0⟩
/-- BIAS_CMD.TO_DEV of the HOST page (Table 14.9, R426). -/
def F.BIAS_CMD_TO_DEV : Fld := ⟨.host, 0x110, 31, 31, .wo, 0⟩
/-- BIAS_STS.BUSY of the HOST page (Table 14.9, R426). -/
def F.BIAS_STS_BUSY : Fld := ⟨.host, 0x114, 0, 0, .ro, 0⟩
/-- BIAS_STS.OVERRUN of the HOST page (Table 14.9, R426). -/
def F.BIAS_STS_OVERRUN : Fld := ⟨.host, 0x114, 1, 1, .w1c, 0⟩
/-- BIAS_STS.RANGE of the HOST page (Table 14.9, R426). -/
def F.BIAS_STS_RANGE : Fld := ⟨.host, 0x114, 2, 2, .w1c, 0⟩
/-- STO_TGT_BASE_LO.BASE_LO of the STO page (Table 14.10, R426). -/
def F.STO_TGT_BASE_LO_BASE_LO : Fld := ⟨.sto, 0x100, 31, 12, .rw, 0⟩
/-- STO_TGT_BASE_HI.BASE_HI of the STO page (Table 14.10, R426). -/
def F.STO_TGT_BASE_HI_BASE_HI : Fld := ⟨.sto, 0x104, 7, 0, .rw, 0⟩
/-- STO_CFG.IO_TO_MS of the STO page (Table 14.10, R426). -/
def F.STO_CFG_IO_TO_MS : Fld := ⟨.sto, 0x108, 15, 0, .rw, 500⟩
/-- STO_CMD.TGT of the STO page (Table 14.10, R426). -/
def F.STO_CMD_TGT : Fld := ⟨.sto, 0x10C, 7, 0, .wo, 0⟩
/-- STO_CMD.OP of the STO page (Table 14.10, R426). -/
def F.STO_CMD_OP : Fld := ⟨.sto, 0x10C, 9, 8, .wo, 0⟩
/-- ETH_STS.LINK of the ETH page (Table 14.10, R426). -/
def F.ETH_STS_LINK : Fld := ⟨.eth, 0x100, 0, 0, .ro, 0⟩
/-- ETH_STS.PRIO of the ETH page (Table 14.10, R426). -/
def F.ETH_STS_PRIO : Fld := ⟨.eth, 0x100, 3, 1, .rw, 3⟩
/-- ETH_STS.RX_DROP_CNT of the ETH page (Table 14.10, R426). -/
def F.ETH_STS_RX_DROP_CNT : Fld := ⟨.eth, 0x100, 31, 16, .rw, 0⟩
/-- KLN_STS.JOBS of the KLN page (Table 14.11, R426). -/
def F.KLN_STS_JOBS : Fld := ⟨.kln, 0x100, 7, 0, .ro, 0⟩
/-- KLN_STS.SUSP of the KLN page (Table 14.11, R426). -/
def F.KLN_STS_SUSP : Fld := ⟨.kln, 0x100, 8, 8, .ro, 0⟩
/-- KLN_CNT0.VAN_CNT of the KLN page (Table 14.11, R426). -/
def F.KLN_CNT0_VAN_CNT : Fld := ⟨.kln, 0x104, 15, 0, .rw, 0⟩
/-- KLN_CNT0.OVF_CNT of the KLN page (Table 14.11, R426). -/
def F.KLN_CNT0_OVF_CNT : Fld := ⟨.kln, 0x104, 31, 16, .rw, 0⟩
/-- AED_BOOT.SRC of the AED page (Table 15.11, R465). -/
def F.AED_BOOT_SRC : Fld := ⟨.aed, 0x104, 1, 0, .ro, 0⟩
/-- AED_BOOT.PENDING_TRY of the AED page (Table 15.11, R465). -/
def F.AED_BOOT_PENDING_TRY : Fld := ⟨.aed, 0x104, 2, 2, .ro, 0⟩
/-- AED_BOOT.CAL_BAD of the AED page (Table 15.11, R465). -/
def F.AED_BOOT_CAL_BAD : Fld := ⟨.aed, 0x104, 3, 3, .ro, 0⟩
/-- AED_BOOT.SVN_FUSE of the AED page (Table 15.11, R465). -/
def F.AED_BOOT_SVN_FUSE : Fld := ⟨.aed, 0x104, 14, 8, .ro, 0⟩
/-- AED_BOOT.SVN_IMG of the AED page (Table 15.11, R465). -/
def F.AED_BOOT_SVN_IMG : Fld := ⟨.aed, 0x104, 22, 16, .ro, 0⟩
/-- AED_FWRST.LINKP of the AED page (Table 15.11, R465). -/
def F.AED_FWRST_LINKP : Fld := ⟨.aed, 0x108, 0, 0, .wo, 0⟩
/-- AED_FWRST.MTP of the AED page (Table 15.11, R465). -/
def F.AED_FWRST_MTP : Fld := ⟨.aed, 0x108, 8, 1, .wo, 0⟩
/-- AED_FWRST.SCHP of the AED page (Table 15.11, R465). -/
def F.AED_FWRST_SCHP : Fld := ⟨.aed, 0x108, 16, 9, .wo, 0⟩
/-- AED_RST_CNT.FW_RST_CNT of the AED page (Table 15.11, R465). -/
def F.AED_RST_CNT_FW_RST_CNT : Fld := ⟨.aed, 0x10C, 15, 0, .rw, 0⟩
/-- AED_RST_CNT.AED_RST of the AED page (Table 15.11, R465). -/
def F.AED_RST_CNT_AED_RST : Fld := ⟨.aed, 0x10C, 31, 16, .rw, 0⟩
/-- AED_LOG_BASE_LO.BASE_LO of the AED page (Table 15.12, R465). -/
def F.AED_LOG_BASE_LO_BASE_LO : Fld := ⟨.aed, 0x110, 31, 20, .rw, 0⟩
/-- AED_LOG_BASE_HI.BASE_HI of the AED page (Table 15.12, R465). -/
def F.AED_LOG_BASE_HI_BASE_HI : Fld := ⟨.aed, 0x114, 7, 0, .rw, 0⟩
/-- AED_LOG_HEAD.HEAD of the AED page (Table 15.12, R465). -/
def F.AED_LOG_HEAD_HEAD : Fld := ⟨.aed, 0x118, 14, 0, .ro, 0⟩
/-- AED_STORE_CNT.COMMITS of the AED page (Table 15.12, R465). -/
def F.AED_STORE_CNT_COMMITS : Fld := ⟨.aed, 0x11C, 15, 0, .ro, 0⟩
/-- AED_STORE_CNT.LOG_DROP of the AED page (Table 15.12, R465). -/
def F.AED_STORE_CNT_LOG_DROP : Fld := ⟨.aed, 0x11C, 31, 16, .rw, 0⟩
/-- AED_ATT.BLOCKS of the AED page (Table 15.12, R465). -/
def F.AED_ATT_BLOCKS : Fld := ⟨.aed, 0x120, 31, 0, .ro, 0⟩
/-- AED_AUTH.GRANTS of the AED page (Table 15.12, R465). -/
def F.AED_AUTH_GRANTS : Fld := ⟨.aed, 0x124, 4, 0, .ro, 0⟩
/-- AED_AUTH.OWNER of the AED page (Table 15.12, R465). -/
def F.AED_AUTH_OWNER : Fld := ⟨.aed, 0x124, 5, 5, .ro, 0⟩
/-- AED_AUTH.SESSIONS of the AED page (Table 15.12, R465). -/
def F.AED_AUTH_SESSIONS : Fld := ⟨.aed, 0x124, 8, 6, .ro, 0⟩
/-- AED_CAL.ENTRIES of the AED page (Table 15.12, R465). -/
def F.AED_CAL_ENTRIES : Fld := ⟨.aed, 0x128, 7, 0, .ro, 0⟩
/-- AED_CAL.BAD_ENT of the AED page (Table 15.12, R465). -/
def F.AED_CAL_BAD_ENT : Fld := ⟨.aed, 0x128, 15, 8, .ro, 0⟩
/-- MOD_STS.BOOTED of the MOD page (Table 16.14, R484). -/
def F.MOD_STS_BOOTED : Fld := ⟨.mod, 0x100, 0, 0, .ro, 0⟩
/-- MOD_STS.MEM_READY of the MOD page (Table 16.14, R484). -/
def F.MOD_STS_MEM_READY : Fld := ⟨.mod, 0x100, 1, 1, .ro, 0⟩
/-- MOD_STS.CORES_REL of the MOD page (Table 16.14, R484). -/
def F.MOD_STS_CORES_REL : Fld := ⟨.mod, 0x100, 2, 2, .ro, 0⟩
/-- MOD_STS.RECOVERY of the MOD page (Table 16.14, R484). -/
def F.MOD_STS_RECOVERY : Fld := ⟨.mod, 0x100, 3, 3, .ro, 0⟩
/-- MOD_CNT.RST_WR_DROP of the MOD page (Table 16.14, R484). -/
def F.MOD_CNT_RST_WR_DROP : Fld := ⟨.mod, 0x104, 15, 0, .rw, 0⟩
/-- MOD_CNT.ACC_ERR_CNT of the MOD page (Table 16.14, R484). -/
def F.MOD_CNT_ACC_ERR_CNT : Fld := ⟨.mod, 0x104, 31, 16, .rw, 0⟩
/-- RAS_HB_CFG.HB_US of the RAS page (Table 13.13, R398). -/
def F.RAS_HB_CFG_HB_US : Fld := ⟨.ras, 0x100, 15, 0, .rw, 100⟩
/-- RAS_HB_CFG.HB_LIMIT of the RAS page (Table 13.13, R398). -/
def F.RAS_HB_CFG_HB_LIMIT : Fld := ⟨.ras, 0x100, 23, 16, .rw, 20⟩
/-- RAS_KT_CFG.KT_EN of the RAS page (Table 13.13, R398). -/
def F.RAS_KT_CFG_KT_EN : Fld := ⟨.ras, 0x104, 0, 0, .rw, 1⟩
/-- RAS_KT_CFG.KT_SLICE_US of the RAS page (Table 13.13, R398). -/
def F.RAS_KT_CFG_KT_SLICE_US : Fld := ⟨.ras, 0x104, 31, 16, .rw, 500⟩
/-- STO_STS.STATE of the STO page (Table 14.10, R426). -/
def F.STO_STS_STATE : Fld := ⟨.sto, 0x110, 1, 0, .ro, 0⟩
/-- STO_STS.BUSY of the STO page (Table 14.10, R426). -/
def F.STO_STS_BUSY : Fld := ⟨.sto, 0x110, 2, 2, .ro, 0⟩
/-- STO_STS.OVERRUN of the STO page (Table 14.10, R426). -/
def F.STO_STS_OVERRUN : Fld := ⟨.sto, 0x110, 3, 3, .w1c, 0⟩
/-- RES_CNT.NO_MODEL_CNT of the RES page (Table 10.23, R311). -/
def F.RES_CNT_NO_MODEL_CNT : Fld := ⟨.res, 0x100, 15, 0, .rw, 0⟩
/-- RES_CNT.MISMATCH_CNT of the RES page (Table 10.23, R311). -/
def F.RES_CNT_MISMATCH_CNT : Fld := ⟨.res, 0x100, 31, 16, .rw, 0⟩

/-- The fields of a page at offsets 0x100 and above. -/
def pageFields : Page → List Fld
  | .core => [F.CORE_STS_STATE, F.CORE_STS_BANK_REQ, F.CORE_STS_CTX, F.CORE_STOP_CODE, F.CORE_STOP_MULTI, 
      F.CORE_STOP_SWCODE, F.CORE_STOP_PC_LO_PC_LO, F.CORE_STOP_PC_HI_PC_HI, F.CORE_LRM_BASE_LO_BASE_LO, 
      F.CORE_LRM_BASE_HI_BASE_HI, F.CORE_LRM_CNT_COUNT, F.CORE_CNT_YIELD_SKIP_CNT, F.CORE_CNT_SIG_DROP_CNT]
  | .arr => [F.ARR_CFG_TOL_SHIFT, F.ARR_STS_REFUSE, F.ARR_STS_REF_ARR, F.ARR_STS_POISON, F.ARR_ABFT_LOG0_VALID, 
      F.ARR_ABFT_LOG0_LOST, F.ARR_ABFT_LOG0_ARRAY, F.ARR_ABFT_LOG0_BANK, F.ARR_ABFT_LOG0_INTPAIR, 
      F.ARR_ABFT_LOG0_ROWS, F.ARR_ABFT_LOG0_COLS, F.ARR_ABFT_LOG1_FTIME_LO, F.ARR_ABFT_LOG2_FTIME_HI, 
      F.ARR_ABFT_LOG3_CTX, F.ARR_ABFT_LOG3_GEN, F.ARR_CNT0_ABFT_CNT, F.ARR_CNT0_NF_SKIP_CNT, 
      F.ARR_CNT1_UNCHECKED_CNT, F.ARR_CNT1_REFUSE_CNT]
  | .num => [F.NUM_CTL_CNT_EN, F.NUM_CTL_CLR, F.NUM_CTL_FILT_CTX, F.NUM_CTL_FILT_ANY, F.NUM_STS_REFUSE, 
      F.NUM_STS_REF_UNIT, F.NUM_CNT_REFUSE_CNT, F.NUM_CNT_TSC_BAD_CNT]
  | .vec => [F.VEC_STS_REFUSE, F.VEC_STS_REF_HALF, F.VEC_STS_ESCAPE, F.VEC_STS_TPOISON, F.VEC_CNT_INV_INV_CNT, 
      F.VEC_CNT_DZ_DZ_CNT, F.VEC_CNT_OVF_OVF_CNT, F.VEC_CNT_ANF_ANF_CNT, F.VEC_CNT1_ESC_CNT, 
      F.VEC_CNT1_REFUSE_CNT]
  | .bwd => [F.BWD_WP_BASE_LO_BASE_LO, F.BWD_WP_BASE_HI_BASE_HI, F.BWD_WP_CFG_SLICE, F.BWD_WP_CFG_NSTRM1, 
      F.BWD_WP_SOFT_SOFT, F.BWD_WP_WIN_SEG0, F.BWD_WP_WIN_NSEG, F.BWD_WP_STS_CAUSE, F.BWD_WP_STS_OP, 
      F.BWD_WP_STS_STREAM, F.BWD_WP_CNT_MARKER_CNT, F.BWD_WP_CNT_SLOPE_BAD_CNT, F.BWD_WP_CNT1_WIN_POP_CNT, 
      F.BWD_WP_CNT1_REFUSE_CNT, F.BWD_GATE_STS_STATE, F.BWD_GATE_STS_CAUSE, F.BWD_GATE_STS_STEP, 
      F.BWD_GATE_CNT_GATE_SKIP_CNT, F.BWD_GATE_CNT_GATE_STALE_CNT, F.BWD_SEAL_NUM_SEALNUM, F.BWD_WP_SP0_SP, 
      F.BWD_WP_SP1_SP, F.BWD_WP_SP2_SP, F.BWD_WP_SP3_SP, F.BWD_WP_SP4_SP, F.BWD_WP_SP5_SP, F.BWD_WP_SP6_SP, 
      F.BWD_WP_SP7_SP, F.BWD_WP_SP8_SP, F.BWD_WP_SP9_SP, F.BWD_WP_SP10_SP, F.BWD_WP_SP11_SP, 
      F.BWD_WP_SP12_SP, F.BWD_WP_SP13_SP, F.BWD_WP_SP14_SP, F.BWD_WP_SP15_SP]
  | .dma => [F.DMA_STS_REFUSE, F.DMA_STS_OP, F.DMA_STS_TAG, F.DMA_CNT0_IDX_FAULT_CNT, F.DMA_CNT0_PARTIAL_CNT, 
      F.DMA_CNT1_REFUSE_CNT, F.DMA_CNT1_DESC_REFUSE_CNT, F.DMA_CNT2_STG_WAIT_CNT, F.DMA_CNT2_STG_ABANDON_CNT, 
      F.DMA_CNT3_XP_VAN_CNT, F.DMA_REG_BASE_LO_BASE_LO, F.DMA_REG_BASE_HI_BASE_HI, F.DMA_REG_CNT_COUNT]
  | .cd => []
  | .tmr => [F.TMR_CFG_SCHED_RSV, F.TMR_CNT_DEFER_CNT, F.TMR_CNT_FULL_CNT, F.TMR_CNT1_LATE_WIN_CNT, 
      F.TMR_CNT1_AFTER_CNT, F.TMR_CNT2_PAST_CNT]
  | .sch => [F.SCH_CFG_PERIOD_US, F.SCH_CFG_BLOCK_DWELL_US, F.SCH_TIMES_AFF_WIN_US, F.SCH_TIMES_CHEAP_WAIT_US, 
      F.SCH_MARGIN_MARGIN_US, F.SCH_CNT0_CHEAP_BANK_CNT, F.SCH_CNT0_FORCED_BANK_CNT, 
      F.SCH_CNT1_WARM_RESUME_CNT, F.SCH_CNT1_BLOCKED_BANK_CNT, F.SCH_CNT2_AFF_WAIT_CNT, 
      F.SCH_CNT2_DSM_RECLAIM_CNT]
  | .md => [F.MD_STG_CNT_KILN_YIELD_CNT, F.MD_STG_CNT_OVL_WAIT_CNT, F.MD_STS_TRAIN_DONE, F.MD_STS_FILL_DONE, 
      F.MD_STS_TRAIN_FAIL, F.MD_STS_PAIR_FAIL, F.MD_SCRUB_RATE_PERIOD, F.MD_SCRUB_POS_BLOCK, 
      F.MD_SCRUB_PASS_PASS_CNT, F.MD_ECC_CNT0_CE_CNT, F.MD_ECC_CNT0_UE_CNT, F.MD_ECC_CNT1_POISON_RD_CNT, 
      F.MD_ECC_CNT1_CRC_RETRY_CNT, F.MD_ECC_CNT2_SCRUB_FIX_CNT, F.MD_ECC_CNT2_SCRUB_ABANDON_CNT, 
      F.MD_ECC_CNT3_STALE_DROP_CNT, F.MD_ECC_CNT3_RANGE_CNT, F.MD_ECC_LOG0_VALID, F.MD_ECC_LOG0_LOST, 
      F.MD_ECC_LOG0_TYPE, F.MD_ECC_LOG0_SRC, F.MD_ECC_LOG0_PAIR, F.MD_ECC_LOG0_SYMBOL, F.MD_ECC_LOG0_GRANULE, 
      F.MD_ECC_LOG1_DPA_LO, F.MD_ECC_LOG2_DPA_HI, F.MD_ECC_LOG3_FTIME_LO, F.MD_CACHE_CFG_STREAM_WAYS, 
      F.MD_CACHE_HIT_HIT_CNT, F.MD_CACHE_MISS_MISS_CNT]
  | .kln => [F.KLN_STS_JOBS, F.KLN_STS_SUSP, F.KLN_CNT0_VAN_CNT, F.KLN_CNT0_OVF_CNT]
  | .iod => []
  | .mod => [F.MOD_STS_BOOTED, F.MOD_STS_MEM_READY, F.MOD_STS_CORES_REL, F.MOD_STS_RECOVERY, F.MOD_CNT_RST_WR_DROP, 
      F.MOD_CNT_ACC_ERR_CNT]
  | .ctx => [F.CTX_TBL_BASE_LO_BASE_LO, F.CTX_TBL_BASE_HI_BASE_HI, F.CTX_CMD_CTX, F.CTX_CMD_OP, F.CTX_CMD_STS_BUSY, 
      F.CTX_CMD_STS_RESULT, F.CTX_CMD_STS_OVERRUN, F.CTX_CMD_STS_GEN, F.FLT_RING_BASE_LO_BASE_LO, 
      F.FLT_RING_BASE_HI_BASE_HI, F.FLT_RING_CFG_LOG2N, F.FLT_RING_CFG_VECTOR, F.FLT_HEAD_HEAD, 
      F.FLT_TAIL_TAIL, F.FLT_RESP_SEQ, F.FLT_RESP_ACTION, F.FLT_RESP_STS_LATE, F.XLT_INVAL_LO_VA_LO, 
      F.XLT_INVAL_HI_VA_HI, F.XLT_INVAL_HI_CTX, F.XLT_INVAL_HI_SCOPE, F.XLT_INVAL_HI_GO, 
      F.XLT_INVAL_STS_BUSY, F.XLT_INVAL_STS_RESULT, F.XLT_INVAL_STS_OVERRUN, F.CTX_CNT0_FRESP_STALE_CNT, 
      F.CTX_CNT0_FLT_TIMEOUT_CNT, F.CTX_CNT1_DRAIN_TIMEOUT_CNT, F.CTX_CNT1_STALE_IOD_CNT]
  | .que => [F.QUE_TBL_BASE_LO_BASE_LO, F.QUE_TBL_BASE_HI_BASE_HI, F.QUE_DB_QID, F.QUE_DB_TAIL, F.QUE_CMD_QID, 
      F.QUE_CMD_OP, F.QUE_CMD_STS_BUSY, F.QUE_CMD_STS_RESULT, F.QUE_CMD_STS_OVERRUN, 
      F.QUE_CNT0_DB_IGNORE_CNT, F.QUE_CNT0_QPOST_DROP_CNT, F.QUE_CNT1_BAD_ENTRY_CNT, F.QUE_CNT1_TIMEOUT_CNT]
  | .res => [F.RES_CNT_NO_MODEL_CNT, F.RES_CNT_MISMATCH_CNT]
  | .col => [F.COL_GRP_BASE_LO_BASE_LO, F.COL_GRP_BASE_HI_BASE_HI, F.COL_CFG_WIN, F.COL_CFG_HOLD_MS, 
      F.COL_GCMD_GROUP, F.COL_GCMD_OP, F.COL_GCMD_SEQ, F.COL_STS_IGNORED, F.COL_CNT0_ABORT_RX_CNT, 
      F.COL_CNT0_LINK_LOST_CNT, F.COL_CNT1_DUP_CNT, F.COL_CNT1_VETO_CNT, F.COL_CNT2_CLAIM_EXP_CNT, 
      F.COL_CNT2_VETO_LATE_CNT]
  | .twn => [F.TWN_CFG_TWIN_ID, F.TWN_CFG_SEAL_CTX, F.TWN_CFG_HOLD, F.TWN_CMD_OP, F.TWN_CMD_ARG, F.TWN_STS_STATE, 
      F.TWN_STS_PASS_RUN, F.TWN_STS_BUSY, F.TWN_STS_RESULT, F.TWN_STS_OVERRUN, F.TWN_STS_PEER, 
      F.TWN_WIN_LO_BASE_LO, F.TWN_WIN_HI_BASE_HI, F.TWN_WIN_HI_COUNT, F.TWN_STORE_LO_BASE_LO, 
      F.TWN_STORE_HI_BASE_HI, F.TWN_STORE_HI_LEN, F.TWN_LOSS_LO_BASE_LO, F.TWN_LOSS_HI_BASE_HI, 
      F.TWN_BANK0_SEAL, F.TWN_BANK1_SEAL, F.TWN_CNT0_PASS_CNT, F.TWN_CNT0_PASS_SKIP_CNT, F.TWN_CNT1_HOLD_CNT, 
      F.TWN_CNT1_RANGE_DROP_CNT]
  | .ras => [F.RAS_SUSPECT0_SUSPECT, F.RAS_SUSPECT1_SUSPECT, F.RAS_SUSPECT2_SUSPECT, F.RAS_SUSPECT3_SUSPECT, 
      F.RAS_KT_CNT_KT_RUN_CNT, F.RAS_KT_CNT_KT_MISMATCH_CNT, F.RAS_VERDICT_LO_JOB, F.RAS_VERDICT_LO_FEPOCH, 
      F.RAS_VERDICT_HI_DEAD, F.RAS_VERDICT_HI_GO, F.RAS_CNT0_HLT_DROP_CNT, F.RAS_CNT0_VERDICT_STALE_CNT, 
      F.RAS_CNT1_FENCE_DROP_CNT, F.RST_CMD_DOMAIN, F.RST_CMD_UNIT, F.RST_CMD_DUMP, F.RST_CMD_GO, 
      F.RST_STS_BUSY, F.RST_STS_RESULT, F.RST_STS_OVERRUN, F.DMP_CTL_GO, F.DMP_CTL_FORMAT, F.DMP_STS_BUSY, 
      F.DMP_STS_OVERRUN, F.DMP_STS_NORESP, F.DMP_STS_DUMPSEQ, F.DMP_BUF_LO_BASE_LO, F.DMP_BUF_HI_BASE_HI, 
      F.INJ_CTL_ARM, F.INJ_CTL_CANCEL, F.INJ_CTL_CLASS, F.INJ_CTL_COUNT, F.INJ_TGT_UNIT, F.INJ_TGT_ARRAY, 
      F.INJ_ADDR_LO_ADDR_LO, F.INJ_ADDR_HI_ADDR_HI, F.INJ_TIME_LO_FTIME_LO, F.INJ_TIME_HI_FTIME_HI, 
      F.INJ_STS_PENDING, F.INJ_STS_DENIED, F.INJ_STS_TIMER_FULL, F.INJ_STS_FIRED_CNT, F.RAS_HB_CFG_HB_US, 
      F.RAS_HB_CFG_HB_LIMIT, F.RAS_KT_CFG_KT_EN, F.RAS_KT_CFG_KT_SLICE_US]
  | .rte => [F.RTE_MODID_MOD_ID, F.RTE_CTL_ACTIVE, F.RTE_CTL_FLIP_GO, F.RTE_STS_PENDING, F.RTE_STS_RESULT, 
      F.RTE_STS_OVERRUN, F.RTE_FLIP_LO_FTIME_LO, F.RTE_FLIP_HI_FTIME_HI, F.RTE_CNT_UNREACH_CNT]
  | .ft => [F.FT_CFG_ROOT, F.FT_CFG_SYNC_EN, F.FT_CFG_PARENT, F.FT_CFG_HOLD_US, F.FT_STS_LSTATE, F.FT_STS_SET_IGN, 
      F.FT_NOW_LO_NOW_LO, F.FT_NOW_HI_NOW_HI, F.FT_OFFSET_THETA, F.FT_OFFSET_SYNC_ERR, F.FT_SET_LO_SET_LO, 
      F.FT_SET_HI_SET_HI, F.FT_CNT_UNLOCK_CNT, F.FT_CNT_SYNC_IGN_CNT]
  | .dbg => [F.DBG_STS_MFG_TEST, F.DBG_STS_JTAG_BUSY_CNT]
  | .aed => [F.LOG_CNT_TRACE_DROP, F.AED_BOOT_SRC, F.AED_BOOT_PENDING_TRY, F.AED_BOOT_CAL_BAD, F.AED_BOOT_SVN_FUSE, 
      F.AED_BOOT_SVN_IMG, F.AED_FWRST_LINKP, F.AED_FWRST_MTP, F.AED_FWRST_SCHP, F.AED_RST_CNT_FW_RST_CNT, 
      F.AED_RST_CNT_AED_RST, F.AED_LOG_BASE_LO_BASE_LO, F.AED_LOG_BASE_HI_BASE_HI, F.AED_LOG_HEAD_HEAD, 
      F.AED_STORE_CNT_COMMITS, F.AED_STORE_CNT_LOG_DROP, F.AED_ATT_BLOCKS, F.AED_AUTH_GRANTS, 
      F.AED_AUTH_OWNER, F.AED_AUTH_SESSIONS, F.AED_CAL_ENTRIES, F.AED_CAL_BAD_ENT]
  | .host => [F.HOST_STS_MODE, F.HOST_STS_WIDTH, F.HOST_STS_RATE, F.HOST_STS_WIN_BAD, F.HOST_STS_IGNORED, 
      F.HOST_STS_IDE_FAIL, F.HOST_WIN_HI_BASE, F.HOST_WIN_HI_SIZE, F.HOST_CNT_POISON_TX_CNT, 
      F.HOST_CNT_POISON_RX_CNT, F.HOST_CNT_IDE_FAIL_CNT, F.BIAS_CMD_PAGE, F.BIAS_CMD_NPM1, F.BIAS_CMD_TO_DEV, 
      F.BIAS_STS_BUSY, F.BIAS_STS_OVERRUN, F.BIAS_STS_RANGE]
  | .sto => [F.STO_TGT_BASE_LO_BASE_LO, F.STO_TGT_BASE_HI_BASE_HI, F.STO_CFG_IO_TO_MS, F.STO_CMD_TGT, F.STO_CMD_OP, 
      F.STO_STS_STATE, F.STO_STS_BUSY, F.STO_STS_OVERRUN]
  | .eth => [F.ETH_STS_LINK, F.ETH_STS_PRIO, F.ETH_STS_RX_DROP_CNT]
  | .lnk => [F.LNK_CFG_ROLE, F.LNK_CTL_OP, F.LNK_STS_STATE, F.LNK_STS_ROLE_MISMATCH, F.LNK_STS_IGNORED, 
      F.LNK_STS_WAVE_LOS, F.LNK_STS_PEER_MOD, F.LNK_DELAY_DELAY_NS, F.LNK_CNT0_CE_CNT, F.LNK_CNT0_RETRY_CNT, 
      F.LNK_CNT1_RETRAIN_CNT, F.LNK_CNT1_LOST_PKT_CNT, F.LNK_CNT2_HOP_DROP_CNT, F.LNK_CNT2_CW_DROP_CNT]

end Sys2Proof.Machine
end

