-- ==== Sys2Proof/Machine/Sparse.lean ====
section
/-! DEFINITION. Machine/Sparse.lean: maps held as lists of (key, value) pairs in one canonical form: keys strictly
rising, and no pair whose value is the value an unlisted key has; and the sorting of a list. -/

namespace Sys2Proof.Machine

/-- A map from naturals, as the list of the keys whose value is not the default. -/
abbrev Sparse (α : Type) := List (Nat × α)

/-- The value at key `k`; `d` is what an unlisted key reads as. -/
def sget {α : Type} (d : α) (m : Sparse α) (k : Nat) : α :=
  match m with
  | [] => d
  | (a, v) :: t => if a = k then v else sget d t k

/-- `m` without key `k`. -/
def sdel {α : Type} (m : Sparse α) (k : Nat) : Sparse α :=
  m.filter (fun e => e.1 != k)

/-- Insert a pair before the first larger key. -/
def sins {α : Type} (m : Sparse α) (k : Nat) (v : α) : Sparse α :=
  match m with
  | [] => [(k, v)]
  | (a, b) :: t => if k < a then (k, v) :: (a, b) :: t else (a, b) :: sins t k v

/-- Write `v` at key `k`; writing the default removes the pair. -/
def sset {α : Type} [DecidableEq α] (d : α) (m : Sparse α) (k : Nat) (v : α) : Sparse α :=
  if v = d then sdel m k else sins (sdel m k) k v

/-- The canonical form. -/
def swf {α : Type} [DecidableEq α] (d : α) (m : Sparse α) : Bool :=
  match m with
  | [] => true
  | (a, v) :: t => decide (v ≠ d) && (match t with | [] => true | (b, _) :: _ => decide (a < b)) && swf d t

/-- Insert `a` before the first element that it does not follow in the order. -/
def insertBy {α : Type} (le : α → α → Bool) (a : α) : List α → List α
  | [] => [a]
  | b :: t => if le a b then a :: b :: t else b :: insertBy le a t

/-- A list in an order; elements equal in it keep their places. -/
def sortBy {α : Type} (le : α → α → Bool) : List α → List α
  | [] => []
  | a :: t => insertBy le a (sortBy le t)

/-- Write several pairs, in order. -/
def ssetAll {α : Type} [DecidableEq α] (d : α) (m : Sparse α) : List (Nat × α) → Sparse α
  | [] => m
  | (k, v) :: t => ssetAll d (sset d m k v) t

/-- A map over the keys 0 to n - 1 from a function, canonical by construction. -/
def sofFn {α : Type} [DecidableEq α] (d : α) (n : Nat) (f : Nat → α) : Sparse α :=
  (List.range n).filterMap (fun i => if f i = d then none else some (i, f i))

end Sys2Proof.Machine
end

