-- ==== Sys2Proof/Machine/State.lean ====
section
/-! DEFINITION. Machine/State.lean: all the state the spec gives the module, as plain data, and State.reset. -/

namespace Sys2Proof.Machine

/-- Reasons a step stops with a fault. The spec describes none: no command of this block halts the module (R75), so no
meaning of this model raises one. Safe. -/
inductive Fault where
  /-- Raised by no meaning; kept so that the type has a name to give. Safe. -/
  | never
  deriving DecidableEq, Repr

/-- Reasons a command is refused. -/
inductive Refusal where
  /-- A command whose meaning the model does not give; raised by arms of Dispatch.lean only. Safe. -/
  | notModelled (mnemonic : String)
  deriving DecidableEq, Repr

/-! ### Memory with the granule code (R201, R512) -/

/-- Bytes of a memory: (address, byte) cells, addresses strictly rising, no listed byte equal to 0, which is what an
unlisted address reads as (R216: the fill writes zero). -/
abbrev Memory := List Host.Cell

/-- The canonical form of a memory. -/
def Memory.wf (m : Memory) : Bool := swf (0 : Byte) m

/-- An SRAM that the granule code guards: its bytes, and for each 16-byte granule the exclusive-or of the stored check
word with the check word of the stored data (0: a codeword). -/
structure Sram where
  bytes : Memory
  chk : Sparse Word16
  deriving DecidableEq, Repr

/-- A line of the memory-side cache (R211): its 64 bytes, check difference of each granule, flags. -/
structure CLine where
  data : List Byte
  chk : BitVec 64
  dirty : Bool
  poison : Bool
  stream : Bool
  deriving DecidableEq, Repr

/-! ### Cores (R38) -/

/-- A 64 x 64 FP32 tile or bank: element (r, c) at key 64 r + c; an unlisted element is 0. -/
abbrev Tile := Sparse Word32

/-- A descriptor register (R38, R41): valid bit, the 64 bytes, the region bits captured at validation (R228), the last
refusal code (R229). -/
structure DescReg where
  valid : Bool
  raw : BitVec 512
  rd : Bool
  wr : Bool
  region : Nat
  refusal : Byte
  deriving DecidableEq, Repr

/-- An open loop level (R62): first and end bundle of its body. -/
structure LoopLevel where
  start : Word64
  stop : Word64
  deriving DecidableEq, Repr

/-- Registers that the interlocks of R56 watch. -/
inductive RegName where
  | g (n : Nat)
  | p (n : Nat)
  | d (n : Nat)
  | bank (n : Nat)
  | tile (n : Nat)
  | lc (n : Nat)
  deriving DecidableEq, Repr

/-- Stationary operand of an array (R92): dataflow, format, element codes and block scales by 64 lane + position and
4 lane + block, rotation tag, per-tensor scale; not valid: it reads as zero. -/
structure Station where
  dfl : Nat
  fmt : Nat
  cells : Sparse Nat
  scales : Sparse Nat
  rtag : Nat
  tscale : Word32
  lanes : Nat
  size : Nat
  valid : Bool
  deriving DecidableEq, Repr

/-- One effect of a unit operation, applied when its result is ready (R61). -/
inductive Eff where
  | tile (t : Nat) (cells : List (Nat × Word32))
  | tag (t : Nat) (v : Word16)
  | tpoison (t : Nat) (v : Bool)
  | tpor (t : Nat) (v : Bool)
  | bank (b : Nat) (cells : List (Nat × Word32))
  | bpoison (b : Nat) (v : Bool)
  | gpr (n : Nat) (v : Word64)
  | pred (n : Nat) (v : Word64)
  | station (a : Nat) (v : Station)
  | count (f : Fld) (n : Nat)
  | num (key n : Nat)
  | escape (slot : Nat)
  deriving DecidableEq, Repr

/-- One comparison of a row or column at a tile end (R104): sum of the result, signed and magnitude checksums. -/
structure AbftSum where
  sum : Word32
  k : Word32
  m : Word32
  deriving DecidableEq, Repr

/-- What a MAC tile brings to its tile end (R103 to R107): the sums of its 64 rows and 64 columns, contracted positions,
whether the pair is an integer pair with the rows and columns whose integer sums differ, and ACCUM. -/
structure AbftRes where
  rows : List AbftSum
  cols : List AbftSum
  n : Nat
  intPair : Bool
  badRows : Nat
  badCols : Nat
  accum : Bool
  injected : Bool
  deriving DecidableEq, Repr

/-- An operation in a unit's queue, or one step of it (R57, R93): registers it still reads and writes, effects, the
checksum comparison of a MAC tile, the bank it releases, whether it is the operation's last step, whether the operation is
gated (R185), its place in the issue order of its unit, and whether it is a step of an AMM or ADIST. -/
structure UnitOp where
  reads : List RegName
  writes : List RegName
  effs : List Eff
  abft : Option AbftRes
  bank : Option Nat
  last : Bool
  gated : Bool
  num : Nat
  mac : Bool
  deriving DecidableEq, Repr

/-- A stop cause of Table 2.11 that a unit or the DMA engine reports to the scalar processor (R77), with the software
code of STOP. -/
structure StopCause where
  code : Nat
  sw : Word16
  deriving DecidableEq, Repr

/-- A bundle that the core holds and has not issued (R54): its address, YIELD, LRM_IDX, byte length, syllables. -/
structure Bundle where
  addr : Word64
  yld : Bool
  lrm : Nat
  len : Nat
  syls : List Syl
  deriving DecidableEq, Repr

/-- What is bound to a core: context, generation, context core. -/
structure Binding3 where
  ctx : Nat
  gen : Nat
  vcore : Nat
  deriving DecidableEq, Repr

/-- Scale buffer of the Q unit (R122, R123): scale byte of row r, block b at key 4 r + b. -/
structure ScaleBuf where
  valid : Bool
  ts : Nat
  dn : Nat
  kind : Nat
  scales : Sparse Nat
  deriving DecidableEq, Repr

/-- A cached or locked translation of a die (R259, R262): `page` is DVA / 64 KiB of its first page. -/
structure XltEntry where
  ctx : Nat
  gen : Nat
  page : Nat
  big : Bool
  dpa : Nat
  rd : Bool
  wr : Bool
  locked : Bool
  deriving DecidableEq, Repr

/-- Phase of a DMA transfer (R246, R247): not staged, waiting for its grant, phase S, phase W. -/
inductive DmaPhase where
  | plain
  | wait
  | s
  | w
  deriving DecidableEq, Repr

/-- A DMA transfer (R57, R249, R250): serial number, opcode, tag, captured options and descriptors, chunks done, faulting
indices, record state (Table 8.11) and fault address, phase, staging units asked for, indices read from DI with the row of the
first (R241), the translations that phase W uses (R247); for PUSH and POP the stream, the entry's first byte in the stream, the sizes of its parts, marker and slope flags, its trailer
words, whether a POP has read its trailer and was served from the window, and the entry's whole size. -/
structure Xfer where
  id : Nat
  opc : Nat
  tag : Nat
  opts : Word64
  ds : DescReg
  dd : DescReg
  di : DescReg
  prog : Nat
  idxflt : Nat
  state : Nat
  fva : Nat
  phase : DmaPhase
  units : Nat
  idx : List Int
  idxAt : Nat
  pins : List XltEntry
  stream : Nat
  entry : Nat
  dbytes : Nat
  scbytes : Nat
  sbytes : Nat
  marker : Bool
  slope : Bool
  ft : Nat
  trailerRead : Bool
  fromWin : Bool
  size : Nat
  deriving DecidableEq, Repr

/-- A notice to a CD's scheduler processor (R108, R164, R440): kind 0 ABFT event, 1 poison escape; core, context and
generation, slot or array and bank, rows and columns, fabric time. -/
structure Notice where
  kind : Nat
  core : Nat
  ctx : Nat
  gen : Nat
  place : Nat
  rows : Nat
  cols : Nat
  ft : Nat
  deriving DecidableEq, Repr

/-- All the state of one core: the registers of Table 2.1; tile rotation tags; binding; pc and header of the bundle at
issue; open loop levels with LC0 and LC1; tokens; the bundle held; skip flag of LOOP; whether HALT waits; instruction cache; SPM and
partition; stationary registers; Q-unit state (R121, R122, R135); counter array and its latches (R142, R143); unit
queues, banks not yet released, stop reports; DMA transfers by slot; window bottoms and pending spills of the stack
streams, the bytes that the windows mirror and the streams whose spill or refill a fault suspends, with the address (R173,
R264); armed step and step-seal tracking (R180, R188); ABFT events under way; armed injections, and arrays whose drain path will meet a parity error (R110); bundles issued; register writes that
take effect at the next bank; the work item and the warm tag. -/
structure CoreSt where
  g : Sparse Word64
  p : Sparse Word64
  d : Sparse DescReg
  banks : Sparse Tile
  tiles : Sparse Tile
  tags : Sparse Word16
  bound : Option Binding3
  pc : Word64
  hdr : Word64
  loops : List LoopLevel
  lc0 : Word32
  lc1 : Word32
  tokens : Sparse Word16
  fetched : Option Bundle
  skip : Bool
  halting : Bool
  icache : Sparse (List Byte)
  spm : Sram
  partSeg : Nat
  partLen : Nat
  station : Sparse Station
  tscale : Sparse Word32
  seeds : Sparse Word16
  curVec : Option Nat
  scaleBuf : ScaleBuf
  numCnt : Sparse Nat
  numLatch : Sparse Word32
  units : Sparse (List UnitOp)
  releases : Sparse (List Nat)
  reports : List StopCause
  xfers : Sparse (Option Xfer)
  xferSeq : Nat
  winLo : Sparse Nat
  spills : Sparse (List (Nat × Nat))
  win : Sram
  winFault : Sparse (Option Nat)
  gateStep : Word32
  pz : Bool
  pzArmed : Bool
  events : List Notice
  injCell : Sparse Bool
  injPar : Sparse Bool
  drainPar : Sparse Bool
  beatHold : Nat
  issued : Nat
  heldWr : List (Nat × Word32)
  item : Option (Nat × Nat)
  warm : Option (Nat × Nat × Nat)
  deriving DecidableEq, Repr

/-! ### Wheels, log, messages -/

/-- What a wheel entry does when it fires (R26). -/
inductive WheelAct where
  | flip
  | inject
  | notBefore (q i : Nat)
  | queueTimeout (q i : Nat)
  | seal (q i : Nat)
  | tevent (gr seq : Nat)
  | teventEnd (gr seq : Nat)
  | gateDeadline (gr : Nat)
  | contribHold (q i : Nat)
  | faultService (seq : Nat)
  deriving DecidableEq, Repr

/-- An armed entry of an event-timer wheel: its deadline, and the tick of fabric time at which it is due on the present count
(R341). -/
structure WheelEntry where
  deadline : Nat
  due : Nat
  sched : Bool
  reserved : Bool
  act : WheelAct
  deriving DecidableEq, Repr

/-- One wheel with its coarse watchdog (R28); `fired` holds what has fired and not yet acted (R342). -/
structure WheelSt where
  entries : List WheelEntry
  coarse : List WheelEntry
  fired : List WheelEntry
  deriving DecidableEq, Repr

/-! ### Links (R315 to R325) -/

/-- A DATA flit as the link keeps it: lane, SOP, EOP, valid bytes, whether this module originated its packet. -/
structure DFlit where
  vl : Nat
  sop : Bool
  eop : Bool
  bytes : List Byte
  ownPkt : Option Packet
  deriving DecidableEq, Repr

/-- Where the routing stage sends a packet (R330): to this module, to a link, or nowhere. -/
inductive Route where
  | here
  | out (link : Nat)
  | dropped
  deriving DecidableEq, Repr

/-- State of one end of a link. -/
structure LinkSt where
  txSeq : BitVec 12
  replay : List (BitVec 12 × DFlit)
  credits : Sparse Nat
  lastCred : Sparse (BitVec 12)
  rxCum : Sparse (BitVec 12)
  rxBuf : Sparse (List DFlit)
  rxRoute : Sparse (Option Route)
  expSeq : BitVec 12
  discarding : Bool
  reqCount : Nat
  fails : Nat
  waves : Nat
  losUntil : Nat
  txWait : Sparse (List DFlit)
  peerTx : Word64
  peerRx : Word64
  injFlits : Nat
  deriving DecidableEq, Repr

/-- A packet at the routing stage (R330): the link it arrived on, if any, its flits, whether its EOP flit has arrived, and its
route, once decided. -/
structure RouteItem where
  fromLink : Option Nat
  flits : Nat
  pkt : Packet
  whole : Bool
  route : Option Route
  deriving DecidableEq, Repr

/-- The fabric-time unit (R334 to R340). `now` counts units of 1/2,560,000 ns; `rate` is the slew per 1 ns tick in those
units, for `slewTicks` more ticks. -/
structure FtSt where
  now : Nat
  rate : Int
  slewTicks : Nat
  good : Nat
  bad : Nat
  lastSample : Nat
  holdSince : Nat
  setLo : Word32
  nowHiLatch : Word32
  aclk5 : Nat
  lastSync : Option Nat
  deriving DecidableEq, Repr

/-! ### Register pages (R471 to R483) -/

/-- State of one page beyond its registers: indirect address copies, indirect FIFO, the posted write in flight, an
ACCMODE write that waits (R481), and whether its unit is under reset (R483). -/
structure PageSt where
  indBar : Word32
  indMgmt : Word32
  fifo : List (Nat × Word32)
  posted : Option (Nat × Word32)
  accPend : Option Bool
  inReset : Bool
  deriving DecidableEq, Repr

/-- What the module sends out: MSI-X messages, flits, read responses, NVMe commands and keep-alives on an Ethernet port,
CXL.cache requests (0 shared, 1 ownership, 2 write back and drop), management messages by kind with the binding that carries
them, scan responses. -/
inductive OutMsg where
  | msix (vector : Nat)
  | flit (link : Nat) (cw : List (BitVec 144))
  | readResp (data : List Byte) (poison : Bool)
  | nvme (id port tgt : Nat) (isWrite : Bool) (lba nlb : Nat) (data : List Byte)
  | connect (tgt port : Nat) (entry : List Byte)
  | keepAlive (tgt port : Nat)
  | snoop (dpa kind : Nat)
  | hostWrite (addr : Nat) (data : List Byte)
  | hostRead (addr len : Nat)
  | mgmt (via : Option Binding) (kind : Nat) (session : Option Nat) (data : List Byte)
  | scan (busy : Bool) (data : Word32)
  deriving DecidableEq, Repr

/-! ### Memory dies -/

/-- An access to one line that waits at its MD for FILL_DONE (R217): a read of line `line`, or a write of `data` at `off`. -/
inductive MemReq where
  | rd (line : Nat) (cls : Alloc)
  | wr (line off : Nat) (data : List Byte) (poison : Bool) (cls : Alloc)
  deriving DecidableEq, Repr

/-- The answer to a read from outside whose accesses wait for FILL_DONE (R217): the MDs that have still to fill, data,
poison, and what POISON_TX_CNT will count for it (R408). -/
structure HeldAns where
  mds : List Nat
  data : List Byte
  poison : Bool
  tx : Nat
  deriving DecidableEq, Repr

/-- A line that the scrubber read and will write back through slice 0 (R214, R215): its number, whether its poison copies
disagreed, whether a write to it was performed since. -/
structure ScrubFix where
  line : Nat
  split : Bool
  overwritten : Bool
  deriving DecidableEq, Repr

/-- A transfer that holds or wants a staging slice or staging units: context, virtual core and the transfer's serial
number. -/
structure StgUser where
  ctx : Nat
  vcore : Nat
  xfer : Nat
  deriving DecidableEq, Repr

/-- A kiln job (R416 to R424): its entry, context and generation, opcode, plan, slot it names, finished blocks, stored
source bytes asked for, those that have come by 4 KiB of the source, elements written as zero, whether a fault suspends it, and
how it ended: status and DETAIL. -/
structure KilnJob where
  q : Nat
  i : Nat
  ctx : Nat
  gen : Nat
  op : Nat
  plan : List Byte
  slot : Option Nat
  blocks : Nat
  asked : Nat
  got : Sparse (List Byte)
  van : Nat
  susp : Bool
  ended : Option (Nat × Nat)
  deriving DecidableEq, Repr

/-- State of one MD beyond its page: held requests, scrubber, training attempts and trained pairs, fill, its staging SRAM of
eight slices (R32), the pool slices 2 to 7 that overlap staging and the kiln hold, requests that wait for one with whether
OVL_WAIT_CNT has counted them (R34), jobs of its kiln in order of admission, the remainder of VAN_CNT (R421), its cached lines
from the most to the least recently used (R212), the access whose CRC failed last: line, whether a write, attempts made
since, and the line that was last written to memory, with SRC of that write (R208). -/
structure MdSt where
  held : List MemReq
  scrub : List ScrubFix
  tries : Sparse Nat
  trained : Sparse Bool
  filled : Bool
  stg : Sram
  stgOvl : List (StgUser × Nat)
  stgKiln : List Nat
  stgWait : List (StgUser × Bool)
  kilnJobs : List KilnJob
  vanRem : Nat
  recent : List Nat
  crc : Option (Nat × Bool × Nat)
  wrote : Option (Nat × Nat)
  deriving DecidableEq, Repr

/-! ### Contexts (R254, R255) -/

/-- State of a context: its state (Table 9.2), the generation of the IOD and that of the MDs and CDs, the table entry
fields in force (Tables 9.1, 10.8), the sweep markers not yet returned as (link, lane), whether its CTX_CMD waits for
FREE, whether a CTX_SET holds back its admissions (R290), the cores whose stops R285 has still to act on, when its fence
entered the phase it is in, and whether a host reset disables its queues once it is FREE (R410). -/
structure CtxSt where
  state : Nat
  gen : Nat
  dieGen : Nat
  ptRoot : Nat
  emberBase : Nat
  emberSize : Nat
  ncore : Nat
  share : Nat
  prio : Nat
  cdmask : Nat
  spmseg : Nat
  dsmu : Nat
  tmpl : Nat
  endinfo : Nat
  bankseq : Nat
  markers : List (Nat × Nat)
  cmdBusy : Bool
  setHold : Bool
  stops : List Nat
  since : Nat
  flr : Bool
  deriving DecidableEq, Repr

/-- What a fault record covers and its answer resumes (R264 to R266), by virtual core, entry or binding. -/
inductive Covered where
  | core (k v : Nat)
  | xfer (k v id : Nat)
  | window (k v st : Nat)
  | coll (q i : Nat)
  | claim (n : Nat)
  | kiln (q i : Nat)
  | bind (k v : Nat)
  deriving DecidableEq, Repr

/-- A fault record (Table 9.7). -/
structure FaultRec where
  seq : Nat
  ctx : Nat
  gen : Nat
  fva : Nat
  cause : Nat
  access : Nat
  unit : Nat
  level : Nat
  place : Nat
  pte : Nat
  merged : Bool
  covers : List Covered
  deriving DecidableEq, Repr

/-- Faults in flight at the IOD: records that wait for a ring slot (at most 512), units beyond those, records written and
unanswered, the SEQ counter, and the records whose bound has expired (R265 to R267). -/
structure FaultsSt where
  waiting : List FaultRec
  beyond : List FaultRec
  opened : List FaultRec
  seq : Nat
  expired : List Nat
  deriving DecidableEq, Repr

/-! ### Queues, work items, virtual cores (R275 to R300) -/

/-- An outstanding entry of a queue: its 64 bytes, phase bit, stage (0 fetched, 1 NOTBEFORE armed, 2 NOTBEFORE passed,
3 admitted, 4 started), the slot, epoch and adapter version bound at admission (R305), POISON mark, the core
nanoseconds charged, and the virtual core that posted it. -/
structure EntrySt where
  raw : List Byte
  phase : Bool
  stage : Nat
  slot : Option Nat
  epoch : Nat
  adapter : Option (Nat × Nat)
  poison : Bool
  engNs : Nat
  poster : Option Nat
  prog : Nat
  deriving DecidableEq, Repr

/-- A queue: state (Table 10.2), HEAD, MTAIL, phase, the descriptor bytes in force, outstanding entries by ring index
and in fetch order, whether a DISABLE waits, the entries that timed out and whose completion may still come, and who posted
the entry at a ring index. -/
structure QueueSt where
  state : Nat
  head : Nat
  mtail : Nat
  phase : Bool
  desc : List Byte
  entries : Sparse (Option EntrySt)
  order : List Nat
  disabling : Bool
  timedOut : List Nat
  posters : Sparse (Option Nat)
  deriving DecidableEq, Repr

/-- A work item (R281): its entry, context, virtual cores, the registers it sets, and the virtual cores that have
executed HALT. -/
structure WorkItem where
  q : Nat
  i : Nat
  ctx : Nat
  vc0 : Nat
  cnt : Nat
  pc : Word64
  arg : Word64
  img : Word64
  adp : Word64
  epoch : Word32
  halted : List Nat
  deriving DecidableEq, Repr

/-- State of a virtual core: directory state (Table 10.11), kind of last save, core, BANKSEQ of the last save, work items
that wait for it and the one it runs, placement, affinity window start, the RETRY that waits, gate result records held
while banked (R183), and what a save keeps whose layout the spec does not give: the live-range entry, unit queues,
captured descriptor state, transfers, window spills and bytes and their faults, PZ marks, whether it waited,
whether a HALT waited and its loop skip. -/
structure VcSt where
  dir : Nat
  kind : Nat
  core : Nat
  seq : Nat
  items : List (Nat × Nat)
  cur : Option (Nat × Nat)
  placed : Option Nat
  affSince : Option Nat
  retried : Bool
  held : List (Nat × List Byte)
  savedLive : List Byte
  savedUnits : Sparse (List UnitOp)
  savedRel : Sparse (List Nat)
  savedD : Sparse DescReg
  savedXfers : Sparse (Option Xfer)
  savedSpills : Sparse (List (Nat × Nat))
  savedWin : Sram
  savedWinFault : Sparse (Option Nat)
  savedPz : Bool
  savedPzArmed : Bool
  blocked : Bool
  savedHalting : Bool
  savedSkip : Bool
  deriving DecidableEq, Repr

/-- Scheduler state of one CD: start of the accounting period, credits and used engine-ns by context and class (key
4 k + x, ARR 0, VEC 1, DMA 2, RES 3), bank requests by core with the fabric time at which they become forced, DSM
allocations as (context, units of 64 KiB in the order of the allocation), contexts whose allocation was reclaimed, notices that wait (R440), the
blocked dwell start, the SCH fields in force (R310), and SHARE and PRIO of contexts that a CTX_SET of this period changed,
which stay in force until it ends (R290). -/
structure SchedSt where
  periodStart : Nat
  credit : Sparse Int
  used : Sparse Nat
  bankReq : Sparse (Option Nat)
  dsmAlloc : List (Nat × List Nat)
  reclaimed : List Nat
  notices : List Notice
  dwellSince : Option Nat
  period : Nat
  dwell : Nat
  affWin : Nat
  cheapWait : Nat
  margin : Nat
  oldShare : Sparse (Option (Nat × Nat))
  deriving DecidableEq, Repr

/-- An image slot of the resident model set (Table 10.23) with the image addresses of SLOT_ALLOC; `flip` is the entry
that completes when the slot becomes EMPTY, with its DETAIL. -/
structure SlotSt where
  state : Nat
  model : Nat
  epoch : Nat
  inflight : Nat
  admits : Nat
  lastFt : Nat
  imgDva : Nat
  imgDpa : Nat
  size : Nat
  waiter : Option (Nat × Nat × Nat)
  deriving DecidableEq, Repr

/-- A model entry: admission pointer and last epoch. -/
structure ModelSt where
  slot : Option Nat
  lastEpoch : Nat
  deriving DecidableEq, Repr

/-- One version of an adapter: state (0 EMPTY, 1 SET, 2 current, 3 RETIRING), in-flight count, model, DVA, BASE_EPOCH,
and the entry that waits for it to become EMPTY. -/
structure AdpVer where
  state : Nat
  inflight : Nat
  model : Nat
  dva : Nat
  base : Nat
  waiter : Option (Nat × Nat × Nat)
  deriving DecidableEq, Repr

/-- An adapter entry: two versions and the current selector. -/
structure AdpSt where
  v0 : AdpVer
  v1 : AdpVer
  cur : Nat
  deriving DecidableEq, Repr

/-- A SIG on its way to a CD (R65): sending core, context and generation, target virtual core, counter. -/
structure SigMsg where
  src : Nat
  ctx : Nat
  gen : Nat
  target : Nat
  ctr : Nat
  deriving DecidableEq, Repr

/-! ### Collectives (R344 to R362) -/

/-- An admitted collective command: its entry, context and generation, its bytes, and the group entry as read at admission
(R345). -/
structure CollCmd where
  q : Nat
  i : Nat
  ctx : Nat
  gen : Nat
  ent : List Byte
  grp : List Byte
  deriving DecidableEq, Repr

/-- Data of a sequenced command: the rank it came from, its algorithm step, its offset, its bytes. -/
structure CollPiece where
  src : Nat
  step : Nat
  off : Nat
  data : List Byte
  deriving DecidableEq, Repr

/-- A gate contribution (Table 6.8) with the entry and the virtual core that posted it; `late`: a GATE took it in the cycle
of its hold bound (R355). -/
structure Contrib where
  q : Nat
  i : Nat
  ctx : Nat
  gen : Nat
  vcore : Nat
  step : Nat
  ssq : Word32
  nf : Nat
  pz : Bool
  token : Nat
  resaddr : Nat
  late : Bool
  deriving DecidableEq, Repr

/-- The value that a gate reduces (R181, R353). -/
structure GateVal where
  ssq : Word32
  nf : Nat
  n : Nat
  pz : Bool
  mis : Bool
  deriving DecidableEq, Repr

/-- The running sequenced command of a group (R348): partners with their module IDs; per partner the window it granted
(and its first one), bytes sent, bytes written; data received, results to send on, positions of the result and of the
member's own copies, staging progress, move list; suspension; for a GATE its contributions, local value and global value. -/
structure GroupRun where
  cmd : CollCmd
  partners : List (Nat × Nat)
  grant : Sparse Nat
  grant0 : Sparse Nat
  sent : Sparse Nat
  recv : Sparse Nat
  rx : List CollPiece
  acc : List CollPiece
  pos : Nat
  self : Nat
  stg : Nat
  moves : List Byte
  began : Bool
  susp : Bool
  contribs : List Contrib
  lval : Option GateVal
  gval : List Byte
  deriving DecidableEq, Repr

/-- An admitted TEVENT (R362), whether or not its turn has come: its tree neighbours with their module IDs, the children armed,
whether ARMED or ALLARMED went on, whether ALLARMED came, the module of the first veto, whether T has acted, whether the wheel
refused its events. -/
structure TevSt where
  cmd : CollCmd
  partners : List (Nat × Nat)
  armed : List Nat
  armedSent : Bool
  allArmed : Bool
  vetoed : Option Nat
  atT : Bool
  refused : Bool
  deriving DecidableEq, Repr

/-- Engine state of a group: commands that wait for their turn, the running one, packets that came ahead of their command,
contributions held ahead of their GATE, arrivals by CSEQ, its admitted TEVENTs, and for each GATE whose deadline won its CSEQ,
the algorithm step of the values it still awaited and the modules that owe them (R342). -/
structure GroupSt where
  waiting : List CollCmd
  run : Option GroupRun
  early : List Packet
  held : List Contrib
  arrivals : Sparse Nat
  tevs : List TevSt
  timedGate : List (Nat × Nat × List Nat)
  deriving DecidableEq, Repr

/-- A PUT at its source: destination module, phase (0 waits, 1 CLAIM sent, 2 data), claim number, bytes sent, suspension. -/
structure PutSt where
  cmd : CollCmd
  dst : Nat
  phase : Nat
  num : Nat
  sent : Nat
  susp : Bool
  deriving DecidableEq, Repr

/-- A claim at a PUT's destination: number, group, context and generation, slot address, token, source module, length,
virtual core and counter to increment, DVA of the destination, bytes written, data held by a fault, time of the last data,
expiry, and whether it is live. -/
structure ClaimSt where
  num : Nat
  gr : Nat
  ctx : Nat
  gen : Nat
  slot : Nat
  token : Nat
  src : Nat
  len : Nat
  nv : Nat
  ncnt : Nat
  dst : Nat
  got : Nat
  held : List (Nat × List Byte)
  last : Nat
  expUs : Nat
  live : Bool
  deriving DecidableEq, Repr

/-- The collective engine: groups, PUTs in admission order, PUTs whose queue timeout has acted before their answer (R342),
claims, claim counter, WAIT_TOKEN commands that wait, the turns of R351 by destination module, seal numbers by context (R189),
and TEVENTs of kind 1 or 2 that released OK and have not acted: group, kind, ARG, T. -/
structure ColSt where
  groups : Sparse GroupSt
  puts : List PutSt
  latePuts : List PutSt
  claims : List ClaimSt
  claimSeq : Nat
  waits : List CollCmd
  turn : Sparse Nat
  sealNum : Sparse Nat
  due : List (Nat × Nat × Nat × Nat)
  deriving DecidableEq, Repr

/-- Fence table entry of a context (R389). -/
structure FenceEnt where
  job : Nat
  fepoch : Nat
  deriving DecidableEq, Repr

/-! ### Twins (R373 to R376) -/

/-- A mirror pass in progress: bank, pass number, pages still to read, pages read and not yet sent, bytes sent, whether its
COMMIT is sent. -/
structure PassSt where
  bank : Nat
  num : Nat
  pend : List Nat
  readPages : List (Nat × List Byte)
  bytes : Nat
  committed : Bool
  deriving DecidableEq, Repr

/-- A snapshot that runs (R386): its fabric time and the first status other than OK of its storage writes. -/
structure SnapSt where
  time : Nat
  err : Option Nat
  deriving DecidableEq, Repr

/-- Pages that a spare or a PULL receives: the sender, whether it is a PULL, the 4 KiB pieces of each window page written,
time of the last XFER, whether its silence was raised, the pass number its XFERs bear, and XFER_END: byte count and
SEALNUM. -/
structure RecvSt where
  src : Nat
  isPull : Bool
  got : Sparse (BitVec 16)
  last : Nat
  stalled : Bool
  num : Option Nat
  fin : Option (Nat × Nat)
  deriving DecidableEq, Repr

/-- Mirror engine: windows in force as (first page, pages), the two bits of each window page, the pass that runs, the bank
of the latest COMPLETE pass, the snapshot; the store in force (DPA, bytes), the twin's window pages, bytes written for the
pass of each bank; ATTACH sent when, and the twin's ATTACH with the time it came, whether a BEACON
has shown the twin PAIRED since; last BEACON; beacons held until; pages
received. -/
structure TwinSt where
  windows : List (Nat × Nat)
  w : Sparse (BitVec 2)
  pass : Option PassSt
  snap : Option SnapSt
  latest : Option Nat
  storeBase : Nat
  storeLen : Nat
  peerPages : Nat
  rxBytes : Sparse Nat
  attachAt : Nat
  peerAtt : Option (Nat × List Byte)
  matched : Bool
  lastBeacon : Nat
  beaconHold : Nat
  recv : Option RecvSt
  deriving DecidableEq, Repr

/-- BAR4 (R409): the address and data words of the MSI-X table by word index, its unmasked vectors, and the pending-bit
array. -/
structure MsixSt where
  table : Sparse Word32
  unmasked : Sparse Bool
  pend : Sparse Bool
  deriving DecidableEq, Repr

/-! ### Storage (R411 to R415) -/

/-- Who issued a storage command: block of a kiln job, or the snapshot. -/
inductive StoOwner where
  | kiln (q i block : Nat)
  | snap
  deriving DecidableEq, Repr

/-- An NVMe command: number, target, port it is outstanding on (none while it waits for queue depth), range, data of a
write, tries, time of issue, owner. -/
structure NvmeCmd where
  id : Nat
  tgt : Nat
  port : Option Nat
  isWrite : Bool
  lba : Nat
  nlb : Nat
  data : List Byte
  tries : Nat
  since : Nat
  owner : StoOwner
  deriving DecidableEq, Repr

/-- A storage target: state (Table 14.10), ports that reach it, queue depth and keep-alive timeout in force, the entry of
Table 14.3 it was enabled with, and when its connections were last kept alive. -/
structure TgtSt where
  state : Nat
  eth0 : Bool
  eth1 : Bool
  qdepth : Nat
  kato : Nat
  entry : List Byte
  kept : Nat
  deriving DecidableEq, Repr

/-- A port: sending paused by priority flow control, what waits for it to resume, congestion notifications that reduced the
rate. -/
structure EthSt where
  paused : Bool
  waiting : List OutMsg
  cuts : Nat
  deriving DecidableEq, Repr

/-- Storage: targets, commands in order of issue, command counter, ports. -/
structure StoSt where
  targets : Sparse TgtSt
  cmds : List NvmeCmd
  next : Nat
  ports : Sparse EthSt
  deriving DecidableEq, Repr

/-! ### Resilience (R384 to R397) -/

/-- Heartbeat of a core (R387): bundles issued at the last sample, samples without issue, whether the hang was raised. -/
structure HbSt where
  issued : Nat
  idle : Nat
  raised : Bool
  deriving DecidableEq, Repr

/-- A kindling signature: seed, core, signature. -/
structure KtRes where
  seed : Word64
  core : Nat
  sig : Word64
  deriving DecidableEq, Repr

/-- A domain reset under way (R392): domain, unit, result, whether a TEVENT asked for it, and whether its dump still runs. -/
structure RstSt where
  domain : Nat
  unit : Nat
  result : Nat
  tevent : Bool
  waits : Bool
  deriving DecidableEq, Repr

/-- A dump (R394): trigger code, format, start time, codes read so far. -/
structure DumpSt where
  trigger : Nat
  format : Nat
  start : Nat
  codes : List Nat
  deriving DecidableEq, Repr

/-- An armed injection (R396): class, count, unit, array, address. -/
structure InjSt where
  cls : Nat
  count : Nat
  unit : Nat
  array : Nat
  addr : Nat
  deriving DecidableEq, Repr

/-- Resilience state of the IOD and the scheduler processors: heartbeats by core, kindling signatures and the cores at the
head of the test order, the reset under way, the dump, dumps since cold reset, the armed injection, the last firing. -/
structure RasSt where
  hb : Sparse HbSt
  kt : List KtRes
  order : List Nat
  rst : Option RstSt
  dump : Option DumpSt
  dumpSeq : Nat
  inj : Option InjSt
  injFired : Option Nat
  deriving DecidableEq, Repr

/-! ### Aedord (R427 to R463) -/

/-- Log writer (R30, R31, R431, R485): the DPA of the log ring once AED_LOG_BASE is written, dump records and trace records
that wait, each of these with the drops that a gap record before it will report, drops since then, trace mask words. -/
structure LogSt where
  ring : Option Nat
  dumps : List (List Byte)
  fifo : List (Nat × List Byte)
  drops : Nat
  mask : Sparse Word32
  deriving DecidableEq, Repr

/-- A persistent-log entry (R432): kind (0 dump header, 1 boot record, 2 health record, 3 processor restart, 4 limit event,
5 trust event, 6 trip) and contents. -/
structure LogEnt where
  kind : Nat
  data : List Byte
  deriving DecidableEq, Repr

/-- What the store holds beside the log (Table 15.7): NEXT_IDX, owner key hash, overlay, ACTIVE, PENDING with its attempt
flag. -/
structure StoreCfg where
  nextIdx : Nat
  owner : List Byte
  overlay : List CalEntry
  active : Nat
  pending : Option Nat
  attempt : Bool
  deriving DecidableEq, Repr

/-- A store record: SEQ, state, log entries. -/
structure StoreRec where
  seq : Nat
  cfg : StoreCfg
  logs : List LogEnt
  deriving DecidableEq, Repr

/-- A change that waits for a store commit. -/
inductive Commit where
  | reserve
  | owner (hash : List Byte)
  | overlay (l : List CalEntry)
  | activate (slot : Nat)
  | attempt
  | healthy
  | logs
  deriving DecidableEq, Repr

/-- A signature request that waits for its index: 0 measurements, 1 session opening; its binding, session and nonce. -/
structure SigReq where
  kind : Nat
  via : Binding
  session : Option Nat
  nonce : List Byte
  deriving DecidableEq, Repr

/-- A secured session: its binding, time of its last message, grants as (scope, expiry). -/
structure SessSt where
  via : Binding
  last : Nat
  grants : List (Nat × Nat)
  deriving DecidableEq, Repr

/-- Aedord: the word of AED_BOOT at boot; health records held and their counter; the log writer; store records in flash in order of commit, entries that
wait for the log, time of the last log commit, commits that wait; reserved signature indices (next, end), requests that
wait and times of the last 64 releases; sessions, nonces not yet used; image area of the primary flash and the slot an update wrote, and whether it verified;
fused anti-rollback counter; endpoint IDs; SMBus address; raw sensor readings; reading words; firmware processors under
restart (0 link, 1 + n memory training, 9 + n scheduler, 17 Aedord); ABFT events and notices that wait behind a scheduler
processor's restart. -/
structure AedSt where
  bootWord : Word32
  healthSeq : Nat
  health : List (Nat × List Byte)
  log : LogSt
  store : List StoreRec
  logWait : List LogEnt
  lastCommit : Option Nat
  commits : List Commit
  reserved : Nat × Nat
  sigs : List SigReq
  released : List Nat
  sessions : Sparse (Option SessSt)
  nonces : List Word64
  flash : Memory
  update : Option (Nat × Bool)
  svn : Nat
  eids : Sparse Nat
  smbAddr : Nat
  temps : Sparse Nat
  readings : Sparse Word32
  restarting : List Nat
  spanned : List Nat
  overlayOn : List CalEntry
  deriving DecidableEq, Repr

/-! ### Power and pins (R487 to R505) -/

/-- Instructions of the TAP (R504). -/
inductive TapIns where
  | bypass
  | idcode
  | sample
  | extest
  | other
  deriving DecidableEq, Repr

/-- Power: inputs PWR_EN, RESET_N, PERST_N, whether REFCLK runs, whether the rails are on (PWR_GOOD), whether a fault or trip
keeps them off until PWR_EN cycles; ceiling duty less 16 with the time of its last change and the time it came back to 16;
junction duty less 16 by die (0 to 7 CD, 8 to 15 MD) with the same; the trip's time; whether the test-enable fuse is intact
(R35), and MFG_TEST_N low, as the last release of RESET_N found it; the TAP's current instruction, boundary-scan register, and whether EXTEST drives the pins (R464, R504). -/
structure PwrSt where
  pwrEn : Bool
  resetN : Bool
  perstN : Bool
  refclk : Bool
  good : Bool
  latched : Bool
  capCut : Nat
  capSince : Nat
  capFull : Option Nat
  cut : Sparse Nat
  cutSince : Sparse Nat
  cutFull : Option Nat
  trip : Option Nat
  testFuse : Bool
  mfgLow : Bool
  tap : TapIns
  bscan : List Bool
  extest : Bool
  deriving DecidableEq, Repr

/-- A line of host memory that a kiln job reads (R405): entry of the job, host address. -/
structure HostAsk where
  q : Nat
  i : Nat
  addr : Nat
  deriving DecidableEq, Repr

/-- The host link beyond its page: base of the committed HDM decoder, window pages in device bias, IDE streams (1 secure,
2 insecure), whether PERST_N has been asserted before, reads of host memory outstanding, and those that wait in issue order. -/
structure HostSt where
  hdm : Option Nat
  devBias : Sparse Bool
  ide : Sparse Nat
  perstSeen : Bool
  asked : List HostAsk
  asks : List HostAsk
  deriving DecidableEq, Repr

/-- The module. `pending` is the queue of commands that wait; `freshIdx` is the model's own counter of free values
(DESIGN CHOICE, notes/assumptions/2.md); `outbox` records what the module sent (notes/assumptions/3.md). -/
structure State where
  pending : List Instr
  freshIdx : Nat
  outbox : List OutMsg
  regs : Sparse Word32
  regB : Sparse Word32
  regC : Sparse Word32
  pages : Sparse PageSt
  cores : Sparse CoreSt
  dsm : Sparse Sram
  dram : Memory
  dramChk : Sparse Word16
  dramPoison : Sparse (BitVec 3)
  cache : Sparse (Option CLine)
  wheels : Sparse WheelSt
  links : Sparse LinkSt
  routeQ : List RouteItem
  lost : List (Nat × Packet)
  rte : Sparse Word32
  ft : FtSt
  msix : MsixSt
  mds : Sparse MdSt
  sramFilled : Sparse Bool
  ctxs : Sparse CtxSt
  xlt : Sparse (List XltEntry)
  faults : FaultsSt
  hostMem : Memory
  queues : Sparse QueueSt
  items : List WorkItem
  launches : List (Nat × Nat)
  vcs : Sparse VcSt
  sched : Sparse SchedSt
  slots : Sparse SlotSt
  models : Sparse ModelSt
  adapters : Sparse AdpSt
  resLatch : Sparse Word32
  sigs : Sparse (List SigMsg)
  twin : TwinSt
  sto : StoSt
  ras : RasSt
  aed : AedSt
  pwr : PwrSt
  host : HostSt
  col : ColSt
  fence : Sparse FenceEnt
  stgHeld : List (StgUser × List Nat)
  stgQ : List (StgUser × Nat)
  answers : List HeldAns
  deriving DecidableEq, Repr

/-! ### Reset values -/

def Sram.zero : Sram := ⟨[], []⟩

def DescReg.none : DescReg := ⟨false, 0, false, false, 0, 0⟩

def Station.reset : Station := ⟨0, 0, [], [], 0, 0x3F800000, 0, 0, false⟩

def ScaleBuf.reset : ScaleBuf := ⟨false, 0, 0, 0, []⟩

/-- A core after reset: nothing bound, every register 0 (DESIGN CHOICE, notes/assumptions/4.md). -/
def CoreSt.reset : CoreSt :=
  { g := [], p := [], d := [], banks := [], tiles := [], tags := [], bound := .none, pc := 0, hdr := 0, loops := [],
    lc0 := 0, lc1 := 0, tokens := [], fetched := .none, skip := false, halting := false, icache := [], spm := Sram.zero, partSeg := 0,
    partLen := 0, station := [], tscale := [], seeds := [], curVec := .none, scaleBuf := ScaleBuf.reset, numCnt := [],
    numLatch := [], units := [], releases := [], reports := [], xfers := [], xferSeq := 0, winLo := [], spills := [], win := ⟨[], []⟩, winFault := [],
    gateStep := 0, pz := false, pzArmed := false, events := [], injCell := [], injPar := [], drainPar := [],
    beatHold := 0, issued := 0, heldWr := [], item := .none, warm := .none }

def WheelSt.reset : WheelSt := ⟨[], [], []⟩

/-- A link after reset (R323); sequence numbers 0 are a DESIGN CHOICE, notes/assumptions/6.md. -/
def LinkSt.reset : LinkSt :=
  { txSeq := 0, replay := [], credits := [], lastCred := [], rxCum := [], rxBuf := [], rxRoute := [], expSeq := 0,
    discarding := false, reqCount := 0, fails := 0, waves := 0, losUntil := 0, txWait := [], peerTx := 0, peerRx := 0, injFlits := 0 }

def FtSt.reset : FtSt :=
  { now := 0, rate := 0, slewTicks := 0, good := 0, bad := 0, lastSample := 0, holdSince := 0, setLo := 0,
    nowHiLatch := 0, aclk5 := 0, lastSync := .none }

def PageSt.reset : PageSt :=
  { indBar := 0, indMgmt := 0, fifo := [], posted := .none, accPend := .none, inReset := false }

def MdSt.reset : MdSt :=
  { held := [], scrub := [], tries := [], trained := [], filled := false, stg := Sram.zero, stgOvl := [], stgKiln := [],
    stgWait := [], kilnJobs := [], vanRem := 0, recent := [], crc := .none, wrote := .none }

def CtxSt.reset : CtxSt :=
  { state := 0, gen := 0, dieGen := 0, ptRoot := 0, emberBase := 0, emberSize := 0, ncore := 0, share := 0, prio := 0,
    cdmask := 0, spmseg := 0, dsmu := 0, tmpl := 0, endinfo := 0, bankseq := 0, markers := [], cmdBusy := false,
    setHold := false, stops := [], since := 0, flr := false }

def QueueSt.reset : QueueSt :=
  { state := 0, head := 0, mtail := 0, phase := true, desc := [], entries := [], order := [], disabling := false,
    timedOut := [], posters := [] }

def VcSt.reset : VcSt :=
  { dir := 0, kind := 0, core := 0, seq := 0, items := [], cur := .none, placed := .none, affSince := .none,
    retried := false, held := [], savedLive := [], savedUnits := [], savedRel := [], savedD := [], savedXfers := [], savedSpills := [], savedWin := ⟨[], []⟩, savedWinFault := [],
    savedPz := false, savedPzArmed := false, blocked := false, savedHalting := false, savedSkip := false }

def SchedSt.reset : SchedSt :=
  { periodStart := 0, credit := [], used := [], bankReq := [], dsmAlloc := [], reclaimed := [], notices := [],
    dwellSince := .none, period := 100, dwell := 50, affWin := 200, cheapWait := 120, margin := 200,
    oldShare := [] }

def SlotSt.reset : SlotSt :=
  { state := 0, model := 0, epoch := 0, inflight := 0, admits := 0, lastFt := 0, imgDva := 0, imgDpa := 0, size := 0,
    waiter := .none }

def ModelSt.reset : ModelSt := ⟨.none, 0⟩

def AdpVer.reset : AdpVer := ⟨0, 0, 0, 0, 0, .none⟩

def AdpSt.reset : AdpSt := ⟨AdpVer.reset, AdpVer.reset, 0⟩

def GroupSt.reset : GroupSt := ⟨[], .none, [], [], [], [], []⟩

def ColSt.reset : ColSt := ⟨[], [], [], [], 0, [], [], [], []⟩

def FenceEnt.reset : FenceEnt := ⟨0, 0⟩

def TgtSt.reset : TgtSt := ⟨0, false, false, 0, 0, [], 0⟩

def EthSt.reset : EthSt := ⟨false, [], 0⟩

def StoSt.reset : StoSt := ⟨[], [], 0, []⟩

def HbSt.reset : HbSt := ⟨0, 0, false⟩

def RasSt.reset : RasSt := ⟨[], [], [], .none, .none, 0, .none, .none⟩

/-- Word of the trace mask after reset: the Aedord events, CODE 0x040 to 0x046 of SRC 0x500, are enabled (R431, R493;
notes/assumptions/25.md). -/
def maskReset (w : Nat) : Word32 := if w = 82 then 0x7F else 0

def LogSt.reset : LogSt := ⟨.none, [], [], 0, []⟩

def StoreCfg.reset : StoreCfg := ⟨0, [], [], 0, .none, false⟩

/-- Aedord of a module as manufactured: no store record, nothing reserved. -/
def AedSt.reset : AedSt :=
  { bootWord := 0, healthSeq := 0, health := [], log := LogSt.reset, store := [], logWait := [], lastCommit := .none, commits := [],
    reserved := (0, 0), sigs := [], released := [], sessions := [], nonces := [], flash := [], update := .none, svn := 0, eids := [],
    smbAddr := 0x62, temps := [], readings := [], restarting := [], spanned := [], overlayOn := [] }

/-- Power on, RESET_N released, no throttle. -/
def PwrSt.reset : PwrSt :=
  { pwrEn := true, resetN := true, perstN := true, refclk := true, good := true, latched := false, capCut := 0,
    capSince := 0, capFull := .none, cut := [], cutSince := [], cutFull := .none, trip := .none, testFuse := false, mfgLow := false, tap := .idcode, bscan := [], extest := false }

def HostSt.reset : HostSt := ⟨.none, [], [], false, [], []⟩

def TwinSt.reset : TwinSt :=
  { windows := []
    w := []
    pass := .none
    snap := .none
    latest := .none
    storeBase := 0
    storeLen := 0
    peerPages := 0
    rxBytes := []
    attachAt := 0
    peerAtt := .none
    matched := false
    lastBeacon := 0
    beaconHold := 0
    recv := .none }

/-- Word of a routing entry after reset (Table 11.12). -/
def rteReset : Word32 := 0x003FFFFF

/-- The module in cold reset as RESET_N is released (R14, R216, R334): every register at its Reset column, every table
empty, memory listing nothing. -/
def State.reset : State :=
  { pending := [], freshIdx := 0, outbox := [], regs := [], regB := [], regC := [], pages := [], cores := [], dsm := [],
    dram := [], dramChk := [], dramPoison := [], cache := [], wheels := [], links := [], routeQ := [], lost := [], rte := [],
    ft := FtSt.reset, msix := ⟨[], [], []⟩, mds := [],
    sramFilled := [], ctxs := [], xlt := [], faults := ⟨[], [], [], 0, []⟩, hostMem := [], queues := [],
    items := [], launches := [], vcs := [], sched := [], slots := [], models := [], adapters := [], resLatch := [], sigs := [], twin := TwinSt.reset, sto := StoSt.reset,
    ras := RasSt.reset, aed := AedSt.reset, pwr := PwrSt.reset, host := HostSt.reset,
    col := ColSt.reset, fence := [],
    stgHeld := [], stgQ := [], answers := [] }

end Sys2Proof.Machine
end

