-- ==== Sys2Proof/Machine/Ops.lean ====
section
/-! DEFINITION. Machine/Ops.lean: the named operations over registers, pages, messages, cores and fabric time that every
meaning shares. -/

namespace Sys2Proof.Machine

/-! ### Free values and messages -/

/-- A fresh free value and the state that has used it up (notes/assumptions/2.md). -/
def freshBits (s : State) : Word64 × State :=
  (Config.freeBits s.freshIdx, { s with freshIdx := s.freshIdx + 1 })

/-- 64 free bytes and the state that has used them up. -/
def freeBlock (s : State) : List Byte × State :=
  ((List.range 8).flatMap (fun i => leBytes 8 (Config.freeBits (s.freshIdx + i)).toNat), { s with freshIdx := s.freshIdx + 8 })

/-- Send a message outside. -/
def emit (s : State) (m : OutMsg) : State := { s with outbox := s.outbox ++ [m] }

/-- Send an MSI-X message, or set the pending bit of a masked vector (R409). -/
def sendMsix (s : State) (vec : Nat) : State :=
  if sget false s.msix.unmasked vec then emit s (.msix vec)
  else { s with msix := { s.msix with pend := sset false s.msix.pend vec true } }

/-! ### Register words -/

/-- The word at BAR0 address `a`: the bitwise majority of its three copies (R482). -/
def rdWord (s : State) (a : Nat) : Word32 :=
  sget (resetAt a) s.regs a ^^^ (sget 0 s.regB a &&& sget 0 s.regC a)

/-- Write all three copies of the word at `a`. -/
def wrWord (s : State) (a : Nat) (w : Word32) : State :=
  { s with regs := sset (resetAt a) s.regs a w, regB := sset 0 s.regB a 0, regC := sset 0 s.regC a 0 }

/-- Bits [hi:lo] of the word at `a`. -/
def getAt (s : State) (a hi lo : Nat) : Nat := bitsOf (rdWord s a).toNat hi lo

/-- Write bits [hi:lo] of the word at `a`. -/
def setAt (s : State) (a hi lo v : Nat) : State := wrWord s a (putBits (rdWord s a) hi lo v)

/-- Address of a field's word on the page of unit `n`. -/
def fldAddr (f : Fld) (n : Nat) : Nat := pageBase f.page n + f.off

/-- Value of a field on the page of unit `n`. -/
def getF (s : State) (f : Fld) (n : Nat) : Nat := getAt s (fldAddr f n) f.hi f.lo

/-- Write a field on the page of unit `n`. -/
def setF (s : State) (f : Fld) (n v : Nat) : State := setAt s (fldAddr f n) f.hi f.lo v

/-- A counter field advances by `k` and stops at its maximum (R37, R81, R343, ...). -/
def incBy (s : State) (f : Fld) (n k : Nat) : State :=
  setF s f n (min (getF s f n + k) (2 ^ (f.hi + 1 - f.lo) - 1))

/-- A counter field advances by one. -/
def inc (s : State) (f : Fld) (n : Nat) : State := incBy s f n 1

/-- The 64-bit value of a LO and HI pair of fields, each at its place in the value. -/
def getPair (s : State) (lo hi : Fld) (n : Nat) : Nat :=
  getF s lo n * 2 ^ lo.lo + getF s hi n * 2 ^ 32

/-! ### Page header (R471 to R474) -/

/-- Set a bit of BLK_STS: one MSI-X message when an enabled bit goes from 0 to 1 (R473). -/
def setSts (s : State) (base bit : Nat) : State :=
  let was := getAt s (base + 0x014) bit bit
  let s1 := setAt s (base + 0x014) bit bit 1
  if was = 0 ∧ getAt s (base + 0x018) bit bit = 1 then sendMsix s1 (getAt s (base + 0x018) 26 16) else s1

/-- An access that is refused: ACC_ERR of the page, and MOD_CNT.ACC_ERR_CNT (Tables 16.7, 16.14). -/
def accErr (s : State) (base : Nat) : State := setSts (inc s F.MOD_CNT_ACC_ERR_CNT 0) base 1

/-- Latch an error code in BLK_ERRCODE, the first since ERR was last cleared (R474). -/
def latchErr (s : State) (base cls ctx detail : Nat) : State :=
  if getAt s (base + 0x014) 0 0 = 1 then s
  else setSts (wrWord s (base + 0x01C) (BitVec.ofNat 32 (cls * 2 ^ 28 + (ctx % 4096) * 2 ^ 16 + detail % 65536))) base 0

/-! ### Fabric time (R24, R334) -/

/-- Units of fabric time in one 1 ns tick. -/
def ftUnit : Nat := 2560000

/-- Fabric time in 1 ns ticks; every die's copy agrees with it (DESIGN CHOICE, notes/assumptions/12.md). -/
def ftNow (s : State) : Nat := (s.ft.now / ftUnit) % 2 ^ 64

/-- Fabric time in units of 1/16 ns (Table 11.3). -/
def ftStamp (s : State) : Word64 := BitVec.ofNat 64 (s.ft.now / 160000)

/-- ACLK cycles since the cores were released (R42), 12 cycles in 5 ns. -/
def aclk (s : State) : Nat := s.ft.aclk5 / 5

/-! ### Cores -/

/-- The state of core `c`. -/
def coreOf (s : State) (c : Nat) : CoreSt := sget CoreSt.reset s.cores c

/-- Replace the state of core `c`. -/
def setCore (s : State) (c : Nat) (k : CoreSt) : State := { s with cores := sset CoreSt.reset s.cores c k }

/-- Change the state of core `c`. -/
def modCore (s : State) (c : Nat) (f : CoreSt → CoreSt) : State := setCore s c (f (coreOf s c))

/-- General register `n`. -/
def getG (k : CoreSt) (n : Nat) : Word64 := sget 0 k.g n

def setG (k : CoreSt) (n : Nat) (v : Word64) : CoreSt := { k with g := sset 0 k.g n v }

/-- Predicate register `n`; p0 reads as all ones (R39). -/
def getP (k : CoreSt) (n : Nat) : Word64 := if n = 0 then BitVec.allOnes 64 else sget 0 k.p n

/-- Write predicate register `n`; a write to p0 is ignored (R39). -/
def setP (k : CoreSt) (n : Nat) (v : Word64) : CoreSt := if n = 0 then k else { k with p := sset 0 k.p n v }

def getD (k : CoreSt) (n : Nat) : DescReg := sget DescReg.none k.d n

def setD (k : CoreSt) (n : Nat) (v : DescReg) : CoreSt := { k with d := sset DescReg.none k.d n v }

/-- Bank `b` of array `a`, kept at index 4 a + b. -/
def getBank (k : CoreSt) (n : Nat) : Tile := sget [] k.banks n

def setBank (k : CoreSt) (n : Nat) (t : Tile) : CoreSt := { k with banks := sset [] k.banks n t }

def getTile (k : CoreSt) (n : Nat) : Tile := sget [] k.tiles n

def setTile (k : CoreSt) (n : Nat) (t : Tile) : CoreSt := { k with tiles := sset [] k.tiles n t }

/-- The die of a core (R15): CD = core / 16. -/
def cdOf (c : Nat) : Nat := c / 16

/-- CORE_STS.STATE of a core (Table 2.16). -/
def coreState (s : State) (c : Nat) : Nat := getF s F.CORE_STS_STATE c

/-- Firmware processor `p` is under restart (R439): 0 link, 1 + n memory training, 9 + n scheduler of CD n, 17 Aedord. -/
def restarting (s : State) (p : Nat) : Bool := s.aed.restarting.contains p

/-- After a trip every CD has duty 0: no core issues a bundle and no unit advances (R490, R495). -/
def frozen (s : State) : Bool := s.pwr.trip.isSome

/-- The core runs, or waits in a Y-slot wait. -/
def coreRuns (s : State) (c : Nat) : Bool := coreState s c == 1 || coreState s c == 2

/-! ### Virtual cores (R289) -/

/-- Key of virtual core `v` of context `k`. -/
def vcKey (k v : Nat) : Nat := 128 * k + v

def vcOf (s : State) (k v : Nat) : VcSt := sget VcSt.reset s.vcs (vcKey k v)

def setVc (s : State) (k v : Nat) (x : VcSt) : State := { s with vcs := sset VcSt.reset s.vcs (vcKey k v) x }

/-- The core on which virtual core `v` of context `k` is resident. -/
def coreAt (s : State) (k v : Nat) : Option Nat :=
  let x := vcOf s k v
  if x.dir = 1 then some x.core else none

end Sys2Proof.Machine
end

