-- ==== Sys2Proof/Machine/Wheel.lean ====
section
/-! DEFINITION. Machine/Wheel.lean: event-timer wheels and the coarse watchdog (R26 to R29, R341, R342). -/

namespace Sys2Proof.Machine

/-- The IOD's wheel. -/
def iodDie : Nat := 8

def wheelOf (s : State) (die : Nat) : WheelSt := sget WheelSt.reset s.wheels die

def setWheel (s : State) (die : Nat) (w : WheelSt) : State := { s with wheels := sset WheelSt.reset s.wheels die w }

/-- Reserved entries in use. -/
def rsvUsed (w : WheelSt) : Nat := (w.entries.filter (fun e => e.reserved)).length

/-- An unreserved entry is free: SCHED_RSV entries, or as many as are in use, are kept back (Table 1.9). -/
def unrsvFree (s : State) (die : Nat) : Bool :=
  let w := wheelOf s die
  let used := (w.entries.filter (fun e => !e.reserved)).length
  used + max (getF s F.TMR_CFG_SCHED_RSV die) (rsvUsed w) < 8192

/-- A deadline that has already passed counts in PAST_CNT when armed (R341). -/
def countPast (s : State) (die deadline : Nat) : State :=
  if deadline ≤ ftNow s then inc s F.TMR_CNT2_PAST_CNT die else s

/-- The tick at which an entry armed now is due: its deadline, or the next tick where that has passed (R341). -/
def dueOf (s : State) (deadline : Nat) : Nat := if deadline ≤ ftNow s then ftNow s + 1 else deadline

/-- Arm a fabric-time scheduled event: a reserved entry first, then an unreserved one, of a wheel of 8,192; `none` is
TIMER_FULL (R26, R29). -/
def armSched (s : State) (die deadline : Nat) (act : WheelAct) : Option State :=
  let w := wheelOf s die
  let put (r : Bool) := some (countPast (setWheel s die { w with entries := w.entries ++ [⟨deadline, dueOf s deadline, true, r, act⟩] })
    die deadline)
  if rsvUsed w < getF s F.TMR_CFG_SCHED_RSV die ∧ w.entries.length < 8192 then put true
  else if unrsvFree s die then put false
  else none

/-- FULL_CNT of a refused event (R29). -/
def timerFull (s : State) (die : Nat) : State := inc s F.TMR_CNT_FULL_CNT die

/-- Arm a queue timeout: an unreserved entry, else the coarse watchdog (R28). -/
def armTimeout (s : State) (die deadline : Nat) (act : WheelAct) : State :=
  let w := wheelOf s die
  if unrsvFree s die then
    countPast (setWheel s die { w with entries := w.entries ++ [⟨deadline, dueOf s deadline, false, false, act⟩] }) die deadline
  else
    inc (setWheel s die { w with coarse := w.coarse ++ [⟨deadline, dueOf s deadline, false, false, act⟩] }) F.TMR_CNT_DEFER_CNT die

/-- Entry `a` acts before `b` (R27): the earlier tick, then scheduled events before timeouts. -/
def actsBefore (a b : WheelEntry) : Bool :=
  decide (a.due < b.due) || (a.due == b.due && a.sched && !b.sched)

/-- The first entry to act among the due ones; within a class, the arming order. -/
def firstDue (now : Nat) (es : List WheelEntry) : Option WheelEntry :=
  es.foldl (fun best e =>
    if e.due ≤ now then
      match best with
      | none => some e
      | some b => if actsBefore e b then some e else some b
    else best) none

/-- When an entry is due after fabric time stepped from tick `old` to `new` (R341): at its deadline if that is still to come;
one whose deadline the step passed, at the next tick; one that was due already stays due. -/
def redue (old new : Nat) (e : WheelEntry) : WheelEntry :=
  { e with due := if new < e.deadline then e.deadline else if e.due ≤ old then min e.due new else new + 1 }

/-- Fabric time steps to `now` in units of 1/2,560,000 ns; every armed entry keeps its deadline (R341). -/
def setTime (s : State) (now : Nat) : State :=
  let t := { s with ft := { s.ft with now := now } }
  { t with wheels := s.wheels.map (fun e => (e.1, { e.2 with
      entries := e.2.entries.map (redue (ftNow s) (ftNow t)), coarse := e.2.coarse.map (redue (ftNow s) (ftNow t)) })) }

/-- Fire the first due entry of a wheel: it stands in `fired` until the step of its action. -/
def fireWheel (s : State) (die : Nat) : State :=
  let w := wheelOf s die
  match firstDue (ftNow s) w.entries with
  | some e => setWheel s die { w with entries := w.entries.erase e, fired := w.fired ++ [e] }
  | none => s

/-- Fire the first due timeout of the coarse watchdog (R28). -/
def fireCoarse (s : State) (die : Nat) : State :=
  let w := wheelOf s die
  match firstDue (ftNow s) w.coarse with
  | some e => setWheel s die { w with coarse := w.coarse.erase e, fired := w.fired ++ [e] }
  | none => s

/-- The firing of `act` has reached the unit that awaits it, and it has not acted. -/
def hasFired (s : State) (die : Nat) (act : WheelAct) : Bool := (wheelOf s die).fired.any (fun e => e.act == act)

/-- Take the fired entry of `act` away: it acts now. -/
def takeFired (s : State) (die : Nat) (act : WheelAct) : State :=
  let w := wheelOf s die
  setWheel s die { w with fired := w.fired.filter (fun e => e.act != act) }

/-- Every entry of `act`, wherever it stands. -/
def armedAs (s : State) (die : Nat) (act : WheelAct) : List WheelEntry :=
  let w := wheelOf s die
  (w.entries ++ w.coarse ++ w.fired).filter (fun e => e.act == act)

/-- Disarm `act`. -/
def disarm (s : State) (die : Nat) (act : WheelAct) : State :=
  let w := wheelOf s die
  setWheel s die { entries := w.entries.filter (fun e => e.act != act),
                   coarse := w.coarse.filter (fun e => e.act != act),
                   fired := w.fired.filter (fun e => e.act != act) }

/-- A completion meets its timeout before the timeout acts (R342): disarmed; LATE when latched at or after the deadline
tick. -/
def completeInTime (s : State) (die : Nat) (act : WheelAct) : Bool × State :=
  let late := (armedAs s die act).any (fun e => decide (e.deadline ≤ ftNow s))
  let s := disarm s die act
  (late, if late then inc s F.TMR_CNT1_LATE_WIN_CNT die else s)

/-- A completion that arrives after its timeout has acted (R342). -/
def completeAfter (s : State) (die : Nat) : State := inc s F.TMR_CNT1_AFTER_CNT die

/-- Meaning of WHEEL_ENTRY_FIRING (R26, R27). -/
def execWheelEntryFiring (die : DieId) (s : State) : Host.Outcome State Fault Refusal := .next (fireWheel s die)

/-- Meaning of COARSE_WATCHDOG_FIRING (R28). -/
def execCoarseWatchdogFiring (die : DieId) (s : State) : Host.Outcome State Fault Refusal := .next (fireCoarse s die)

end Sys2Proof.Machine
end

