-- ==== Sys2Proof/Machine/Links.lean ====
section
/-! DEFINITION. Machine/Links.lean: flits, packets, retry, credits and training of a link (R315 to R325), and fabric time
(R334 to R340). -/

namespace Sys2Proof.Machine

/-! ### Flit header and codewords (R315, Table 11.2) -/

/-- The link header. -/
structure FlitHdr where
  ftype : Nat
  vl : Nat
  sop : Bool
  eop : Bool
  len : Nat
  seq : BitVec 12
  ack : BitVec 12
  cred : List (BitVec 12)
  deriving DecidableEq, Repr

/-- The 128 bits of a link header. -/
def hdrBits (h : FlitHdr) : BitVec 128 :=
  BitVec.ofNat 128 (h.ftype % 16 + (h.vl % 4) * 2 ^ 4 + (if h.sop then 2 ^ 6 else 0) + (if h.eop then 2 ^ 7 else 0) +
    (h.len % 256) * 2 ^ 8 + h.seq.toNat * 2 ^ 16 + h.ack.toNat * 2 ^ 28 +
    (h.cred.getD 0 0).toNat * 2 ^ 40 + (h.cred.getD 1 0).toNat * 2 ^ 52 + (h.cred.getD 2 0).toNat * 2 ^ 64 +
    (h.cred.getD 3 0).toNat * 2 ^ 76)

/-- The fields of a link header. -/
def parseHdr (b : BitVec 128) : FlitHdr :=
  let w := b.toNat
  { ftype := bitsOf w 3 0, vl := bitsOf w 5 4, sop := bitAt w 6, eop := bitAt w 7, len := bitsOf w 15 8,
    seq := BitVec.ofNat 12 (bitsOf w 27 16), ack := BitVec.ofNat 12 (bitsOf w 39 28),
    cred := [BitVec.ofNat 12 (bitsOf w 51 40), BitVec.ofNat 12 (bitsOf w 63 52), BitVec.ofNat 12 (bitsOf w 75 64),
      BitVec.ofNat 12 (bitsOf w 87 76)] }

/-- A granule with its check word: data symbols first, then C0 to C3. -/
def codeword (d : BitVec 128) : BitVec 144 := encodeChk d ++ d

/-- The sixteen codewords of a flit. -/
def encodeFlit (h : FlitHdr) (payload : List Byte) : List (BitVec 144) :=
  codeword (hdrBits h) ::
    (List.range 15).map (fun g => codeword (BitVec.ofNat 128 (leNat (padTo 16 ((payload.drop (16 * g)).take 16)))))

/-- A received flit after R204: whether its header and its payload decoded, the granules corrected. -/
structure RxDec where
  hdrOk : Bool
  bodyOk : Bool
  hdr : FlitHdr
  payload : List Byte
  fixes : Nat
  deriving DecidableEq, Repr

/-- Decode one received codeword. -/
def rxGranule (w : BitVec 144) : BitVec 128 × Decoded :=
  let d : BitVec 128 := w.setWidth 128
  let r := decodeGranule d ((w >>> 128).setWidth 16)
  (applyFix d r, r)

/-- Decode a received flit granule by granule. -/
def decodeFlit (f : RxFlit) : RxDec :=
  let gs := f.cw.map rxGranule
  let isFix (r : Decoded) : Bool := match r with | .fix _ _ => true | _ => false
  { hdrOk := (gs.getD 0 (0, .bad)).2 != .bad, bodyOk := (gs.drop 1).all (fun g => g.2 != .bad) && gs.length == 16,
    hdr := parseHdr (gs.getD 0 (0, .bad)).1,
    payload := (gs.drop 1).flatMap (fun g => leBytes 16 g.1.toNat),
    fixes := (gs.filter (fun g => isFix g.2)).length }

/-! ### Packets (R318, Table 11.5) -/

/-- The transaction header and body of a packet. -/
def packetBytes (p : Packet) : List Byte :=
  leBytes 2 p.dst.toNat ++ leBytes 2 p.src.toNat ++ leBytes 4 p.ctxgen.toNat ++ leBytes 2 p.fepoch.toNat ++ [p.op] ++
    leBytes 1 p.hops.toNat ++ leBytes 4 p.body.length ++ leBytes 8 p.addr.toNat ++ leBytes 4 p.token.toNat ++
    leBytes 4 0 ++ p.body

/-- The packet that the payload bytes of one lane's flits hold. -/
def parsePacket (vl : Nat) (bs : List Byte) : Packet :=
  { vl := ⟨vl % 4, Nat.mod_lt _ (by decide)⟩, dst := BitVec.ofNat 16 (fieldLE bs 0 1), src := BitVec.ofNat 16 (fieldLE bs 2 3),
    ctxgen := BitVec.ofNat 32 (fieldLE bs 4 7), fepoch := BitVec.ofNat 16 (fieldLE bs 8 9),
    op := BitVec.ofNat 8 (fieldLE bs 10 10), hops := BitVec.ofNat 4 (fieldLE bs 11 11),
    addr := BitVec.ofNat 64 (fieldLE bs 16 23), token := BitVec.ofNat 32 (fieldLE bs 24 27),
    body := (bs.drop 32).take (fieldLE bs 12 15) }

/-- Cut bytes into pieces of at most 240 (R318). -/
def chunks240 : Nat → List Byte → List (List Byte)
  | 0, _ => []
  | fuel + 1, bs => if bs.isEmpty then [] else bs.take 240 :: chunks240 fuel (bs.drop 240)

/-- The DATA flits of a packet. -/
def packetFlits (p : Packet) (own : Bool) : List DFlit :=
  let cs := chunks240 20 (packetBytes p)
  cs.mapIdx (fun i c =>
    { vl := p.vl, sop := i == 0, eop := i + 1 == cs.length, bytes := c, ownPkt := if own then some p else none })

/-! ### A link's end -/

def linkOf (s : State) (l : Nat) : LinkSt := sget LinkSt.reset s.links l

def setLink (s : State) (l : Nat) (x : LinkSt) : State := { s with links := sset LinkSt.reset s.links l x }

/-- State of a link (Table 11.6): 0 DOWN, 1 TRAINING, 2 UP, 3 RETRAINING, 4 FAILED, 5 DISABLED. -/
def linkState (s : State) (l : Nat) : Nat := getF s F.LNK_STS_STATE l

def setLinkState (s : State) (l st : Nat) : State := setF s F.LNK_STS_STATE l st

/-- The header this end sends now: ACK and the cumulative credit counts (R315, R322). -/
def hdrNow (x : LinkSt) (ftype vl : Nat) (sop eop : Bool) (len : Nat) (seq : BitVec 12) : FlitHdr :=
  { ftype := ftype, vl := vl, sop := sop, eop := eop, len := len, seq := seq, ack := x.expSeq - 1,
    cred := [sget 0 x.rxCum 0, sget 0 x.rxCum 1, sget 0 x.rxCum 2, sget 0 x.rxCum 3] }

/-- Send a DATA flit with sequence number `q`; an armed FLIT injection makes its granule 1 uncorrectable (R397). -/
def emitData (s : State) (l : Nat) (q : BitVec 12) (d : DFlit) : State :=
  let x := linkOf s l
  let cw := encodeFlit (hdrNow x 1 d.vl d.sop d.eop d.bytes.length q) (padTo 240 d.bytes)
  if 0 < x.injFlits then
    emit (setLink s l { x with injFlits := x.injFlits - 1 }) (.flit l (cw.modify 1 (fun w => w ^^^ 0x11)))
  else emit s (.flit l cw)

/-- Send a flit that carries no sequence number. -/
def emitPlain (s : State) (l ftype : Nat) (payload : List Byte) : State :=
  emit s (.flit l (encodeFlit (hdrNow (linkOf s l) ftype 0 false false 0 0) (padTo 240 payload)))

/-- What this end acknowledges or returns as credit goes in an IDLE flit where no other flit of link `l` bore it (R316;
DESIGN CHOICE, notes/assumptions/13.md): `t` follows from `s`. -/
def idleIfQuiet (s t : State) (l : Nat) : State :=
  let bore := (t.outbox.drop s.outbox.length).any (fun m => match m with | .flit k _ => k == l | _ => false)
  if linkState t l = 2 ∧ bore = false then emitPlain t l 0 [] else t

/-- Send the next waiting flit of lane `vl`, if the link is UP, the lane has a credit and the window has room (R319,
R322). -/
def sendOne (s : State) (l vl : Nat) : State :=
  let x := linkOf s l
  match sget [] x.txWait vl with
  | d :: t =>
    if linkState s l = 2 ∧ 0 < sget 0 x.credits vl ∧ x.replay.length < 1024 then
      let s := setLink s l { x with
        txWait := sset [] x.txWait vl t, credits := sset 0 x.credits vl (sget 0 x.credits vl - 1),
        replay := x.replay ++ [(x.txSeq, d)], txSeq := x.txSeq + 1 }
      emitData s l x.txSeq d
    else s
  | [] => s

/-- Send every waiting flit that may go, lane 0 first (DESIGN CHOICE, notes/assumptions/13.md). -/
def pump (s : State) (l : Nat) : State :=
  (List.range 4).foldl (fun s vl => (sget [] (linkOf s l).txWait vl).foldl (fun s _ => sendOne s l vl) s) s

/-- Hand a packet to a link: its flits wait for their lane's turn. -/
def sendOn (s : State) (l : Nat) (p : Packet) (own : Bool) : State :=
  let x := linkOf s l
  pump (setLink s l { x with txWait := sset [] x.txWait p.vl (sget [] x.txWait p.vl ++ packetFlits p own) }) l

/-- ACK and credit counts of a received header (R319, R322). -/
def takeHdr (s : State) (l : Nat) (h : FlitHdr) : State :=
  let x := linkOf s l
  let replay := if x.replay.any (fun r => r.1 == h.ack) then (x.replay.dropWhile (fun r => r.1 != h.ack)).drop 1
    else x.replay
  let x := (List.range 4).foldl (fun (x : LinkSt) v =>
    let c := h.cred.getD v 0
    let d := (c - sget 0 x.lastCred v).toNat
    { x with credits := sset 0 x.credits v (sget 0 x.credits v + d), lastCred := sset 0 x.lastCred v c })
    { x with replay := replay }
  setLink s l x

/-- Count the corrections of a received flit (R320). -/
def countFlit (s : State) (l : Nat) (d : RxDec) : State := incBy s F.LNK_CNT0_CE_CNT l d.fixes

/-- The RETRY_REQ this end sends (R316). -/
def sendRetryReq (s : State) (l : Nat) : State :=
  let x := linkOf s l
  emitPlain (setLink s l { x with reqCount := x.reqCount + 1 }) l 2 (leBytes 2 x.expSeq.toNat)

/-- The TRAIN flit this end sends (Table 11.3). -/
def sendTrain (s : State) (l : Nat) : State :=
  let x := linkOf s l
  let waiting (v : Nat) : Nat := (s.routeQ.map (fun r => if r.fromLink == some l && r.pkt.vl.val == v then r.flits else 0)).sum
  let free (v : Nat) : Nat := 256 - (sget [] x.rxBuf v).length - waiting v
  emitPlain s l 4 (leBytes 2 (getF s F.RTE_MODID_MOD_ID 0) ++ leBytes 1 l ++ leBytes 1 (getF s F.LNK_CFG_ROLE l) ++
    leBytes 2 x.expSeq.toNat ++ leBytes 2 (free 0) ++ leBytes 2 (free 1) ++ leBytes 2 (free 2) ++ leBytes 2 (free 3))

/-- A link in UP retrains (R324). -/
def retrain (s : State) (l : Nat) : State :=
  sendTrain (inc (setLinkState s l 3) F.LNK_CNT1_RETRAIN_CNT l) l

/-- The packet that link `l` has received in part on lane `vl`, at the routing stage. -/
def partOf (l vl : Nat) (r : RouteItem) : Bool := r.fromLink == some l && r.pkt.vl.val == vl && !r.whole

/-- A link enters FAILED or DISABLED (R325): the packets with a flit not acknowledged are counted, those of this module
reported, and everything held is discarded, packets received in part too. -/
def linkDown (s : State) (l st : Nat) : State :=
  let x := linkOf s l
  let held := x.replay.map (fun r => r.2) ++ (List.range 4).flatMap (fun v => sget [] x.txWait v)
  let ends := held.filter (fun d => d.eop)
  let s := incBy s F.LNK_CNT1_LOST_PKT_CNT l ends.length
  let s := { s with
    lost := s.lost ++ ends.filterMap (fun d => d.ownPkt.map (fun p => (l, p)))
    routeQ := s.routeQ.filter (fun r => !(r.fromLink == some l && !r.whole)) }
  let s := setLink s l { x with
    replay := [], txWait := [], credits := [], rxBuf := [], rxRoute := [], discarding := false, reqCount := 0, fails := 0 }
  setLinkState s l st

/-- The link comes UP from TRAINING: credits from the peer's FREE, cumulative counts from 0, sequence numbers from the
peer's EXPSEQ (R323; the last DEDUCED, notes/assumptions/6.md). -/
def comeUp (s : State) (l : Nat) (pl : List Byte) : State :=
  let x := linkOf s l
  let s := setLink s l { x with
    credits := ssetAll 0 [] [(0, fieldLE pl 6 7), (1, fieldLE pl 8 9), (2, fieldLE pl 10 11), (3, fieldLE pl 12 13)],
    lastCred := [], rxCum := [], txSeq := BitVec.ofNat 12 (fieldLE pl 4 5), replay := [], fails := 0,
    discarding := false, reqCount := 0 }
  let s := setF (setF s F.LNK_STS_ROLE_MISMATCH l 0) F.LNK_STS_WAVE_LOS l 0
  pump (setLinkState s l 2) l

/-- Retransmit the DATA flits from sequence number `q` (R321, R324). -/
def retransmit (s : State) (l : Nat) (q : BitVec 12) : State :=
  let x := linkOf s l
  (x.replay.dropWhile (fun r => r.1 != q)).foldl (fun s r => emitData s l r.1 r.2) s

/-- A retrained link returns to UP and resumes at the peer's EXPSEQ (R324). -/
def resumeUp (s : State) (l : Nat) (pl : List Byte) : State :=
  let q := BitVec.ofNat 12 (fieldLE pl 4 5)
  let x := linkOf s l
  let keep := if x.replay.any (fun r => r.1 == q) then x.replay.dropWhile (fun r => r.1 != q)
    else if q = x.txSeq then [] else x.replay
  let s := setLink s l { x with replay := keep, fails := 0, discarding := false, reqCount := 0 }
  let s := setLinkState (setF s F.LNK_STS_WAVE_LOS l 0) l 2
  pump (retransmit s l q) l

/-- TRAIN_FLIT: a TRAIN flit in TRAINING or RETRAINING (R323, R324). In UP it says that the peer alone began retraining: this
end retrains with it, answers, and resumes (DESIGN CHOICE, notes/assumptions/6.md). While an injected loss of signal lasts, none
arrives (R397). -/
def trainFlit (s : State) (l : Nat) (f : RxFlit) : State :=
  let d := decodeFlit f
  let s := countFlit s l d
  if !d.hdrOk || d.hdr.ftype != 4 || !d.bodyOk || decide (ftNow s < (linkOf s l).losUntil) then s
  else
    let pl := d.payload
    let s := setF s F.LNK_STS_PEER_MOD l (fieldLE pl 0 1)
    if linkState s l = 1 then
      if fieldLE pl 3 3 = getF s F.LNK_CFG_ROLE l then comeUp s l pl else setF s F.LNK_STS_ROLE_MISMATCH l 1
    else if linkState s l = 3 then resumeUp s l pl
    else if linkState s l = 2 then resumeUp (retrain s l) l pl
    else s

/-- A complete packet goes to the routing stage: in the place that its SOP flit took there, or, its route decided already,
behind the others (R330). -/
def enterWhole (s : State) (r : RouteItem) (l vl : Nat) : State :=
  { s with routeQ := if s.routeQ.any (partOf l vl) then s.routeQ.map (fun q => if partOf l vl q then r else q)
    else s.routeQ ++ [r] }

/-- A flit enters its lane's buffer: the SOP flit brings its packet to the routing stage (R330), the EOP flit completes it. -/
def enterLane (s : State) (l : Nat) (h : FlitHdr) (payload : List Byte) : State :=
  let x := linkOf s l
  let v := h.vl
  let buf := sget [] x.rxBuf v ++ [{ vl := v, sop := h.sop, eop := h.eop, bytes := payload.take h.len, ownPkt := none }]
  let pkt := parsePacket v (buf.flatMap (fun b => b.bytes))
  let route := if h.sop then none else sget none x.rxRoute v
  let x := { x with rxBuf := sset [] x.rxBuf v (if h.eop then [] else buf)
                    rxRoute := sset none x.rxRoute v (if h.eop then none else route) }
  let s := setLink s l x
  if h.eop then enterWhole s ⟨some l, buf.length, pkt, true, route⟩ l v
  else if h.sop then { s with routeQ := s.routeQ ++ [⟨some l, 0, pkt, false, none⟩] }
  else s

/-- Accept or discard a DATA flit (R320): an accepted flit enters its lane's buffer. -/
def dataFlit (s : State) (l : Nat) (f : RxFlit) : State :=
  let d := decodeFlit f
  let s := countFlit s l d
  if linkState s l ≠ 2 then s
  else if d.hdrOk && d.hdr.ftype != 1 then s
  else
    let s := if d.hdrOk then takeHdr s l d.hdr else s
    let x := linkOf s l
    if d.hdrOk && d.bodyOk && d.hdr.seq == x.expSeq then
      let t := setLink s l { x with expSeq := x.expSeq + 1, discarding := false, reqCount := 0 }
      idleIfQuiet s (pump (enterLane t l d.hdr d.payload) l) l
    else if x.discarding then pump s l
    else pump (sendRetryReq (setLink s l { x with discarding := true, reqCount := 0 }) l) l

/-- RETRY_REQ: retransmission from the requested sequence number (R321). -/
def retryReq (s : State) (l : Nat) (f : RxFlit) : State :=
  let d := decodeFlit f
  let s := countFlit s l d
  if linkState s l ≠ 2 ∨ d.hdrOk = false ∨ d.hdr.ftype ≠ 2 then s
  else
    let s := takeHdr s l d.hdr
    if d.bodyOk then
      pump (retransmit (inc s F.LNK_CNT0_RETRY_CNT l) l (BitVec.ofNat 12 (fieldLE d.payload 0 1))) l
    else pump s l

/-- RETRY_REQ_REPEAT every 2 µs (R320); sixteen for the same SEQ retrain the link (R321). -/
def retryRepeat (s : State) (l : Nat) : State :=
  if linkState s l = 2 ∧ (linkOf s l).discarding then
    let s := sendRetryReq s l
    if 16 ≤ (linkOf s l).reqCount then retrain s l else s
  else s

/-- IDLE flit: only its header acts (R316, R322). -/
def idleFlit (s : State) (l : Nat) (f : RxFlit) : State :=
  let d := decodeFlit f
  let s := countFlit s l d
  if linkState s l = 2 ∧ d.hdrOk = true ∧ d.hdr.ftype = 0 then pump (takeHdr s l d.hdr) l else s

/-! ### Fabric time (R336 to R340) -/

/-- Signed difference of two stamps modulo 2^64. -/
def stampDiff (a b : Word64) : Int := (a - b).toInt

/-- Fabric time steps by `d` units, modulo 2^64 ns. -/
def stepTime (s : State) (d : Int) : State := setTime s (((s.ft.now : Int) + d) % ((2 ^ 64 : Int) * ftUnit)).toNat

/-- Discipline on a sample θ from the parent, given as 32 θ in ns (R337, R338). -/
def discipline (s : State) (th : Int) : State :=
  let st := getF s F.FT_STS_LSTATE 0
  let s := setF s F.FT_OFFSET_THETA 0 (ofInt 16 (satSigned 16 (Int.tdiv th 32)))
  let good := if th.natAbs ≤ 64 then s.ft.good + 1 else 0
  let bad := if 256 < th.natAbs then s.ft.bad + 1 else 0
  let s := if st = 0 ∧ 32000 < th.natAbs then
      stepTime { s with ft := { s.ft with rate := 0, slewTicks := 0 } } (-th * 80000)
    else { s with ft := { s.ft with rate := max (-512) (min 512 (-th)), slewTicks := 10000 } }
  let s := { s with ft := { s.ft with good := good, bad := bad } }
  if st = 2 then
    let s := setF s F.FT_STS_LSTATE 0 1
    { s with ft := { s.ft with bad := if 256 < th.natAbs then 1 else 0 } }
  else if st = 1 then
    if 4 ≤ bad then
      let s := inc (setF s F.FT_STS_LSTATE 0 3) F.FT_CNT_UNLOCK_CNT 0
      { s with ft := { s.ft with good := 0, bad := 0 } }
    else s
  else if 8 ≤ good then
    let s := setF s F.FT_STS_LSTATE 0 1
    { s with ft := { s.ft with good := 0, bad := 0 } }
  else s

/-- TIME_FLIT: δ of the link, and on the parent link of a module that is not the root, θ (R336), each TIME flit from the
parent holding HOLDOVER off (R338). Stamps of 0 from the peer
mean that it has received none yet (DESIGN CHOICE, notes/assumptions/14.md). -/
def timeFlit (s : State) (l : Nat) (f : RxFlit) : State :=
  let d := decodeFlit f
  let s := countFlit s l d
  if linkState s l ≠ 2 ∨ d.hdrOk = false ∨ d.hdr.ftype ≠ 3 then s
  else
    let s := pump (takeHdr s l d.hdr) l
    if d.bodyOk = false then s
    else
      let t3 : Word64 := BitVec.ofNat 64 (fieldLE d.payload 0 7)
      let t1 : Word64 := BitVec.ofNat 64 (fieldLE d.payload 8 15)
      let t2 : Word64 := BitVec.ofNat 64 (fieldLE d.payload 16 23)
      let t4 := ftStamp s
      let fromParent := getF s F.FT_CFG_ROOT 0 == 0 && getF s F.FT_CFG_PARENT 0 == l
      let s := setLink s l { linkOf s l with peerTx := t3, peerRx := t4 }
      let s := if fromParent then { s with ft := { s.ft with lastSample := ftNow s } } else s
      if t1 = 0 ∧ t2 = 0 then s
      else
        let th := stampDiff t1 t2 + stampDiff t4 t3
        let de := stampDiff t2 t1 + stampDiff t4 t3
        let s := setF s F.LNK_DELAY_DELAY_NS l (min 65535 (Int.tdiv de 32).toNat)
        if fromParent then discipline s th else s

/-- TIME_FLIT_SEND every 10 µs on an UP link (R336). -/
def timeFlitSend (s : State) (l : Nat) : State :=
  if linkState s l = 2 then
    let x := linkOf s l
    emitPlain s l 3 (leBytes 8 (ftStamp s).toNat ++ leBytes 8 x.peerTx.toNat ++ leBytes 8 x.peerRx.toNat)
  else s

/-- HOLDOVER_ENTRY of a LOCKED module that is not the root, when its parent link is not UP or no TIME flit came for
30 µs (R338). -/
def holdoverEntry (s : State) : State :=
  if getF s F.FT_CFG_ROOT 0 = 0 ∧ getF s F.FT_STS_LSTATE 0 = 1 ∧
      (linkState s (getF s F.FT_CFG_PARENT 0) ≠ 2 ∨ s.ft.lastSample + 30000 ≤ ftNow s) then
    let s := setF s F.FT_STS_LSTATE 0 2
    { s with ft := { s.ft with holdSince := ftNow s } }
  else s

/-- HOLDOVER_EXPIRY after HOLD_US without a sample (R338). -/
def holdoverExpiry (s : State) : State :=
  if getF s F.FT_STS_LSTATE 0 = 2 ∧ s.ft.holdSince + 1000 * max 1 (getF s F.FT_CFG_HOLD_US 0) ≤ ftNow s then
    let s := setF s F.FT_STS_LSTATE 0 3
    { s with ft := { s.ft with good := 0, bad := 0, slewTicks := 0 } }
  else s

/-- FT_SET: accepted by the root in state NEVER only (R335). -/
def ftSet (s : State) (v : Word64) : State :=
  if getF s F.FT_CFG_ROOT 0 = 1 ∧ getF s F.FT_STS_LSTATE 0 = 0 then
    let s := setTime s (v.toNat * ftUnit)
    if getF s F.FT_CFG_SYNC_EN 0 = 0 then setF s F.FT_STS_LSTATE 0 1 else s
  else setF s F.FT_STS_SET_IGN 0 1

/-- The error e of a SYNC_IN edge: fabric time less the nearest multiple of 10^9 ns (R340). -/
def syncError (now : Nat) : Int :=
  let r := now % 1000000000
  if 2 * r < 1000000000 then (r : Int) else (r : Int) - 1000000000

/-- The edge now is the last accepted one (R503). -/
def acceptEdge (s : State) : State := { s with ft := { s.ft with lastSync := some (ftNow s) } }

/-- SYNC_IN_EDGE (R340); an edge within 0.5 s of the last accepted one is ignored (R503); not sampled in manufacturing-test
mode (R35). On a root with SYNC_EN = 0 an edge marks nothing. -/
def syncInEdge (s : State) : State :=
  let near := match s.ft.lastSync with | some t => decide (ftNow s < t + 500000000) | none => false
  let e := syncError (ftNow s)
  let root := getF s F.FT_CFG_ROOT 0 == 1
  if getF s F.DBG_STS_MFG_TEST 0 = 1 then s
  else if near then inc s F.FT_CNT_SYNC_IGN_CNT 0
  else if root ∧ getF s F.FT_CFG_SYNC_EN 0 = 0 then s
  else
    let s := setF s F.FT_OFFSET_SYNC_ERR 0 (ofInt 16 (satSigned 16 (Int.tdiv e 16)))
    if !root then acceptEdge s
    else if getF s F.FT_STS_LSTATE 0 = 0 then setF (acceptEdge (stepTime s (-e * ftUnit))) F.FT_STS_LSTATE 0 1
    else if e.natAbs ≤ 100000 then
      acceptEdge { s with ft := { s.ft with rate := if 0 < e then -128 else 128, slewTicks := 20000 * e.natAbs } }
    else inc s F.FT_CNT_SYNC_IGN_CNT 0

/-! ### Link commands (R323 to R325, R328) -/

/-- Enter TRAINING and send TRAIN. -/
def startTraining (s : State) (l : Nat) : State := sendTrain (setLinkState s l 1) l

/-- Links of photonic engine `pe` (R16, R328). -/
def linksOfPe (pe : Nat) : List Nat := (List.range 48).filter (fun l => l % 6 == pe)

/-- LASER_READY: the engine's links move from DOWN to TRAINING by themselves (R323), once no restart of the link processor
defers it (R439). -/
def laserReady (s : State) (pe : Nat) : State :=
  if restarting s 0 then s else (linksOfPe pe).foldl (fun s l => if linkState s l = 0 then startTraining s l else s) s

/-- A link enters FAILED; its page latches code LINK (R474). -/
def linkFail (s : State) (l : Nat) : State := latchErr (linkDown s l 4) (pageBase .lnk l) 4 0 0

/-- LASER_FAILURE: all eight links of the engine enter FAILED (R313). -/
def laserFailure (s : State) (pe : Nat) : State := (linksOfPe pe).foldl linkFail s

/-- LOSS_OF_SIGNAL on a wavelength for 1 µs: a link in UP retrains (R324). -/
def lossOfSignal (s : State) (l wave : Nat) : State :=
  let s := setF s F.LNK_STS_WAVE_LOS l (getF s F.LNK_STS_WAVE_LOS l ||| 2 ^ wave)
  if linkState s l = 2 then retrain s l else s

/-- RETRAIN_TIMEOUT: retried; the third consecutive failure enters FAILED (R324). -/
def retrainTimeout (s : State) (l : Nat) : State :=
  if linkState s l = 3 then
    let n := (linkOf s l).fails + 1
    let s := setLink s l { linkOf s l with fails := n }
    if 3 ≤ n then linkFail s l else retrain s l
  else s

def linkIgnored (s : State) (l : Nat) : State := setF s F.LNK_STS_IGNORED l 1

/-- LNK_CTL ENABLE, from DISABLED (Table 11.8). -/
def lnkEnable (s : State) (l : Nat) : State := if linkState s l = 5 then startTraining s l else linkIgnored s l

/-- LNK_CTL DISABLE, from any state. -/
def lnkDisable (s : State) (l : Nat) : State := linkDown s l 5

/-- LNK_CTL RESTART, from FAILED. -/
def lnkRestart (s : State) (l : Nat) : State := if linkState s l = 4 then startTraining s l else linkIgnored s l

/-- A write to ROLE takes effect only while the link is DISABLED (R328). -/
def roleWrite (s : State) (l : Nat) (role : Nat) : State :=
  if linkState s l = 5 then setF s F.LNK_CFG_ROLE l role else linkIgnored s l

/-- A write to RTE_MODID is ignored while any link is UP (R329). -/
def rteModidWrite (s : State) (id : Nat) : State :=
  if (List.range 48).any (fun l => linkState s l == 2) then s else setF s F.RTE_MODID_MOD_ID 0 id

/-! ### Routing tables (R329, R331) -/

/-- FLIP_GO: the flip is a fabric-time event on the IOD's wheel (R331). -/
def flipGo (s : State) : State :=
  if getF s F.RTE_STS_PENDING 0 = 1 then setF s F.RTE_STS_OVERRUN 0 1
  else
    match armSched s iodDie (getPair s F.RTE_FLIP_LO_FTIME_LO F.RTE_FLIP_HI_FTIME_HI 0) .flip with
    | some s => setF (setF s F.RTE_STS_PENDING 0 1) F.RTE_STS_RESULT 0 0
    | none => setF (timerFull s iodDie) F.RTE_STS_RESULT 0 1

/-- ROUTING_FLIP: the fired event toggles ACTIVE (R331). -/
def routingFlip (s : State) : State :=
  if hasFired s iodDie .flip then
    let s := takeFired s iodDie .flip
    setF (setF s F.RTE_CTL_ACTIVE 0 (1 - getF s F.RTE_CTL_ACTIVE 0)) F.RTE_STS_PENDING 0 0
  else s

/-- Entry of bank `b` for module `id`. -/
def rteEntry (s : State) (b id : Nat) : Word32 := sget rteReset s.rte (65536 * b + id)

/-- The link that the active bank names for a destination and lane: `none` is unreachable, which an entry that names a
causeway link also is (R327, R329). -/
def rteLink (s : State) (dst vl : Nat) : Option Nat :=
  let f := bitsOf (rteEntry s (getF s F.RTE_CTL_ACTIVE 0) dst).toNat (6 * vl + 5) (6 * vl)
  if f < 48 ∧ getF s F.LNK_CFG_ROLE f ≠ 1 then some f else none

/-- Hand a packet of this module to the routing stage. -/
def originate (s : State) (p : Packet) : State :=
  { s with routeQ := s.routeQ ++ [{ fromLink := none, flits := 0, pkt := p, whole := true, route := none }] }

end Sys2Proof.Machine
end

