-- ==== Sys2Proof/Machine/Float.lean ====
section
/-! DEFINITION. Machine/Float.lean: exact values, rounding, FP32 arithmetic (R87, R152, R153) and the element formats of
Tables 2.6 and 4.1 (R112 to R115, R511). -/

namespace Sys2Proof.Machine

/-! ### Exact values -/

/-- A value: NaN, an infinity, or (-1)^neg x m x 2^e exactly. -/
inductive FV where
  | nan
  | inf (neg : Bool)
  | fin (neg : Bool) (m : Nat) (e : Int)
  deriving DecidableEq, Repr

namespace FV

def zero : FV := .fin false 0 0
def one : FV := .fin false 1 0

def neg : FV → FV
  | .nan => .nan
  | .inf n => .inf (!n)
  | .fin n m e => .fin (!n) m e

def abs : FV → FV
  | .nan => .nan
  | .inf _ => .inf false
  | .fin _ m e => .fin false m e

def isNeg : FV → Bool
  | .nan => false
  | .inf n => n
  | .fin n _ _ => n

def isZero : FV → Bool
  | .fin _ 0 _ => true
  | _ => false

def isFin : FV → Bool
  | .fin _ _ _ => true
  | _ => false

/-- Significand of a finite value at exponent `q` not above its own. -/
def scaled (m : Nat) (e q : Int) : Nat := m * 2 ^ (e - q).toNat

/-- Exact product (IEEE 754-2019 for infinities). -/
def mul : FV → FV → FV
  | .nan, _ => .nan
  | _, .nan => .nan
  | .inf a, .inf b => .inf (a != b)
  | .inf a, .fin b m _ => if m = 0 then .nan else .inf (a != b)
  | .fin a m _, .inf b => if m = 0 then .nan else .inf (a != b)
  | .fin a m e, .fin b n f => .fin (a != b) (m * n) (e + f)

/-- Exact sum; an exact zero from non-zero or differing terms is +0. -/
def add : FV → FV → FV
  | .nan, _ => .nan
  | _, .nan => .nan
  | .inf a, .inf b => if a = b then .inf a else .nan
  | .inf a, .fin _ _ _ => .inf a
  | .fin _ _ _, .inf b => .inf b
  | .fin a m e, .fin b n f =>
    let q := min e f
    let x : Int := if a then -(scaled m e q : Int) else scaled m e q
    let y : Int := if b then -(scaled n f q : Int) else scaled n f q
    let z := x + y
    if z = 0 then .fin (a && b && m == 0 && n == 0) 0 0 else .fin (decide (z < 0)) z.natAbs q

def sub (a b : FV) : FV := add a (neg b)

/-- Quotient to 96 bits or more with a sticky bit below, which rounds as the exact quotient does. -/
def div : FV → FV → FV
  | .nan, _ => .nan
  | _, .nan => .nan
  | .inf _, .inf _ => .nan
  | .inf a, .fin b _ _ => .inf (a != b)
  | .fin a _ _, .inf b => .fin (a != b) 0 0
  | .fin a m e, .fin b n f =>
    if n = 0 then (if m = 0 then .nan else .inf (a != b))
    else
      let k := 97 + Nat.log2 n
      let q := m * 2 ^ k / n
      let st := if m * 2 ^ k % n = 0 then 0 else 1
      .fin (a != b) (2 * q + st) (e - f - k - 1)

/-- Compare magnitudes of finite values: |a| ≤ |b|. -/
def magLe : FV → FV → Bool
  | .fin _ m e, .fin _ n f => let q := min e f; decide (scaled m e q ≤ scaled n f q)
  | _, .inf _ => true
  | _, _ => false

/-- |a| < |b|. -/
def magLt (a b : FV) : Bool := magLe a b && !magLe b a

/-- Numeric comparison; false when either is NaN. -/
def lt : FV → FV → Bool
  | .nan, _ => false
  | _, .nan => false
  | .inf a, .inf b => a && !b
  | .inf a, .fin _ _ _ => a
  | .fin _ _ _, .inf b => !b
  | .fin a m e, .fin b n f =>
    let q := min e f
    let x : Int := if a then -(scaled m e q : Int) else scaled m e q
    let y : Int := if b then -(scaled n f q : Int) else scaled n f q
    decide (x < y)

/-- Numeric equality; -0 equals +0. -/
def eq (a b : FV) : Bool :=
  match a, b with
  | .nan, _ => false
  | _, .nan => false
  | .inf x, .inf y => x == y
  | .fin _ _ _, .fin _ _ _ => !lt a b && !lt b a
  | _, _ => false

end FV

/-! ### Rounding -/

/-- Rounding of elements (R126): nearest even, toward zero, stochastic with the 16 bits drawn, of a positive and of a
negative value (R127). -/
inductive Rnd where
  | nearest
  | zero
  | stoch (u : Nat)
  | stochNeg (u : Nat)
  deriving DecidableEq, Repr

/-- The rounding of the magnitude of a value with sign `n`. -/
def Rnd.signed : Rnd → Bool → Rnd
  | .stoch u, true => .stochNeg u
  | r, _ => r

/-- m x 2^e rounded to a multiple of 2^q. -/
def roundAt (r : Rnd) (m : Nat) (e q : Int) : Nat :=
  if q ≤ e then m * 2 ^ (e - q).toNat
  else
    let sh := (q - e).toNat
    let n := m / 2 ^ sh
    let rem := m % 2 ^ sh
    let up := match r with
      | .nearest => decide (2 ^ sh < 2 * rem) || (decide (2 * rem = 2 ^ sh) && n % 2 == 1)
      | .zero => false
      | .stoch u => decide (u < rem * 65536 / 2 ^ sh)
      | .stochNeg u => decide ((2 ^ sh - rem) * 65536 / 2 ^ sh ≤ u)
    if up then n + 1 else n

/-- Magnitude code of m x 2^e in a format of `mb` fraction bits and bias `bias`, exponents unbounded above. -/
def roundMag (r : Rnd) (mb : Nat) (bias : Int) (m : Nat) (e : Int) : Nat :=
  if m = 0 then 0
  else
    let q := max (Nat.log2 m + e) (1 - bias) - mb
    (q - (1 - bias - mb)).toNat * 2 ^ mb + roundAt r m e q

/-- Integer square root by bits. -/
def isqrtGo (n : Nat) : Nat → Nat → Nat
  | 0, r => r
  | i + 1, r => let c := r + 2 ^ i; isqrtGo n i (if c * c ≤ n then c else r)

def isqrt (n : Nat) : Nat := isqrtGo n (Nat.log2 n / 2 + 1) 0

/-- Square root of n x 2^e, e even or odd, with a sticky bit. -/
def sqrtDyad (n : Nat) (e : Int) : Nat × Int :=
  let (n, e) := if e % 2 = 0 then (n, e) else (2 * n, e - 1)
  let r := n * 2 ^ 160
  let q := isqrt r
  (2 * q + (if q * q = r then 0 else 1), e / 2 - 81)

/-! ### FP32 -/

def f32Inf : Nat := 0x7F800000
def f32NaN : Word32 := 0x7FC00000

/-- Decode an IEEE-like code of `eb` exponent bits and `mb` fraction bits. -/
def ieeeDec (eb mb bias : Nat) (w : Nat) : FV :=
  let neg := bitAt w (eb + mb)
  let e := bitsOf w (eb + mb - 1) mb
  let m := w % 2 ^ mb
  if e = 2 ^ eb - 1 then (if m = 0 then .inf neg else .nan)
  else if e = 0 then .fin neg m (1 - bias - mb)
  else .fin neg (2 ^ mb + m) ((e : Int) - bias - mb)

def f32 (w : Word32) : FV := ieeeDec 8 23 127 w.toNat

def isNaN32 (w : Word32) : Bool := decide (f32Inf < w.toNat % 2 ^ 31)
def isInf32 (w : Word32) : Bool := w.toNat % 2 ^ 31 == f32Inf
def isFin32 (w : Word32) : Bool := decide (w.toNat % 2 ^ 31 < f32Inf)
def quiet32 (w : Word32) : Word32 := w ||| 0x00400000

/-- A value rounded once to FP32 under `r`; NaN is the default NaN. -/
def enc32R (r : Rnd) : FV → Word32
  | .nan => f32NaN
  | .inf n => BitVec.ofNat 32 (f32Inf + if n then 2 ^ 31 else 0)
  | .fin n m e => BitVec.ofNat 32 (min (roundMag r 23 127 m e) f32Inf + if n then 2 ^ 31 else 0)

/-- A value rounded once to FP32, to nearest even. -/
def enc32 (v : FV) : Word32 := enc32R .nearest v

/-- The first NaN among the operands, quietened (R153). -/
def nanOf (ops : List Word32) : Option Word32 := (ops.find? isNaN32).map quiet32

/-- A result from its operands: their first NaN, or the value rounded. -/
def f32Op (ops : List Word32) (v : FV) : Word32 := (nanOf ops).getD (enc32 v)

def fadd (a b : Word32) : Word32 := f32Op [a, b] (FV.add (f32 a) (f32 b))
def fsub (a b : Word32) : Word32 := f32Op [a, b] (FV.sub (f32 a) (f32 b))
def fmul (a b : Word32) : Word32 := f32Op [a, b] (FV.mul (f32 a) (f32 b))
/-- One rounding for product and sum (R152). -/
def ffma (a b c : Word32) : Word32 := f32Op [a, b, c] (FV.add (FV.mul (f32 a) (f32 b)) (f32 c))

/-- a orders below b in IEEE 754-2019 maximum and minimum: -0 below +0. -/
def below (a b : Word32) : Bool :=
  FV.lt (f32 a) (f32 b) || (FV.eq (f32 a) (f32 b) && bitAt a.toNat 31 && !bitAt b.toNat 31)

def fmax (a b : Word32) : Word32 := (nanOf [a, b]).getD (if below a b then b else a)
def fmin (a b : Word32) : Word32 := (nanOf [a, b]).getD (if below a b then a else b)
def fabs (a : Word32) : Word32 := a &&& 0x7FFFFFFF
def fneg (a : Word32) : Word32 := a ^^^ 0x80000000

/-- Correctly rounded square root (R155, R183). -/
def fsqrt (a : Word32) : Word32 :=
  match f32 a with
  | .nan => quiet32 a
  | .inf false => a
  | .inf true => f32NaN
  | .fin n m e =>
    if m = 0 then a
    else if n then f32NaN
    else let (q, f) := sqrtDyad m e; enc32 (.fin false q f)

/-- Exact FP32 of a small natural. -/
def f32OfNat (n : Nat) : Word32 := enc32 (.fin false n 0)

/-! ### Element formats (Tables 2.6, 4.1) -/

/-- Element width in bits. -/
def fmtW : Nat → Nat
  | 0 => 32 | 1 => 16 | 2 => 16 | 3 => 8 | 4 => 8 | 5 => 6 | 6 => 6 | 7 => 4 | 8 => 4 | 9 => 2 | 0xA => 40 | 0xB => 32
  | _ => 0

/-- A NaN of `mb` fraction bits as FP32 (R511). -/
def nanTo32 (neg : Bool) (mb frac : Nat) : Word32 :=
  quiet32 (BitVec.ofNat 32 (f32Inf + (if mb ≤ 23 then frac * 2 ^ (23 - mb) else frac / 2 ^ (mb - 23)) +
    if neg then 2 ^ 31 else 0))

/-- Fraction of an FP32 NaN carried to `mb` bits, quiet bit set (R511). -/
def nanFrac (w : Word32) (mb : Nat) : Nat :=
  let f := w.toNat % 2 ^ 23
  let g := if mb ≤ 23 then f / 2 ^ (23 - mb) else f * 2 ^ (mb - 23)
  g ||| 2 ^ (mb - 1)

/-- Decoded value of element code `c` of format `fmt` (R112 to R114). -/
def elemFV (fmt c : Nat) : FV :=
  match fmt with
  | 0 => ieeeDec 8 23 127 c
  | 1 => ieeeDec 8 7 127 c
  | 2 => ieeeDec 5 10 15 c
  | 3 => if c % 128 = 127 then .nan else
      let e := bitsOf c 6 3; let m := c % 8; let n := bitAt c 7
      if e = 0 then .fin n m (-9) else .fin n (8 + m) ((e : Int) - 10)
  | 4 => ieeeDec 5 2 15 c
  | 5 => let e := bitsOf c 4 2; let m := c % 4; let n := bitAt c 5
         if e = 0 then .fin n m (-4) else .fin n (4 + m) ((e : Int) - 5)
  | 6 => let e := bitsOf c 4 3; let m := c % 8; let n := bitAt c 5
         if e = 0 then .fin n m (-3) else .fin n (8 + m) ((e : Int) - 4)
  | 7 => let e := bitsOf c 2 1; let m := c % 2; let n := bitAt c 3
         if e = 0 then .fin n m (-1) else .fin n (2 + m) ((e : Int) - 2)
  | 8 => let v := signedOf 4 c; .fin (decide (v < 0)) v.natAbs 0
  | 9 => match c % 4 with
    | 1 => .fin false 1 0
    | 3 => .fin true 1 0
    | _ => FV.zero
  | 0xA => ieeeDec 8 31 127 c
  | _ => let v := signedOf 32 c; .fin (decide (v < 0)) v.natAbs 0

/-- FP32 pattern of a NaN element code of a format that has NaNs (R511). -/
def elemNaN (fmt c : Nat) : Word32 :=
  match fmt with
  | 1 => nanTo32 (bitAt c 15) 7 (c % 128)
  | 2 => nanTo32 (bitAt c 15) 10 (c % 1024)
  | 3 => nanTo32 (bitAt c 7) 3 (c % 8)
  | 4 => nanTo32 (bitAt c 7) 2 (c % 4)
  | 0xA => nanTo32 (bitAt c 39) 31 (c % 2 ^ 31)
  | _ => quiet32 (BitVec.ofNat 32 c)

/-- Maximum magnitude of a block-scaled format (R122). -/
def fmtMax : Nat → FV
  | 3 => .fin false 448 0
  | 4 => .fin false 57344 0
  | 5 => .fin false 28 0
  | 6 => .fin false 15 (-1)
  | 7 => .fin false 6 0
  | 8 => .fin false 7 0
  | 9 => .fin false 1 0
  | 2 => .fin false 65504 0
  | 1 => .fin false 255 120
  | _ => .fin false 16777215 104

/-- Scale mode that a format fixes (R117, Table 4.6). -/
def fmtSmode (fmt : Nat) : Nat :=
  if fmt = 3 ∨ fmt = 4 ∨ fmt = 5 ∨ fmt = 6 then 1 else if fmt = 7 ∨ fmt = 8 ∨ fmt = 9 then 2 else 0

/-- Block size; 0 where there are no block scales (R227). -/
def fmtBlock (fmt : Nat) : Nat := match fmtSmode fmt with | 1 => 32 | 2 => 16 | _ => 0

/-- The format carries a scale header (R117). -/
def fmtScaled (fmt : Nat) : Bool := decide (1 ≤ fmt ∧ fmt ≤ 9)

/-- Value of a block-scale byte (Table 4.2); NaN for its NaN codes. -/
def scaleFV (smode c : Nat) : FV :=
  match smode with
  | 0 => FV.one
  | 1 => if c = 255 then .nan else .fin false 1 ((c : Int) - 127)
  | _ => if c ≥ 127 then .nan else elemFV 3 c

/-- Code of block scale 1.0. -/
def scaleOne (smode : Nat) : Nat := if smode = 1 then 127 else 0x38

end Sys2Proof.Machine
end

