-- ==== Sys2Proof/Machine/Memory.lean ====
section
/-! DEFINITION. Machine/Memory.lean: device memory behind its home MDs (R197 to R212): the address map, the memory-side
cache, reads and writes with the granule code and poison, the counters and the error log of the MD page. -/

namespace Sys2Proof.Machine

/-- First DPA beyond device memory (R197). -/
def dpaLimit : Nat := 0x005400000000

/-! ### The address map (R198, R199) -/

def dpaChannel (dpa : Nat) : Nat := (dpa / 1024) % 48
/-- Home MD of a DPA. -/
def dpaMd (dpa : Nat) : Nat := dpaChannel dpa % 8
def dpaPair (dpa : Nat) : Nat := dpaChannel dpa / 8
/-- Channel-local line. -/
def dpaLam (dpa : Nat) : Nat := (dpa / 1024 / 48) * 16 + (dpa / 64) % 16
def dpaBlk (dpa : Nat) : Nat := dpaLam dpa / 7
def dpaSlot (dpa : Nat) : Nat := dpaLam dpa % 7
/-- Byte offset within the pair. -/
def dpaDevoff (dpa : Nat) : Nat := dpaBlk dpa * 512 + dpaSlot dpa * 64 + dpa % 64

/-- The DPA of data line `slot` of block `blk` of pair `pair` of MD `m`: the inverse of the map. -/
def dpaOfBlock (m pair blk slot : Nat) : Nat :=
  let lam := blk * 7 + slot
  ((lam / 16) * 48 + 8 * pair + m) * 1024 + (lam % 16) * 64

/-! ### Granule decoding of a line -/

/-- One granule's decoding, as a list of bytes corrected. -/
def fixBytes (data : List Byte) (g : Nat) : Decoded → List Byte
  | .fix i e =>
    if i < 32 then
      let at_ := 16 * g + i / 2
      data.modify at_ (fun b => b ^^^ ((e.setWidth 8) <<< (4 * (i % 2))))
    else data
  | _ => data

/-- What a decoding of granules finds: the data corrected, each (granule, symbol) corrected, each bad granule. -/
structure LineScan where
  data : List Byte
  fixes : List (Nat × Nat)
  bads : List Nat
  deriving DecidableEq, Repr

/-- Decode the granules `gs` of a line from their check differences. -/
def scanLine (data : List Byte) (diff : Nat → Word16) (gs : List Nat) : LineScan :=
  gs.foldl (fun a g =>
    match decodeDiff (diff g) with
    | .clean => a
    | .fix i e => { a with data := fixBytes a.data g (.fix i e), fixes := a.fixes ++ [(g, i)] }
    | .bad => { a with bads := a.bads ++ [g] }) ⟨data, [], []⟩

/-- The granules of a line. -/
def allGranules : List Nat := [0, 1, 2, 3]

/-- Majority of the three copies of a poison flag (R200). -/
def voteFlag (v : BitVec 3) : Bool := popcount 3 v.toNat ≥ 2

/-- The three copies disagree. -/
def flagSplit (v : BitVec 3) : Bool := v ≠ 0 && v ≠ 7

/-! ### Raw stores -/

/-- The 64 stored bytes of line `l` in DRAM. -/
def dramLine (s : State) (l : Nat) : List Byte := (List.range 64).map (fun i => sget 0 s.dram (64 * l + i))

/-- Store bytes from address `a` in DRAM. -/
def dramPut (s : State) (a : Nat) (bs : List Byte) : State :=
  { s with dram := ssetAll 0 s.dram (bs.mapIdx (fun i b => (a + i, b))) }

/-- Set the check differences of granules of line `l` to 0: fresh check words. -/
def dramFresh (s : State) (l : Nat) (gs : List Nat) : State :=
  { s with dramChk := ssetAll 0 s.dramChk (gs.map (fun g => (4 * l + g, 0))) }

/-- Write all three copies of the poison flag of line `l` (R200). -/
def dramFlag (s : State) (l : Nat) (f : Bool) : State :=
  { s with dramPoison := sset 0 s.dramPoison l (if f then 7 else 0) }

def cacheGet (s : State) (l : Nat) : Option CLine := sget none s.cache l

def cachePut (s : State) (l : Nat) (c : Option CLine) : State := { s with cache := sset none s.cache l c }

def mdOf (s : State) (m : Nat) : MdSt := sget MdSt.reset s.mds m

def setMd (s : State) (m : Nat) (x : MdSt) : State := { s with mds := sset MdSt.reset s.mds m x }

/-! ### Before FILL_DONE (R217) -/

/-- MD `m` reports FILL_DONE. -/
def mdFilled (s : State) (m : Nat) : Bool := getF s F.MD_STS_FILL_DONE m == 1

/-- Line `l` as the accesses held before FILL_DONE will find and leave it: zeros and a clear flag, with the held writes in
their order of arrival. -/
def heldLine (s : State) (l : Nat) : List Byte × Bool :=
  (mdOf s (dpaMd (64 * l))).held.foldl (fun x r =>
    match r with
    | .wr k off bs p _ =>
      if k = l then (splice x.1 off bs, if off = 0 ∧ bs.length = 64 then p else x.2 || p) else x
    | .rd _ _ => x) (List.replicate 64 0, false)

/-- An access joins the ones that wait at its MD. -/
def holdReq (s : State) (l : Nat) (r : MemReq) : State :=
  let m := dpaMd (64 * l)
  setMd s m { mdOf s m with held := (mdOf s m).held ++ [r] }

/-! ### What a read finds, with no effect -/

/-- The corrected 64 bytes of line `l` of memory, whatever the cache holds. -/
def storedLine (s : State) (l : Nat) : List Byte :=
  (scanLine (dramLine s l) (fun g => sget 0 s.dramChk (4 * l + g)) allGranules).data

/-- The 64 bytes of line `l` as a read delivers them now. -/
def peekLine (s : State) (l : Nat) : List Byte :=
  if mdFilled s (dpaMd (64 * l)) then
    match cacheGet s l with
    | some c => (scanLine c.data (fun g => (c.chk >>> (16 * g)).setWidth 16) allGranules).data
    | none => storedLine s l
  else (heldLine s l).1

/-- The poison flag of the copy that a read of the line is served from. -/
def peekPoison (s : State) (l : Nat) : Bool :=
  if mdFilled s (dpaMd (64 * l)) then
    match cacheGet s l with
    | some c => c.poison
    | none => voteFlag (sget 0 s.dramPoison l)
  else (heldLine s l).2

/-! ### Counters and log of the MD page (R205, Tables 7.9 to 7.13) -/

/-- Latch an error when VALID is 0; otherwise mark LOST. -/
def eccLog (s : State) (m typ src pair sym gran dpa : Nat) : State :=
  if getF s F.MD_ECC_LOG0_VALID m = 1 then setF s F.MD_ECC_LOG0_LOST m 1
  else
    let s := setF s F.MD_ECC_LOG0_VALID m 1
    let s := setF s F.MD_ECC_LOG0_TYPE m typ
    let s := setF s F.MD_ECC_LOG0_SRC m src
    let s := setF s F.MD_ECC_LOG0_PAIR m pair
    let s := setF s F.MD_ECC_LOG0_SYMBOL m sym
    let s := setF s F.MD_ECC_LOG0_GRANULE m gran
    let s := setF s F.MD_ECC_LOG1_DPA_LO m ((dpa / 64) % 2 ^ 26)
    let s := setF s F.MD_ECC_LOG2_DPA_HI m (dpa / 2 ^ 32)
    setF s F.MD_ECC_LOG3_FTIME_LO m (ftNow s)

/-- A correctable error of line `l`: counted and logged. -/
def countCE (s : State) (l src sym gran : Nat) : State :=
  let m := dpaMd (64 * l)
  eccLog (inc s F.MD_ECC_CNT0_CE_CNT m) m 0 src (dpaPair (64 * l)) sym gran (64 * l)

/-- A newly found uncorrectable granule of line `l`. -/
def countUE (s : State) (l src gran : Nat) : State :=
  let m := dpaMd (64 * l)
  eccLog (inc s F.MD_ECC_CNT0_UE_CNT m) m 1 src (dpaPair (64 * l)) 63 gran (64 * l)

/-- Count what a scan found: every correction, and, where the line was not marked already, every bad granule. -/
def countScan (s : State) (l src : Nat) (r : LineScan) (marked : Bool) : State :=
  let s := r.fixes.foldl (fun s x => countCE s l src x.2 x.1) s
  if marked then s else r.bads.foldl (fun s g => countUE s l src g) s

/-- The data lines of the block of line `l`, whose flags one metadata line holds (R199). -/
def blockLines (l : Nat) : List Nat :=
  (List.range 7).map (fun slot => dpaOfBlock (dpaMd (64 * l)) (dpaPair (64 * l)) (dpaBlk (64 * l)) slot / 64)

/-- The metadata line of line `l` is written: copies of a flag that disagree are corrected, and each data line whose copies
did counts once (R200). -/
def metaWrite (s : State) (l src : Nat) : State :=
  (blockLines l).foldl (fun s k =>
    if flagSplit (sget 0 s.dramPoison k) then
      countCE (dramFlag s k (voteFlag (sget 0 s.dramPoison k))) k src 36 0
    else s) s

/-- A write of line `l` to memory begins: its metadata line is written with it, and the MD keeps which write this is, should the
devices report its CRC as failed (R208). -/
def beginWrite (s : State) (l src : Nat) : State :=
  let m := dpaMd (64 * l)
  let s := metaWrite s l src
  setMd s m { mdOf s m with wrote := some (l, src) }

/-- The check difference of granule `g` of line `l` in DRAM. -/
def dramDiff (s : State) (l : Nat) : Nat → Word16 := fun g => sget 0 s.dramChk (4 * l + g)

/-- The check difference of granule `g` of a cached line. -/
def cacheDiff (c : CLine) : Nat → Word16 := fun g => (c.chk >>> (16 * g)).setWidth 16

/-- A granule of the line as a number of 128 bits. -/
def granuleBits (data : List Byte) (g : Nat) : BitVec 128 := BitVec.ofNat 128 (leNat ((data.drop (16 * g)).take 16))

/-- The metadata line of block `blk` of pair `pair` of MD `m` (R199, Table 7.2): the check words of its 28 granules, the three
copies of its flags, five bytes of zeros. The model keeps a check word as its difference from the one that R203 forms. -/
def metaLine (s : State) (m pair blk : Nat) : List Byte :=
  let line (slot : Nat) : Nat := dpaOfBlock m pair blk slot / 64
  let word (i : Nat) : Word16 :=
    encodeChk (granuleBits (dramLine s (line (i / 4))) (i % 4)) ^^^ sget 0 s.dramChk (4 * line (i / 4) + i % 4)
  let copy (k : Nat) : Nat :=
    ((List.range 7).map (fun slot => if (sget 0 s.dramPoison (line slot)).getLsbD k then 2 ^ slot else 0)).foldl (· + ·) 0
  (List.range 28).flatMap (fun i => leBytes 2 (word i).toNat) ++ (List.range 3).map (fun k => BitVec.ofNat 8 (copy k)) ++
    List.replicate 5 0

/-! ### The memory-side cache (R211, R212) -/

/-- The set of its MD's cache that a line maps to. -/
def setOf (l : Nat) : Nat := Config.cacheSet l % 65536

/-- Write a dirty line back to memory: its granules are decoded on the way, with `src` in the log; those of a line marked
already count only where `all` says so (R213). The flag goes with the line, and every granule gets a fresh check word: the
flag, not the code, marks what could not be corrected (DESIGN CHOICE, notes/assumptions/38.md). -/
def writeBack (s : State) (l : Nat) (c : CLine) (src : Nat) (all : Bool) : State :=
  let r := scanLine c.data (cacheDiff c) allGranules
  let s := beginWrite (countScan s l src r (c.poison && !all)) l src
  let s := dramPut s (64 * l) r.data
  let s := dramFresh s l allGranules
  dramFlag s l (c.poison || !r.bads.isEmpty)

/-- Line `l` is in the cache no more. -/
def cacheDrop (s : State) (l : Nat) : State :=
  let m := dpaMd (64 * l)
  setMd (cachePut s l none) m { mdOf s m with recent := (mdOf s m).recent.erase l }

/-- A line leaves the cache: a dirty one is written back (R211). -/
def evictLine (s : State) (l : Nat) : State :=
  match cacheGet s l with
  | some c => cacheDrop (if c.dirty then writeBack s l c 3 false else s) l
  | none => s

/-- The line was allocated as STREAM. -/
def isStream (s : State) (l : Nat) : Bool :=
  match cacheGet s l with
  | some c => c.stream
  | none => false

/-- The lines that leave a set so that line `l` can enter it: for a STREAM line, the least recently used STREAM lines beyond
STREAM_WAYS - 1; then the least recently used lines beyond fifteen. An MD with fewer cached lines than either bound has no
such set. -/
def victims (s : State) (l : Nat) (cls : Alloc) : List Nat :=
  let m := dpaMd (64 * l)
  let recent := (mdOf s m).recent
  let ways := getF s F.MD_CACHE_CFG_STREAM_WAYS m
  if recent.length < 16 ∧ (cls = .stream → recent.length < ways) then []
  else
    let inSet := recent.filter (fun k => setOf k == setOf l)
    let streams := if cls = .stream then inSet.filter (isStream s) else []
    let out := streams.reverse.take (streams.length + 1 - ways)
    let rest := inSet.filter (fun k => !out.contains k)
    out ++ rest.reverse.take (rest.length + 1 - 16)

/-- Line `l` enters the cache as `c` (R212): at the least recently used position for STREAM, else at the most recently used
one. -/
def allocate (s : State) (l : Nat) (c : CLine) (cls : Alloc) : State :=
  let m := dpaMd (64 * l)
  let s := (victims s l cls).foldl evictLine s
  let x := mdOf s m
  let others := x.recent.erase l
  setMd (cachePut s l (some c)) m { x with recent := if cls = .stream then others ++ [l] else l :: others }

/-- A hit: NORMAL makes the line most recently used, and it is no STREAM line any more; STREAM and NOALLOC leave its position
(DESIGN CHOICE, notes/assumptions/38.md). -/
def hitLine (s : State) (l : Nat) (c : CLine) (cls : Alloc) : State :=
  let m := dpaMd (64 * l)
  if cls = .normal then
    setMd (cachePut s l (some { c with stream := false })) m { mdOf s m with recent := l :: (mdOf s m).recent.erase l }
  else s

/-! ### The host link's part in an access (R401, R402) -/

/-- The host link is up. -/
def hostUp (s : State) : Bool := s.pwr.perstN && getF s F.HOST_STS_WIDTH 0 != 3

/-- The link runs in CXL mode. -/
def cxlMode (s : State) : Bool := getF s F.HOST_STS_MODE 0 == 1

/-- Base DPA of the window. -/
def winBase (s : State) : Nat := getF s F.HOST_WIN_HI_BASE 0 * 2 ^ 28

/-- Bytes of the window. -/
def winBytes (s : State) : Nat := getF s F.HOST_WIN_HI_SIZE 0 * 2 ^ 28

/-- The window page of a DPA. -/
def biasPage (s : State) (a : Nat) : Option Nat :=
  if winBase s ≤ a ∧ a < winBase s + winBytes s then some ((a - winBase s) / 65536) else none

/-- The line is one that a module access asks the host for first: in a page of the window in host bias, over a link in CXL mode
(R402). -/
def asksHost (s : State) (l : Nat) : Bool :=
  match biasPage s (64 * l) with
  | some g => !sget false s.host.devBias g
  | none => false

/-- The CXL.cache requests that go out before a module access to lines `ls`: 0 takes a line shared, for a read, 1 with ownership,
for a write. The host's answer comes within the step (DESIGN CHOICE, notes/assumptions/35.md). -/
def snoopsFor (s : State) (ls : List Nat) (kind : Nat) : List OutMsg :=
  if cxlMode s && hostUp s then (ls.filter (asksHost s)).map (fun l => .snoop (64 * l) kind) else []

/-- Issue them. -/
def askFirst (s : State) (ls : List Nat) (kind : Nat) : State := { s with outbox := s.outbox ++ snoopsFor s ls kind }

/-! ### Reads (R205, R206, R211, R212) -/

/-- Read line `l` from DRAM: data as delivered, poison mark, counters, and the flag set on a new uncorrectable
granule. -/
def dramRead (s : State) (l src : Nat) : List Byte × Bool × State :=
  let r := scanLine (dramLine s l) (dramDiff s l) allGranules
  let marked := voteFlag (sget 0 s.dramPoison l)
  let s := countScan s l src r marked
  let s := if marked then inc s F.MD_ECC_CNT1_POISON_RD_CNT (dpaMd (64 * l)) else s
  let fresh := !marked && !r.bads.isEmpty
  let s := if fresh then dramFlag (metaWrite s l src) l true else s
  (r.data, marked || fresh, s)

/-- Serve a read of line `l` with allocation class `cls`. A new uncorrectable granule of a clean cached copy sets the line's
flag, in memory and in the copy. Requests count in HIT_CNT and MISS_CNT line by line (DESIGN CHOICE,
notes/assumptions/38.md). -/
def lineServe (s : State) (l : Nat) (cls : Alloc) : List Byte × Bool × State :=
  let m := dpaMd (64 * l)
  match cacheGet s l with
  | some c =>
    let r := scanLine c.data (cacheDiff c) allGranules
    let s := inc s F.MD_CACHE_HIT_HIT_CNT m
    let s := countScan s l 0 r c.poison
    let s := if c.poison then inc s F.MD_ECC_CNT1_POISON_RD_CNT m else s
    let fresh := !c.poison && !r.bads.isEmpty
    let mark := fresh && !c.dirty
    let c' := if mark then { c with poison := true } else c
    let s := if mark then cachePut (dramFlag (metaWrite s l 0) l true) l (some c') else s
    (r.data, c.poison || fresh, hitLine s l c' cls)
  | none =>
    let s := inc s F.MD_CACHE_MISS_MISS_CNT m
    let (data, poison, s) := dramRead s l 0
    let s := if cls = .noalloc then s else allocate s l ⟨data, 0, false, poison, cls = .stream⟩ cls
    (data, poison, s)

/-- Read line `l`. Before FILL_DONE of its MD the read waits there, and what it will return is known: the filled contents and
the writes that wait ahead of it (R217; DESIGN CHOICE, notes/assumptions/39.md). -/
def lineRead (s : State) (l : Nat) (cls : Alloc) : List Byte × Bool × State :=
  if mdFilled s (dpaMd (64 * l)) then lineServe s l cls
  else ((heldLine s l).1, (heldLine s l).2, holdReq s l (.rd l cls))

/-- Lines that bytes `a` to `a + n - 1` touch. -/
def linesOf (a n : Nat) : List Nat :=
  if n = 0 then [] else (List.range ((a + n - 1) / 64 - a / 64 + 1)).map (fun i => a / 64 + i)

/-- MDs of those lines that have not yet reported FILL_DONE. -/
def unfilledMds (s : State) (a n : Nat) : List Nat :=
  (((linesOf a n).map (fun l => dpaMd (64 * l))).eraseDups).filter (fun m => !mdFilled s m)

/-- Read lines one after another: bytes, whether any is marked poisoned, the state. -/
def linesRead (s : State) (ls : List Nat) (cls : Alloc) : List Byte × Bool × State :=
  ls.foldl (fun (x : List Byte × Bool × State) l =>
    let (d, p, s) := lineRead x.2.2 l cls
    (x.1 ++ d, x.2.1 || p, s)) ([], false, s)

/-- Read `n` bytes at DPA `a` for a unit of the module: the bytes, whether any line is marked poisoned, the state. A request beyond
device memory is answered by MD0 with zeros marked poisoned (R197). -/
def memRead (s : State) (a n : Nat) (cls : Alloc) : List Byte × Bool × State :=
  if a + n > dpaLimit then (List.replicate n 0, true, inc s F.MD_ECC_CNT3_RANGE_CNT 0)
  else
    let (bs, p, s) := linesRead (askFirst s (linesOf a n) 0) (linesOf a n) cls
    ((bs.drop (a % 64)).take n, p, s)

/-! ### Twin bits (R373, R375) -/

/-- The window page that DPA `a` lies in, if any, as its 64 KiB page number. -/
def windowPage (s : State) (a : Nat) : Option Nat :=
  if s.twin.windows.any (fun w => decide (w.1 ≤ a / 65536 ∧ a / 65536 < w.1 + w.2)) then some (a / 65536) else none

/-- The lines of 64 KiB page `pg`. -/
def pageLines (pg : Nat) : List Nat := (List.range 1024).map (fun i => 1024 * pg + i)

/-- Bytes read, without their poison mark. -/
def unmarked (x : List Byte × Bool × State) : List Byte × State := (x.1, x.2.2)

/-- The mirror engine reads the 64 KiB of page `pg`, through the home MDs as any unit does (R211). The packets that carry the
page have no place for a poison mark, so it is dropped (DESIGN CHOICE, notes/assumptions/38.md). -/
def pageRead (s : State) (pg : Nat) : List Byte × State :=
  unmarked (linesRead (askFirst s (pageLines pg) 0) (pageLines pg) .normal)

/-- Page `pg` of pass `p` has been read: `x` holds its bytes and the state. -/
def passHolds (p : PassSt) (pg : Nat) (x : List Byte × State) : State :=
  { x.2 with twin := { x.2.twin with
      w := sset 0 x.2.twin.w pg (sget 0 x.2.twin.w pg &&& ~~~(1#2 <<< p.bank)),
      pass := some { p with pend := p.pend.erase pg, readPages := p.readPages ++ [(pg, x.1)] } } }

/-- The engine reads pending page `pg` of pass `p` and clears its bit of the pass's bank. -/
def passRead (s : State) (p : PassSt) (pg : Nat) : State := passHolds p pg (pageRead s pg)

/-- Before a write to DPA `a`: a pending page is read by the engine ahead of every other page, which HOLD_CNT counts
(R375); then the write sets both bits of its window page (R373). -/
def twinWrite (s : State) (a : Nat) : State :=
  match windowPage s a with
  | none => s
  | some pg =>
    let s := match s.twin.pass with
      | some p => if p.pend.contains pg then passRead (inc s F.TWN_CNT1_HOLD_CNT 0) p pg else s
      | none => s
    { s with twin := { s.twin with w := sset 0 s.twin.w pg 3 } }

/-! ### Writes (R207, R209, R212) -/

/-- A write reached line `l`: the scrubber's write-back of it will be discarded (R215). -/
def scrubTouch (s : State) (l : Nat) : State :=
  let m := dpaMd (64 * l)
  let x := mdOf s m
  if x.scrub.any (fun f => f.line == l) then
    setMd s m { x with scrub := x.scrub.map (fun f => if f.line = l then { f with overwritten := true } else f) }
  else s

/-- Granules of a line that bytes `off` to `off + n - 1` cover in part. -/
def partialGranules (off n : Nat) : List Nat :=
  allGranules.filter (fun g =>
    decide (16 * g < off + n ∧ off < 16 * g + 16 ∧ ¬(off ≤ 16 * g ∧ 16 * g + 16 ≤ off + n)))

/-- Granules of a line that bytes `off` to `off + n - 1` touch. -/
def touchedGranules (off n : Nat) : List Nat :=
  allGranules.filter (fun g => decide (16 * g < off + n ∧ off < 16 * g + 16))

/-- The check differences of a cached line with those of `gs` cleared. -/
def clearDiffs (chk : BitVec 64) (gs : List Nat) : BitVec 64 :=
  gs.foldl (fun c g => c &&& ~~~((0xFFFF#64) <<< (16 * g))) chk

/-- Merge `bs` at `off` into cached line `c`: its partly covered granules are read and corrected (R209). -/
def cacheMerge (s : State) (l : Nat) (c : CLine) (off : Nat) (bs : List Byte) (poison : Bool) : State :=
  let whole := decide (off = 0 ∧ bs.length = 64)
  let r := scanLine c.data (cacheDiff c) (partialGranules off bs.length)
  let s := countScan s l 0 r c.poison
  let flag := if whole then poison else c.poison || poison || !r.bads.isEmpty
  cachePut s l (some { c with
    data := splice r.data off bs, chk := clearDiffs c.chk (touchedGranules off bs.length), dirty := true,
    poison := flag })

/-- Write `bs` at `off` of line `l` in DRAM: a part of a line is merged into the line, which is read first (R209, R212). -/
def dramMerge (s : State) (l off : Nat) (bs : List Byte) (poison : Bool) : State :=
  let whole := decide (off = 0 ∧ bs.length = 64)
  let kept := (scanLine (dramLine s l) (dramDiff s l) (partialGranules off bs.length)).data
  let rd := if whole then (bs, false, s) else dramRead s l 0
  let s := beginWrite rd.2.2 l 0
  let s := dramPut s (64 * l) (splice kept off bs)
  let s := dramFresh s l (touchedGranules off bs.length)
  dramFlag s l (poison || rd.2.1)

/-- Perform a write of `bs` at offset `off` of line `l`. -/
def linePerform (s : State) (l off : Nat) (bs : List Byte) (poison : Bool) (cls : Alloc) : State :=
  let m := dpaMd (64 * l)
  let s := scrubTouch (twinWrite s (64 * l)) l
  match cacheGet s l with
  | some c =>
    let s := cacheMerge (inc s F.MD_CACHE_HIT_HIT_CNT m) l c off bs poison
    match cacheGet s l with
    | some c => hitLine s l c cls
    | none => s
  | none =>
    let s := inc s F.MD_CACHE_MISS_MISS_CNT m
    if cls = .noalloc then dramMerge s l off bs poison
    else if off = 0 ∧ bs.length = 64 then allocate s l ⟨bs, 0, true, poison, cls = .stream⟩ cls
    else
      let (data, p, s) := dramRead s l 0
      cacheMerge (allocate s l ⟨data, 0, false, p, cls = .stream⟩ cls) l ⟨data, 0, false, p, cls = .stream⟩ off bs poison

/-- Write `bs` at offset `off` of line `l`; before FILL_DONE of its MD the write waits there (R217). -/
def lineWrite (s : State) (l off : Nat) (bs : List Byte) (poison : Bool) (cls : Alloc) : State :=
  if mdFilled s (dpaMd (64 * l)) then linePerform s l off bs poison cls
  else holdReq s l (.wr l off bs poison cls)

/-- The pieces of a write by line: (line, offset, bytes). -/
def linePieces : Nat → Nat → List Byte → List (Nat × Nat × List Byte)
  | 0, _, _ => []
  | fuel + 1, a, bs =>
    if bs.isEmpty then []
    else
      let n := min (64 - a % 64) bs.length
      (a / 64, a % 64, bs.take n) :: linePieces fuel (a + n) (bs.drop n)

/-- Write `bs` at DPA `a` line by line; `poison` marks every line it touches. -/
def linesWrite (s : State) (a : Nat) (bs : List Byte) (poison : Bool) (cls : Alloc) : State :=
  (linePieces (bs.length + 1) a bs).foldl (fun s p => lineWrite s p.1 p.2.1 p.2.2 poison cls) s

/-- Write `bs` at DPA `a` for a unit of the module. A request beyond device memory is discarded (R197). -/
def memWrite (s : State) (a : Nat) (bs : List Byte) (poison : Bool) (cls : Alloc) : State :=
  if a + bs.length > dpaLimit then inc s F.MD_ECC_CNT3_RANGE_CNT 0
  else linesWrite (askFirst s (linesOf a bs.length) 1) a bs poison cls

/-! ### Stale requests (R255) -/

def ctxOf (s : State) (k : Nat) : CtxSt := sget CtxSt.reset s.ctxs k

def setCtx (s : State) (k : Nat) (x : CtxSt) : State := { s with ctxs := sset CtxSt.reset s.ctxs k x }

/-- The context is ACTIVE, STOPPING or DRAINING (Table 9.2). -/
def ctxLive (x : CtxSt) : Bool := x.state == 1 || x.state == 2 || x.state == 3

/-- A request with this CTXGEN is stale at an MD or CD. -/
def staleDie (s : State) (cg : Word32) : Bool :=
  let x := ctxOf s (cg.toNat % 4096)
  !(ctxLive x && x.dieGen == cg.toNat / 4096)

/-- A request with this CTXGEN is stale at the IOD. -/
def staleIod (s : State) (cg : Word32) : Bool :=
  let x := ctxOf s (cg.toNat % 4096)
  !(ctxLive x && x.gen == cg.toNat / 4096)

/-- The CTXGEN word of context `k` at generation `g`. -/
def ctxgenOf (k g : Nat) : Word32 := BitVec.ofNat 32 (k % 4096 + 4096 * g)

/-- A read as its home MD serves it: stale requests answered with poisoned zeros (R255). -/
def portRead (s : State) (r : MemRead) : List Byte × Bool × State :=
  match r.ctxgen with
  | some cg =>
    if staleDie s cg then (List.replicate r.len 0, true, inc s F.MD_ECC_CNT3_STALE_DROP_CNT (dpaMd r.dpa.toNat))
    else memRead s r.dpa.toNat r.len r.cls
  | none => memRead s r.dpa.toNat r.len r.cls

/-- A write as its home MD performs it: a stale one is dropped (R210, R255). -/
def portWrite (s : State) (w : MemWrite) : State :=
  match w.ctxgen with
  | some cg =>
    if staleDie s cg then inc s F.MD_ECC_CNT3_STALE_DROP_CNT (dpaMd w.dpa.toNat)
    else memWrite s w.dpa.toNat w.data w.poison w.cls
  | none => memWrite s w.dpa.toNat w.data w.poison w.cls

/-! ### Coded SRAM (R512, R236) -/

/-- Byte `a` of an SRAM, as stored. -/
def sramByte (m : Sram) (a : Nat) : Byte := sget 0 m.bytes a

/-- The 16 bytes of granule `g`, as stored. -/
def sramGranule (m : Sram) (g : Nat) : List Byte := (List.range 16).map (fun i => sramByte m (16 * g + i))

/-- Read `n` bytes at `a`: corrected, with whether a granule was uncorrectable. -/
def sramRead (m : Sram) (a n : Nat) : List Byte × Bool :=
  let gs := if n = 0 then [] else (List.range ((a + n - 1) / 16 - a / 16 + 1)).map (fun i => a / 16 + i)
  let (bs, bad) := gs.foldl (fun (x : List Byte × Bool) g =>
    let r := decodeDiff (sget 0 m.chk g)
    (x.1 ++ fixBytes (sramGranule m g) 0 r, x.2 || r == .bad)) ([], false)
  ((bs.drop (a % 16)).take n, bad)

/-- Write bytes `bs` (inside granule `g` at `off`): whole, or merged (R512). A granule that the merge finds
uncorrectable, and one that takes poisoned bytes, gets a fresh check word with 0x0011 on it (R236). -/
def sramPutGranule (m : Sram) (g off : Nat) (bs : List Byte) (poison : Bool) : Sram :=
  let r := decodeDiff (sget 0 m.chk g)
  let whole := decide (bs.length = 16)
  let data := splice (fixBytes (sramGranule m g) 0 r) off bs
  let bad := poison || (!whole && r == .bad)
  { bytes := ssetAll 0 m.bytes (data.mapIdx (fun i b => (16 * g + i, b))),
    chk := sset 0 m.chk g (if bad then 0x0011 else 0) }

/-- The pieces of a write by granule. -/
def granulePieces : Nat → Nat → List Byte → List (Nat × Nat × List Byte)
  | 0, _, _ => []
  | fuel + 1, a, bs =>
    if bs.isEmpty then []
    else
      let n := min (16 - a % 16) bs.length
      (a / 16, a % 16, bs.take n) :: granulePieces fuel (a + n) (bs.drop n)

/-- Write `bs` at `a` of an SRAM. -/
def sramWrite (m : Sram) (a : Nat) (bs : List Byte) (poison : Bool) : Sram :=
  (granulePieces (bs.length + 1) a bs).foldl (fun m p => sramPutGranule m p.1 p.2.1 p.2.2 poison) m

end Sys2Proof.Machine
end

