-- ==== Sys2Proof/Machine/Translate.lean ====
section
/-! DEFINITION. Machine/Translate.lean: the context table, page-table walks, translation caches and pinned stores, and
fault records (R253 to R268). -/

namespace Sys2Proof.Machine

/-! ### The context table (R253) -/

/-- DPA of the table entry of context `k`. -/
def ctxEntryAddr (s : State) (k : Nat) : Nat := getPair s F.CTX_TBL_BASE_LO_BASE_LO F.CTX_TBL_BASE_HI_BASE_HI 0 + 64 * k

/-- Read `n` bytes of device memory as the module's own units do (allocation class NORMAL, R212). -/
def devRead (s : State) (a n : Nat) : List Byte × Bool × State := memRead s a n .normal

/-- Write device memory as the module's own units do. -/
def devWrite (s : State) (a : Nat) (bs : List Byte) : State := memWrite s a bs false .normal

/-- Change the state or generation of context `k`: the module keeps it and writes GEN, STATE to the table entry
(R254). -/
def putCtx (s : State) (k : Nat) (x : CtxSt) : State :=
  devWrite (setCtx s k x) (ctxEntryAddr s k) (leBytes 4 (x.gen % 2 ^ 20 + (x.state % 8) * 2 ^ 20))

/-- Write ENDINFO of context `k` to the table entry. -/
def putEndinfo (s : State) (k v : Nat) : State :=
  devWrite (setCtx s k { ctxOf s k with endinfo := v }) (ctxEntryAddr s k + 4) (leBytes 4 v)

/-! ### The walk (R257, R258) -/

/-- Where a walk ends: a page, or the cause, level and entry of a fault. -/
inductive WalkRes where
  | page (dpa : Nat) (big rd wr pin : Bool)
  | fault (cause level pte : Nat)
  deriving DecidableEq, Repr

/-- Reserved bits of a page-table entry (Table 9.3). -/
def pteReserved (e : Nat) : Bool := bitsOf e 11 5 != 0 || bitsOf e 63 40 != 0

/-- The DPA that an entry's ADDR names. -/
def pteAddr (e : Nat) : Nat := bitsOf e 39 12 * 4096

/-- Check a leaf: malformed, beyond device memory, or a page. -/
def leafOf (level e : Nat) (big : Bool) : WalkRes :=
  let size := if big then 0x200000 else 0x10000
  if pteAddr e % size ≠ 0 then .fault 2 level e
  else if pteAddr e + size > dpaLimit then .fault 4 level e
  else .page (pteAddr e) big (bitAt e 1) (bitAt e 2) (bitAt e 4)

/-- Index of DVA `va` at a level. -/
def walkIndex (va level : Nat) : Nat :=
  match level with
  | 3 => bitsOf va 47 39
  | 2 => bitsOf va 38 30
  | 1 => bitsOf va 29 21
  | _ => bitsOf va 20 16

/-- Walk from the table at DPA `t` of `level`, reading each entry through its home MD; causes in the order of R258. -/
def walkFrom (s : State) (va : Nat) : Nat → Nat → WalkRes × State
  | level, t =>
    let (bs, p, s) := devRead s (t + 8 * walkIndex va level) 8
    let e := leNat bs
    if p then (.fault 3 level 0, s)
    else if !bitAt e 0 then (.fault 1 level e, s)
    else if pteReserved e || (bitAt e 3 && level != 1) then (.fault 2 level e, s)
    else
      match level with
      | 0 => (leafOf 0 e false, s)
      | n + 1 =>
        if n + 1 = 1 ∧ bitAt e 3 then (leafOf 1 e true, s)
        else
          let size := if n = 0 then 256 else 4096
          if pteAddr e + size > dpaLimit then (.fault 4 (n + 1) e, s)
          else walkFrom s va n (pteAddr e)

/-- The walk of DVA `va` from the level-3 table at `root`. -/
def walk (s : State) (root va : Nat) : WalkRes × State := walkFrom s va 3 root

/-! ### Translation (R259, R263) -/

def xltOf (s : State) (die : Nat) : List XltEntry := sget [] s.xlt die

def setXlt (s : State) (die : Nat) (l : List XltEntry) : State := { s with xlt := sset [] s.xlt die l }

/-- The entry covers 64 KiB page `pg` of context `k` at generation `g`. -/
def xltHit (e : XltEntry) (k g pg : Nat) : Bool :=
  e.ctx == k && e.gen == g && (if e.big then e.page / 32 == pg / 32 else e.page == pg)

/-- What an access needs of a leaf. -/
def needsRd : Access → Bool
  | .write => false
  | _ => true

def needsWr : Access → Bool
  | .write | .readWrite => true
  | _ => false

/-- DPA of `va` under an entry. -/
def xltAddr (e : XltEntry) (va : Nat) : Nat :=
  e.dpa + (if e.big then va % 0x200000 else va % 0x10000)

/-- A translation or its fault: cause, level, entry. -/
inductive XRes where
  | ok (dpa : Nat)
  | fault (cause level pte : Nat)
  deriving DecidableEq, Repr

/-- The walk's outcome for an access: permissions at the leaf (causes 5 and 6). -/
def walkAccess (s : State) (root va : Nat) (acc : Access) : WalkRes × State :=
  match walk s root va with
  | (.page d big rd wr pin, s) =>
    let lvl := if big then 1 else 0
    let pte := d + (if rd then 2 else 0) + (if wr then 4 else 0) + (if big then 8 else 0) + (if pin then 16 else 0) + 1
    if needsRd acc && !rd then (.fault 5 lvl pte, s)
    else if needsWr acc && !wr then (.fault 6 lvl pte, s)
    else (.page d big rd wr pin, s)
  | r => r

/-- Translate DVA `va` of context `k` at die `die` for one access: a cached translation that permits it, or a walk, whose
success is cached; faulting walks are never cached. -/
def translate (s : State) (die k va : Nat) (acc : Access) : XRes × State :=
  let x := ctxOf s k
  let pg := va / 65536
  match (xltOf s die).find? (fun e => xltHit e k x.gen pg && (!needsRd acc || e.rd) && (!needsWr acc || e.wr)) with
  | some e => (.ok (xltAddr e va), s)
  | none =>
    match walkAccess s x.ptRoot va acc with
    | (.page d big rd wr _, s) =>
      let e : XltEntry := ⟨k, x.gen, if big then pg / 32 * 32 else pg, big, d, rd, wr, false⟩
      (.ok (xltAddr e va), setXlt s die (e :: (xltOf s die).filter (fun o => o.locked || !xltHit o k x.gen pg)))
    | (.fault c l p, s) => (.fault c l p, s)

/-- Drop the unlocked translations of a context in a scope at one die (R260). -/
def xltDrop (s : State) (die : Nat) (p : XltEntry → Bool) : State :=
  setXlt s die ((xltOf s die).filter (fun e => !p e))

/-! ### Pinning (R262) -/

/-- Pages of 64 KiB that a range touches. -/
def pagesOf (va len : Nat) : List Nat :=
  if len = 0 then [] else (List.range ((va + len - 1) / 65536 - va / 65536 + 1)).map (fun i => va / 65536 + i)

/-- Check the pin of every page of a range and collect its translations, each leaf once; otherwise the first uncovered page,
and the level at which its walk ended. -/
def pinCheck (s : State) (k root g : Nat) (wr : Bool) : List Nat → Except (Nat × Nat) (List XltEntry) × State
  | [] => (.ok [], s)
  | pg :: t =>
    match walk s root (65536 * pg) with
    | (.page d big rd w pin, s) =>
      if pin && rd && (w || !wr) then
        match pinCheck s k root g wr t with
        | (.ok l, s) =>
          let e : XltEntry := ⟨k, g, if big then pg / 32 * 32 else pg, big, d, rd, w, true⟩
          (.ok (if l.contains e then l else e :: l), s)
        | r => r
      else (.error (pg, if big then 1 else 0), s)
    | (.fault _ lvl _, s) => (.error (pg, lvl), s)

/-- Locked translations in a die's pinned store. -/
def lockedCount (s : State) (die : Nat) : Nat := ((xltOf s die).filter (fun e => e.locked)).length

/-- The translations of `l` that the store does not hold locked. -/
def newLocks (s : State) (die : Nat) (l : List XltEntry) : List XltEntry :=
  l.filter (fun e => !(xltOf s die).any (fun o => o == e))

/-- They fit in the pinned store of 4,096. -/
def locksFit (s : State) (die : Nat) (l : List XltEntry) : Bool :=
  decide (lockedCount s die + (newLocks s die l).length ≤ 4096)

/-- Lock translations at a die. -/
def lockAll (s : State) (die : Nat) (l : List XltEntry) : State :=
  setXlt s die (newLocks s die l ++ xltOf s die)

/-! ### Accesses over several pages -/

/-- Pieces of a DVA range by 64 KiB page: (va, bytes). -/
def vaPieces : Nat → Nat → Nat → List (Nat × Nat)
  | 0, _, _ => []
  | fuel + 1, va, n =>
    if n = 0 then []
    else
      let m := min (65536 - va % 65536) n
      (va, m) :: vaPieces fuel (va + m) (n - m)

/-- A fault on the way of an access: DVA, cause, level, entry. -/
structure XFault where
  va : Nat
  cause : Nat
  level : Nat
  pte : Nat
  deriving DecidableEq, Repr

/-- Translate every page of a range: DPA pieces in order, or the first fault. -/
def translateRange (s : State) (die k : Nat) (acc : Access) : List (Nat × Nat) → Except XFault (List (Nat × Nat)) × State
  | [] => (.ok [], s)
  | (va, n) :: t =>
    match translate s die k va acc with
    | (.ok d, s) =>
      match translateRange s die k acc t with
      | (.ok l, s) => (.ok ((d, n) :: l), s)
      | r => r
    | (.fault c l p, s) => (.error ⟨va, c, l, p⟩, s)

/-- Read the DPA pieces of a range, with the poison of any. -/
def readPieces (s : State) (cg : Word32) (cls : Alloc) (ps : List (Nat × Nat)) : List Byte × Bool × State :=
  ps.foldl (fun (x : List Byte × Bool × State) p =>
    let (b, q, s) := portRead x.2.2 ⟨BitVec.ofNat 40 p.1, p.2, some cg, cls⟩
    (x.1 ++ b, x.2.1 || q, s)) ([], false, s)

/-- Write bytes over the DPA pieces of a range. -/
def writePieces (s : State) (cg : Word32) (cls : Alloc) (poison : Bool) : List (Nat × Nat) → List Byte → State
  | [], _ => s
  | (d, n) :: t, bs =>
    writePieces (portWrite s ⟨BitVec.ofNat 40 d, bs.take n, poison, some cg, cls⟩) cg cls poison t (bs.drop n)

/-- The CTXGEN word of context `k` now. -/
def cgOf (s : State) (k : Nat) : Word32 := ctxgenOf k (ctxOf s k).gen

/-- Read `n` bytes at DVA `va` of context `k` from die `die`. -/
def dvaRead (s : State) (die k va n : Nat) (cls : Alloc) : Except XFault (List Byte × Bool) × State :=
  match translateRange s die k .read (vaPieces (n + 1) va n) with
  | (.ok ps, s) =>
    let (b, p, s) := readPieces s (cgOf s k) cls ps
    (.ok (b, p), s)
  | (.error e, s) => (.error e, s)

/-- Write bytes at DVA `va` of context `k` from die `die`: every page is translated before the first byte is
written. -/
def dvaWrite (s : State) (die k va : Nat) (bs : List Byte) (poison : Bool) (cls : Alloc) : Except XFault Unit × State :=
  match translateRange s die k .write (vaPieces (bs.length + 1) va bs.length) with
  | (.ok ps, s) => (.ok (), writePieces s (cgOf s k) cls poison ps bs)
  | (.error e, s) => (.error e, s)

/-! ### Fault records (R264, R265) -/

def accessCode : Access → Nat
  | .fetch => 0
  | .read => 1
  | .write => 2
  | .readWrite => 3

/-- A record that a new fault merges with: same context, 64 KiB page and ACCESS, unanswered. -/
def sameFault (r : FaultRec) (k g va acc : Nat) : Bool :=
  r.ctx == k && r.gen == g && r.fva / 65536 == va / 65536 && r.access == acc

def mergeInto (l : List FaultRec) (k g va acc : Nat) (c : Covered) : List FaultRec :=
  l.map (fun r => if sameFault r k g va acc then { r with merged := true, covers := r.covers ++ [c] } else r)

/-- Raise a fault: merged into an unanswered record, or a record that waits for a ring slot; beyond 512, the unit stays
suspended until one is free (R265). -/
def raiseFault (s : State) (k unit place : Nat) (f : XFault) (acc : Access) (c : Covered) : State :=
  let g := (ctxOf s k).gen
  let a := accessCode acc
  let fs := s.faults
  if (fs.waiting ++ fs.opened ++ fs.beyond).any (fun r => sameFault r k g f.va a) then
    { s with faults := { fs with waiting := mergeInto fs.waiting k g f.va a c,
                                 opened := mergeInto fs.opened k g f.va a c,
                                 beyond := mergeInto fs.beyond k g f.va a c } }
  else
    let r : FaultRec := ⟨0, k, g, f.va, f.cause, a, unit, f.level, place,
      if f.cause = 3 ∨ f.cause = 7 then 0 else f.pte, false, [c]⟩
    if fs.waiting.length < 512 then { s with faults := { fs with waiting := fs.waiting ++ [r] } }
    else { s with faults := { fs with beyond := fs.beyond ++ [r] } }

/-- The 64 bytes of a fault record (Table 9.7). -/
def faultBytes (r : FaultRec) (ft : Nat) : List Byte :=
  leBytes 4 r.seq ++ leBytes 4 (ctxgenOf r.ctx r.gen).toNat ++ leBytes 8 r.fva ++ leBytes 1 r.cause ++ leBytes 1 r.access ++
    leBytes 1 r.unit ++ leBytes 1 r.level ++ leBytes 2 r.place ++ leBytes 1 (if r.merged then 1 else 0) ++ leBytes 1 0 ++
    leBytes 8 ft ++ leBytes 8 r.pte ++ leBytes 24 0

/-- Records in the fault ring (Table 9.12). -/
def fltRingSize (s : State) : Nat := 2 ^ (getF s F.FLT_RING_CFG_LOG2N 0 + 4)

/-- Write bytes of host memory: a CXL.cache request, or a posted memory write in PCIe mode (R405, R407). -/
def hostPut (s : State) (a : Nat) (bs : List Byte) : State :=
  { emit s (.hostWrite a bs) with hostMem := ssetAll 0 s.hostMem (bs.mapIdx (fun i b => (a + i, b))) }

/-- FAULT_RECORD: the oldest waiting record goes to the ring slot at FLT_TAIL when the ring has one; the service bound is
armed and the ring's message sent (R265, R267). -/
def faultRecord (s : State) : State :=
  let fs := s.faults
  match fs.waiting with
  | [] => s
  | r :: t =>
    let n := fltRingSize s
    let tail := getF s F.FLT_TAIL_TAIL 0
    if (tail + 1) % n = getF s F.FLT_HEAD_HEAD 0 % n then s
    else
      let r := { r with seq := fs.seq }
      let base := getPair s F.FLT_RING_BASE_LO_BASE_LO F.FLT_RING_BASE_HI_BASE_HI 0
      let s := hostPut s (base + 64 * tail) (faultBytes r (ftNow s))
      let s := setF s F.FLT_TAIL_TAIL 0 ((tail + 1) % n)
      let waiting := t ++ fs.beyond.take 1
      let s := { s with faults := { fs with waiting := waiting, beyond := fs.beyond.drop 1, opened := fs.opened ++ [r],
                                            seq := (fs.seq + 1) % 2 ^ 32 } }
      let s := armTimeout s iodDie (ftNow s + 10000000) (.faultService r.seq)
      sendMsix s (getF s F.FLT_RING_CFG_VECTOR 0)

def execFaultRecord (s : State) : Host.Outcome State Fault Refusal := .next (faultRecord s)

/-- A write of FLT_HEAD: software frees the slots it has read (R274). -/
def execFltHead (head : BitVec 16) (s : State) : Host.Outcome State Fault Refusal :=
  .next (setF s F.FLT_HEAD_HEAD 0 head.toNat)

/-! ### Invalidation (R260) -/

/-- An entry lies in the scope of an invalidation. -/
def xltInScope (k scope va : Nat) (e : XltEntry) : Bool :=
  e.ctx == k && (match scope with
    | 0 => if e.big then e.page / 32 == va / 65536 / 32 else e.page == va / 65536
    | 1 => e.page / 32 == va / 65536 / 32
    | _ => true)

/-- XLT_INVAL with GO: refused whole over a locked translation or a bad scope; otherwise every die drops the matching
entries (R260). -/
def xltInval (s : State) (k scope va : Nat) : State :=
  if getF s F.XLT_INVAL_STS_BUSY 0 = 1 then setF s F.XLT_INVAL_STS_OVERRUN 0 1
  else if scope = 3 ∨ (scope = 1 ∧ va / 65536 % 32 ≠ 0) ∨ (ctxOf s k).state = 0 then setF s F.XLT_INVAL_STS_RESULT 0 2
  else if (List.range 9).any (fun d => (xltOf s d).any (fun e => e.locked && xltInScope k scope va e)) then
    setF s F.XLT_INVAL_STS_RESULT 0 1
  else
    let s := (List.range 9).foldl (fun s d => xltDrop s d (xltInScope k scope va)) s
    setF (setF s F.XLT_INVAL_STS_RESULT 0 0) F.XLT_INVAL_STS_BUSY 0 1

/-- A write of XLT_INVAL_LO and XLT_INVAL_HI with GO: the fields are stored and the invalidation starts; while BUSY reads 1 the
write is ignored and sets OVERRUN (R274). -/
def xltInvalWrite (s : State) (k scope va : Nat) : State :=
  if getF s F.XLT_INVAL_STS_BUSY 0 = 1 then setF s F.XLT_INVAL_STS_OVERRUN 0 1
  else
    let s := setF (setF s F.XLT_INVAL_LO_VA_LO 0 (va / 65536 % 65536)) F.XLT_INVAL_HI_VA_HI 0 (va / 2 ^ 32)
    xltInval (setF (setF s F.XLT_INVAL_HI_CTX 0 k) F.XLT_INVAL_HI_SCOPE 0 scope) k scope (va / 65536 * 65536)

def execXltInval (k : CtxId) (scope : Fin 4) (va : BitVec 48) (s : State) : Host.Outcome State Fault Refusal :=
  .next (xltInvalWrite s k scope va.toNat)

/-- A staged transfer in phase W, resident or banked, still uses a translation in the scope of the last invalidation. -/
def pinsInScope (s : State) : Bool :=
  let k := getF s F.XLT_INVAL_HI_CTX 0
  let va := getF s F.XLT_INVAL_HI_VA_HI 0 * 2 ^ 32 + getF s F.XLT_INVAL_LO_VA_LO 0 * 65536
  let used (l : Sparse (Option Xfer)) : Bool := l.any (fun e => match e.2 with
    | some x => x.pins.any (xltInScope k (getF s F.XLT_INVAL_HI_SCOPE 0) va)
    | none => false)
  s.cores.any (fun e => used e.2.xfers) || s.vcs.any (fun e => used e.2.savedXfers)

/-- XLT_INVAL_DONE: every request under a dropped translation is performed, as the module performs each when it issues, so BUSY
clears; the requests of a staged transfer in phase W are still to come (R247, R260). -/
def xltInvalDone (s : State) : State := if pinsInScope s then s else setF s F.XLT_INVAL_STS_BUSY 0 0

def execXltInvalDone (s : State) : Host.Outcome State Fault Refusal := .next (xltInvalDone s)

end Sys2Proof.Machine
end

