-- ==== Sys2Proof/Machine/Tensor.lean ====
section
/-! DEFINITION. Machine/Tensor.lean: the scratchpad partition and the DSM allocation of a core's context, tensor
descriptors, their addresses, their validation and their advance (R43, R219 to R230). -/

namespace Sys2Proof.Machine

/-- Code `n` of a case that applies, else 0. -/
def codeIf (b : Bool) (n : Nat) : Nat := if b then n else 0

/-- The lowest of the refusal codes that apply; 0 for none. -/
def lowest (l : List Nat) : Nat :=
  match l.filter (fun x => x != 0) with
  | [] => 0
  | a :: t => t.foldl min a

/-! ### The SPM partition (R43) -/

/-- Size of the partition of a core, in bytes. -/
def partBytes (k : CoreSt) : Nat := 65536 * k.partLen

/-- SPM address of partition address `a`. -/
def partAddr (k : CoreSt) (a : Nat) : Nat := 65536 * k.partSeg + a

/-- Read `n` bytes at partition address `a`: corrected, and whether a granule was uncorrectable. -/
def spmRead (k : CoreSt) (a n : Nat) : List Byte × Bool := sramRead k.spm (partAddr k a) n

/-- Write bytes at partition address `a`. -/
def spmWrite (k : CoreSt) (a : Nat) (bs : List Byte) (poison : Bool) : CoreSt :=
  { k with spm := sramWrite k.spm (partAddr k a) bs poison }

/-- `n` bytes at `a` lie wholly in the partition. -/
def inPart (k : CoreSt) (a n : Nat) : Bool := decide (a + n ≤ partBytes k)

/-! ### DSM allocations (R219, R296) -/

def schedOf (s : State) (cd : Nat) : SchedSt := sget SchedSt.reset s.sched cd

def setSched (s : State) (cd : Nat) (x : SchedSt) : State := { s with sched := sset SchedSt.reset s.sched cd x }

/-- The units of 64 KiB of the DSM allocation of context `k` on CD `cd`, in the order of its offsets; the units need not lie side
by side (DESIGN CHOICE, notes/assumptions/17.md). -/
def dsmUnits (s : State) (cd k : Nat) : List Nat :=
  (((schedOf s cd).dsmAlloc.find? (fun a => a.1 == k)).map (fun a => a.2)).getD []

/-- DSM address of offset `a` of an allocation of units `us`. -/
def dsmAt (us : List Nat) (a : Nat) : Nat := 65536 * us.getD (a / 65536) 0 + a % 65536

def dsmOf (s : State) (cd : Nat) : Sram := sget Sram.zero s.dsm cd

def setDsm (s : State) (cd : Nat) (m : Sram) : State := { s with dsm := sset Sram.zero s.dsm cd m }

/-- A notice reaches a CD's scheduler processor: an ABFT event moves its core to the head of the test order (R385); behind a
restart, 256 notices wait, and one more is dropped and marks PZ on every core bound on the CD (R440). -/
def notify (s : State) (cd : Nat) (n : Notice) : State :=
  if restarting s (9 + cd) then
    let x := schedOf s cd
    if x.notices.length < 256 then setSched s cd { x with notices := x.notices ++ [n] }
    else (List.range 16).foldl (fun s i =>
      modCore s (16 * cd + i) (fun k => if k.bound.isSome then { k with pz := true, pzArmed := true } else k)) s
  else if n.kind = 0 then { s with ras := { s.ras with order := n.core :: s.ras.order.erase n.core } }
  else s

/-- What is bound to core `c`; context 0 at generation 0 where nothing is. -/
def boundOf (k : CoreSt) : Binding3 := k.bound.getD ⟨0, 0, 0⟩

/-! ### Descriptor fields (Table 8.2) -/

/-- A decoded descriptor with the start of its region. -/
structure Tens where
  base : Nat
  handle : Nat
  fmt : Nat
  rank : Nat
  cdim : Nat
  layout : Nat
  space : Nat
  dst : Nat
  src : Nat
  wm1 : Nat
  sizes : List Nat
  strides : List Nat
  lm1 : Nat
  cpos0 : Nat
  scofs : Nat
  sclane0 : Nat
  start : Nat
  deriving DecidableEq, Repr

/-- Decode the 512 bits `raw`, region start `start`. -/
def tensOf (raw : Nat) (start : Nat) : Tens :=
  { base := bitsOf raw 47 0
    handle := bitsOf raw 63 48
    fmt := bitsOf raw 67 64
    rank := bitsOf raw 70 68
    cdim := bitsOf raw 73 71
    layout := bitsOf raw 75 74
    space := bitsOf raw 77 76
    dst := bitsOf raw 85 80
    src := bitsOf raw 91 86
    wm1 := bitsOf raw 94 92
    sizes := (List.range 6).map (fun k => bitsOf raw (24 * k + 119) (24 * k + 96) + 1)
    strides := (List.range 6).map (fun k => if k = 0 then 1 else bitsOf raw (36 * k + 239) (36 * k + 204))
    lm1 := bitsOf raw 257 240
    cpos0 := bitsOf raw 281 258
    scofs := bitsOf raw 487 456
    sclane0 := bitsOf raw 511 488
    start := start }

/-- Size of dimension `k`. -/
def Tens.size (t : Tens) (k : Nat) : Nat := if k < t.rank then t.sizes.getD k 1 else 1

/-- Stride of dimension `k` (layouts 0 and 1). -/
def Tens.stride (t : Tens) (k : Nat) : Nat := t.strides.getD k 0

/-- Lanes: index combinations of dimensions 1 and up (R223). -/
def Tens.lanes (t : Tens) : Nat := t.size 1 * t.size 2 * t.size 3 * t.size 4 * t.size 5

/-- Elements. -/
def Tens.count (t : Tens) : Nat := t.size 0 * t.lanes

/-- Padded length L of layout 2 (R226). -/
def Tens.padL (t : Tens) : Nat := 64 * (t.lm1 + 1)

/-- Stripe size S (R96). -/
def Tens.stripe (t : Tens) : Nat := 8 * fmtW t.fmt

/-- Contraction extent that NB counts (R119). -/
def Tens.nb (t : Tens) : Nat :=
  let b := fmtBlock t.fmt
  if b = 0 then 0 else cdiv (if t.layout = 2 then t.padL else t.size 0) b

/-- Index of dimension `k` (1 to 5) of lane `l`. -/
def Tens.laneIdx (t : Tens) (l k : Nat) : Nat :=
  match k with
  | 1 => l % t.size 1
  | 2 => l / t.size 1 % t.size 2
  | 3 => l / (t.size 1 * t.size 2) % t.size 3
  | 4 => l / (t.size 1 * t.size 2 * t.size 3) % t.size 4
  | _ => l / (t.size 1 * t.size 2 * t.size 3 * t.size 4)

/-- Element offset of position `p` of lane `l` in layouts 0 and 1 (R224). -/
def Tens.offset (t : Tens) (l p : Nat) : Nat :=
  p + t.laneIdx l 1 * t.stride 1 + t.laneIdx l 2 * t.stride 2 + t.laneIdx l 3 * t.stride 3 +
    t.laneIdx l 4 * t.stride 4 + t.laneIdx l 5 * t.stride 5

/-- Bit address, from the origin of the space, of the element at stripe order in layout 2: lane slot `l`, tensor position
`pos` (R95, R96, R226). -/
def Tens.stripeBit (t : Tens) (l pos : Nat) : Nat :=
  8 * (t.base + l / 64 * (t.padL * t.stripe) + (pos + l % 64) % t.padL * t.stripe) + l % 64 * fmtW t.fmt

/-- Bit address of view position `p` of lane `l`, before the swizzle of layout 1. -/
def Tens.bitAddr (t : Tens) (l p : Nat) : Nat :=
  if t.layout = 2 then t.stripeBit l (t.cpos0 + p) else 8 * t.base + t.offset l p * fmtW t.fmt

/-- The byte actually accessed for byte address `a` (R225). -/
def Tens.swizzle (t : Tens) (a : Nat) : Nat :=
  if t.layout = 1 then
    let off := a - t.start
    t.start + (off ^^^ ((off >>> t.src &&& (2 ^ (t.wm1 + 1) - 1)) <<< t.dst))
  else a

/-- Byte addresses of the element at (l, p), lowest first. -/
def Tens.bytesAt (t : Tens) (l p : Nat) : List Nat :=
  let b := t.bitAddr l p
  (List.range ((b + fmtW t.fmt - 1) / 8 - b / 8 + 1)).map (fun i => t.swizzle (b / 8 + i))

/-- Address of the scale header (R227). -/
def Tens.scaleBase (t : Tens) : Nat := t.start + 16 * t.scofs

/-- Block of view position `p`. -/
def Tens.blockOf (t : Tens) (p : Nat) : Nat := ((if t.layout = 2 then t.cpos0 + p else p)) / fmtBlock t.fmt

/-- Address of the scale of block `b` of view lane `l` (R119, R227). -/
def Tens.scaleAddr (t : Tens) (l b : Nat) : Nat := t.scaleBase + 16 + (t.sclane0 + l) * t.nb + b

/-- Largest element offset (R228). -/
def Tens.maxOffset (t : Tens) : Nat :=
  ((List.range 6).map (fun k => (t.size k - 1) * t.stride k)).foldl (· + ·) 0

/-- Data extent: first byte and the byte after the last (R226, R228). -/
def Tens.extent (t : Tens) : Nat × Nat :=
  if t.layout = 2 then (t.base, t.base + cdiv t.lanes 64 * t.padL * t.stripe)
  else
    let lo := t.base
    let hi := t.base + (t.maxOffset * fmtW t.fmt + fmtW t.fmt - 1) / 8 + 1
    if t.layout = 1 then
      let blk := 2 ^ (t.dst + t.wm1 + 1)
      (t.start + (lo - t.start) / blk * blk, t.start + cdiv (hi - t.start) blk * blk)
    else (lo, hi)

/-- Bytes of the scale area. -/
def Tens.scaleLen (t : Tens) : Nat :=
  if fmtScaled t.fmt then (if fmtBlock t.fmt = 0 then 16 else 16 + (t.sclane0 + t.lanes) * t.nb) else 0

/-! ### Validation (R228, Table 8.3) -/

/-- Reserved fields are non-zero, or a field holds a reserved code. -/
def descReserved (raw : Nat) : Bool :=
  let t := tensOf raw 0
  let z (hi lo : Nat) : Bool := bitsOf raw hi lo == 0
  let unusedDims := (List.range 6).all (fun k => decide (k < t.rank) || z (24 * k + 119) (24 * k + 96))
  let unusedStrides := (List.range 6).all (fun k => k == 0 || decide (k < t.rank) || z (36 * k + 239) (36 * k + 204))
  !(z 79 78 && z 95 95 && z 455 420 && decide (t.fmt < 0xC) && t.layout != 3 && t.space != 3 &&
    decide (1 ≤ t.rank ∧ t.rank ≤ 6) && decide (t.cdim < t.rank) && (t.layout == 1 || z 94 80) && unusedDims &&
    (if t.layout = 2 then z 419 282 else unusedStrides) &&
    (fmtScaled t.fmt || (z 487 456 && z 511 488)) && (fmtBlock t.fmt != 0 || z 511 488))

/-- A region: start, length, permissions, its first byte beyond what the core may reach (spaces 1 and 2). -/
structure RegionRes where
  start : Nat
  len : Nat
  rd : Bool
  wr : Bool
  limit : Nat
  deriving DecidableEq, Repr

/-- Limit of a space for the core: the allocation or the partition. -/
def spaceLimit (s : State) (c space : Nat) : Nat :=
  match space with
  | 0 => 2 ^ 48
  | 1 => 65536 * (dsmUnits s (cdOf c) (boundOf (coreOf s c)).ctx).length
  | _ => partBytes (coreOf s c)

/-- Look a region handle up (R219, R220). -/
def regionOf (s : State) (c handle space : Nat) : Option RegionRes × State :=
  let lim := spaceLimit s c space
  if handle = 0 then (if space = 2 then some ⟨0, lim, true, true, lim⟩ else none, s)
  else if handle = 1 then (if space = 1 then some ⟨0, lim, true, true, lim⟩ else none, s)
  else if getF s F.DMA_REG_CNT_COUNT c ≤ handle then (none, s)
  else
    let base := getPair s F.DMA_REG_BASE_LO_BASE_LO F.DMA_REG_BASE_HI_BASE_HI c
    match dvaRead s (cdOf c) (boundOf (coreOf s c)).ctx (base + 16 * handle) 16 .normal with
    | (.ok (b, p), s) =>
      let f := fieldLE b 6 6
      if !p && bitAt f 0 && bitsOf f 4 3 == space then
        (some ⟨fieldLE b 0 5, fieldLE b 8 13, bitAt f 1, bitAt f 2, lim⟩, s)
      else (none, s)
    | (.error _, s) => (none, s)

/-- Checks 3 to 6 on a descriptor whose region is known; 0 when all pass. -/
def descCheck (t : Tens) (r : RegionRes) : Nat :=
  let inRegion (lo hi : Nat) : Bool :=
    decide (r.start ≤ lo ∧ hi ≤ r.start + r.len) && (t.space == 0 || decide (hi ≤ r.limit))
  let w := fmtW t.fmt
  let (lo, hi) := t.extent
  let dims := (List.range 6).filter (fun k => decide (1 ≤ k ∧ k < t.rank))
  let alignOk :=
    (if t.layout = 2 then t.base % 64 == 0 else if w = 16 then t.base % 2 == 0 else if w = 32 then t.base % 4 == 0 else true) &&
    (t.layout == 2 || dims.all (fun k => if w = 4 then t.stride k % 2 == 0 else if w = 6 ∨ w = 2 then t.stride k % 4 == 0
      else true))
  let layoutOk :=
    if t.layout = 1 then decide (4 ≤ t.dst ∧ t.dst + t.wm1 + 1 ≤ t.src)
    else if t.layout = 2 then
      decide (t.rank ≤ 2) && t.cdim == 0 && fmtScaled t.fmt && t.cpos0 % 64 == 0 && decide (t.cpos0 + t.size 0 ≤ t.padL)
    else true
  let blocked := fmtBlock t.fmt != 0
  let stridesOk := t.layout == 2 || !blocked ||
    (t.cdim == 0 && (decide (t.rank < 2) || decide (t.size 0 ≤ t.stride 1)) &&
      dims.all (fun k => k == 1 || t.stride k == t.stride (k - 1) * t.size (k - 1)))
  let sb := t.scaleBase
  let se := sb + t.scaleLen
  let scaleOk := !fmtScaled t.fmt ||
    (stridesOk && (!blocked || decide (t.sclane0 + t.lanes ≤ 2 ^ 24)) && inRegion sb se && (decide (se ≤ lo) || decide (hi ≤ sb)))
  if decide (t.base < r.start) || !inRegion lo hi then 3
  else if !alignOk then 4
  else if !layoutOk then 5
  else if !scaleOk then 6
  else 0

/-- Validate 64 bytes: the refusal code (0 when accepted) and the descriptor register they give. -/
def descValidate (s : State) (c : Nat) (raw : BitVec 512) : Nat × DescReg × State :=
  if descReserved raw.toNat then (1, DescReg.none, s)
  else
    let t := tensOf raw.toNat 0
    match regionOf s c t.handle t.space with
    | (none, s) => (2, DescReg.none, s)
    | (some r, s) =>
      let code := descCheck (tensOf raw.toNat r.start) r
      (code, ⟨code == 0, raw, r.rd, r.wr, r.start, 0⟩, s)

/-- The tensor of a descriptor register. -/
def DescReg.tens (d : DescReg) : Tens := tensOf d.raw.toNat d.region

/-! ### DESC.ADV (R230) -/

/-- `raw` with bits [hi:lo] replaced. -/
def putRaw (raw : Nat) (hi lo v : Nat) : Nat :=
  raw - bitsOf raw hi lo * 2 ^ lo + (v % 2 ^ (hi + 1 - lo)) * 2 ^ lo

/-- The moves of BASE, SCLANE0 and CPOS0 for an advance by `n` elements; nothing when the count breaks a requirement. -/
def advMoves (t : Tens) (n : Int) : Option (Int × Int × Int) :=
  let w : Int := fmtW t.fmt
  let bytes : Option Int := if n * w % 8 = 0 then some (n * w / 8) else none
  if t.layout = 2 then
    let l : Int := t.padL
    let q := n / l
    let p := n % l
    if q % 64 = 0 ∧ p % 64 = 0 then some (q / 64 * l * t.stripe, q, p) else none
  else if fmtBlock t.fmt = 0 then bytes.map (fun b => (b, 0, 0))
  else
    let unit : Int := if 2 ≤ t.rank then t.stride 1 else t.size 0
    if n % unit = 0 then bytes.map (fun b => (b, n / unit, 0)) else none

/-- The advanced 512 bits; nothing is ADVANCE. -/
def advRaw (raw : Nat) (n : Int) : Option Nat :=
  let t := tensOf raw 0
  match advMoves t n with
  | none => none
  | some (db, dl, dc) =>
    let b := (t.base : Int) + db
    let l := (t.sclane0 : Int) + dl
    let p := (t.cpos0 : Int) + dc
    let lp := decide (0 ≤ l ∧ l < 2 ^ 24) && (t.layout != 2 || decide (0 ≤ p ∧ p < 2 ^ 24))
    if decide (0 ≤ b ∧ b < 2 ^ 48) && lp then
      let raw := putRaw (putRaw raw 47 0 b.toNat) 511 488 l.toNat
      some (if t.layout = 2 then putRaw raw 281 258 p.toNat else raw)
    else none

/-! ### Element and scale access in SPM (engines) -/

/-- Bits of an element from its bytes. -/
def Tens.elemBits (t : Tens) (l p : Nat) (bs : List Byte) : Nat :=
  leNat bs / 2 ^ (t.bitAddr l p % 8) % 2 ^ fmtW t.fmt

/-- Element code at (l, p) read from the partition, and whether a granule was uncorrectable. -/
def spmElem (k : CoreSt) (t : Tens) (l p : Nat) : Nat × Bool :=
  let rs := (t.bytesAt l p).map (fun a => spmRead k a 1)
  (t.elemBits l p (rs.flatMap (fun r => r.1)), rs.any (fun r => r.2))

/-- Write element code `v` at (l, p). -/
def spmPutElem (k : CoreSt) (t : Tens) (l p v : Nat) : CoreSt :=
  let as := t.bytesAt l p
  let old := leNat ((as.map (fun a => (spmRead k a 1).1)).flatten)
  let sh := t.bitAddr l p % 8
  let w := fmtW t.fmt
  let new := old - old / 2 ^ sh % 2 ^ w * 2 ^ sh + v % 2 ^ w * 2 ^ sh
  (as.zip (leBytes as.length new)).foldl (fun k x => spmWrite k x.1 [x.2] false) k

/-- Block-scale byte of block `b` of lane `l`. -/
def spmScale (k : CoreSt) (t : Tens) (l b : Nat) : Nat × Bool :=
  let (bs, u) := spmRead k (t.scaleAddr l b) 1
  (leNat bs, u)

/-- The scale header (Table 4.3). -/
def spmHeader (k : CoreSt) (t : Tens) : List Byte × Bool := spmRead k t.scaleBase 16

/-- RTAG of a tensor in the partition: 0 for formats that carry no tag (R88). -/
def spmRtag (k : CoreSt) (t : Tens) : Nat × Bool :=
  if t.fmt = 5 ∨ t.fmt = 6 ∨ t.fmt = 7 ∨ t.fmt = 8 then
    let (h, u) := spmHeader k t
    (fieldLE h 4 5, u)
  else (0, false)

/-- The 16 bytes of a scale header. -/
def headerBytes (tscale : Word32) (rtag smode fmt kind : Nat) : List Byte :=
  leBytes 4 tscale.toNat ++ leBytes 2 rtag ++ leBytes 1 smode ++ leBytes 1 fmt ++ leBytes 1 kind ++ leBytes 7 0

end Sys2Proof.Machine
end

