-- ==== Sys2Proof/Machine/Trans.lean ====
section
/-! DEFINITION. Machine/Trans.lean: the transcendental functions of Table 5.1 and the slope codes of Table 6.6. Each exact
value is enclosed to more than 100 bits; the result is the hardware's free choice where that lies within the bound of
the table, else the nearest FP32 value (R155). -/

namespace Sys2Proof.Machine

/-- Fraction bits of the fixed-point forms below. -/
def fxP : Nat := 320
def fxOne : Int := 2 ^ fxP

/-- Product of two fixed-point numbers. -/
def fxMul (a b : Int) : Int := a * b / fxOne

/-- Sum of a series: term 0 and the step from term n to term n + 1, `k` terms. -/
def fxSeries (step : Nat → Int → Int) : Nat → Nat → Int → Int → Int
  | 0, _, _, acc => acc
  | k + 1, n, t, acc => fxSeries step k (n + 1) (step n t) (acc + t)

/-- ln 2. -/
def fxLn2 : Int := ((List.range 330).map (fun i => fxOne / ((i + 1 : Nat) * 2 ^ (i + 1)))).foldl (· + ·) 0

/-- atan(1/n) x 2^P. -/
def fxAtanInv (n : Int) : Int :=
  fxSeries (fun i t => -(t * (2 * i + 1 : Nat)) / (n * n * (2 * i + 3 : Nat))) 240 0 (fxOne / n) 0

/-- Pi by Machin's formula. -/
def fxPi : Int := 16 * fxAtanInv 5 - 4 * fxAtanInv 239

/-- A finite value as fixed point (values below the grid become the grid point under them). -/
def fxOf : FV → Int
  | .fin n m e =>
    let v : Int := if 0 ≤ e + fxP then m * 2 ^ (e + fxP).toNat else m / 2 ^ (-(e + fxP)).toNat
    if n then -v else v
  | _ => 0

/-- e^x for |x| up to a few hundred: significand and exponent. -/
def fxExp (x : Int) : Nat × Int :=
  let k := (2 * x + fxLn2) / (2 * fxLn2)
  let r := x - k * fxLn2
  ((fxSeries (fun n t => fxMul t r / (n + 1 : Nat)) 90 0 fxOne 0).toNat, k - fxP)

/-- ln of the positive finite m x 2^e. -/
def fxLog (m : Nat) (e : Int) : Int :=
  let l := Nat.log2 m
  let big := decide (4 * 2 ^ l < 3 * m)
  let d : Int := if big then 2 * 2 ^ l else 2 ^ l
  let k : Int := l + e + if big then 1 else 0
  let t := ((m : Int) - d) * fxOne / (m + d)
  let t2 := fxMul t t
  k * fxLn2 + 2 * fxSeries (fun i u => fxMul u t2 * (2 * i + 1 : Nat) / (2 * i + 3 : Nat)) 110 0 t 0

/-- m x 2^e as a fraction: numerator and denominator. -/
def dyadFrac (m : Nat) (e : Int) : Nat × Nat := if 0 ≤ e then (m * 2 ^ e.toNat, 1) else (m, 2 ^ (-e).toNat)

/-- Logistic sigmoid of fixed-point `x` as fixed point with relative precision: significand and exponent. -/
def sigFrac (x : Int) : Nat × Int :=
  let (m, e) := fxExp (-(x.natAbs : Int))
  let (n, d) := dyadFrac m e
  if x < 0 then
    let k := Nat.log2 (d + n) + 200 - Nat.log2 (n + 1)
    (n * 2 ^ k / (d + n), -(k : Int))
  else (d * 2 ^ 320 / (d + n), -320)

/-- Standard normal density of fixed-point `x`, |x| ≤ 14. -/
def fxPhi (x : Int) : Int :=
  let (m, e) := fxExp (-(fxMul x x / 2))
  let num : Int := m * 2 ^ (e + fxP + fxP).toNat
  num / isqrt (2 * fxPi * fxOne).toNat

/-- Standard normal distribution function, |x| ≤ 14. -/
def fxCdf (x : Int) : Int :=
  let a : Int := x.natAbs
  let a2 := fxMul a a
  let s := fxSeries (fun n t => fxMul t a2 / (2 * n + 3 : Nat)) 800 0 a 0
  let p := fxMul (fxPhi a) s
  if x < 0 then fxOne / 2 - p else fxOne / 2 + p

/-- |x| above 14 (fixed point), where the normal tail is below 2^-140. -/
def fxFar (x : Int) : Bool := decide (14 * fxOne < (x.natAbs : Int))

/-- A fixed-point number as a value. -/
def fvOfFx (x : Int) : FV := .fin (decide (x < 0)) x.natAbs (-(fxP : Int))

/-- Just below 1: the exact value of a function that nears 1 from below. -/
def fvNearOne : FV := .fin false (2 ^ 400 - 1) (-400)

/-- Hyperbolic tangent of a finite non-zero value. -/
def tanhFV (v : FV) : FV :=
  let x := fxOf (FV.abs v)
  let big := decide (fxOne ≤ x * 2 ^ 20)
  let y : FV :=
    if decide (200 * fxOne < x) then fvNearOne
    else if big then
      let (m, e) := fxExp (2 * x)
      let (n, d) := dyadFrac m e
      FV.div (.fin false (n - d) 0) (.fin false (n + d) 0)
    else
      let x2 := fxMul x x
      let f := fxOne - x2 / 3 + fxMul (fxMul x2 x2) (2 * fxOne / 15) - fxMul (fxMul x2 (fxMul x2 x2)) (17 * fxOne / 315)
      FV.mul (FV.abs v) (fvOfFx f)
  if FV.isNeg v then FV.neg y else y

/-- The exact function value to high precision, for finite operands with no special value. -/
def transFV (fn : Nat) (v : FV) : FV :=
  let x := fxOf v
  match fn with
  | 0x10 =>
    if decide (x < -150 * fxOne) then .fin false 1 (-300)
    else let (m, e) := fxExp x; .fin false m e
  | 0x11 => match v with
    | .fin _ m e => fvOfFx (fxLog m e)
    | _ => .nan
  | 0x12 => FV.div FV.one v
  | 0x13 => match v with
    | .fin _ m e => let (q, f) := sqrtDyad m e; FV.div FV.one (.fin false q f)
    | _ => .nan
  | 0x15 => tanhFV v
  | 0x16 =>
    if decide (x < -150 * fxOne) then .fin false 1 (-300)
    else if decide (200 * fxOne < x) then fvNearOne
    else let (m, e) := sigFrac x; .fin false m e
  | 0x17 =>
    if fxFar x then (if x < 0 then .fin true 0 0 else FV.mul v fvNearOne) else FV.mul v (fvOfFx (fxCdf x))
  | 0x18 =>
    if decide (x < -250 * fxOne) then .fin true 0 0
    else if decide (200 * fxOne < x) then FV.mul v fvNearOne
    else let (m, e) := sigFrac x; FV.mul v (.fin false m e)
  | _ => v

/-- Bound in ulp (Table 5.1). -/
def transBound (fn : Nat) : Nat :=
  match fn with
  | 0x12 => 1
  | 0x15 | 0x16 => 3
  | 0x17 | 0x18 => 4
  | _ => 2

/-- The hardware's value `p` lies within the bound of the exact value `a`. -/
def transNear (fn : Nat) (a : FV) (p : Word32) : Bool :=
  match a, f32 p with
  | .fin _ m e, .fin _ _ _ =>
    let top := max ((Nat.log2 m : Int) + e) (-126)
    let ulp : FV := .fin false (transBound fn) (top - 23)
    let tiny := (fn == 0x17 || fn == 0x18) && (m == 0 || decide ((Nat.log2 m : Int) + e < -126))
    let bound : FV := if tiny then .fin false 1 (-130) else ulp
    FV.magLe (FV.sub (f32 p) a) bound
  | _, _ => false

/-- Nearest FP32 value, or the hardware's where the bound admits it. -/
def transPickOr (fn : Nat) (x : Word32) (a : FV) : Word32 :=
  let ref := enc32 a
  let p := Config.transPick fn x
  if isFin32 ref && transNear fn a p then p else ref

/-- Counter that a vector result raises (R154): none, invalid, division by zero, overflow. -/
inductive VCount where
  | none
  | inv
  | dz
  | ovf
  deriving DecidableEq, Repr

/-- Special values of Table 5.1 for a finite or infinite operand; nothing where the general value applies. -/
def transSpecial (fn : Nat) (x : Word32) : Option (Word32 × VCount) :=
  let v := f32 x
  let neg := FV.isNeg v
  let inf (n : Bool) : Word32 := BitVec.ofNat 32 (f32Inf + if n then 2 ^ 31 else 0)
  let sz : Word32 := x &&& 0x80000000
  match fn, v with
  | 0x10, .inf n => some (if n then 0 else inf false, .none)
  | 0x10, .fin _ m _ => if m = 0 then some (0x3F800000, .none)
      else if !neg && decide (0x42B17212 < x.toNat) then some (inf false, .ovf) else Option.none
  | 0x11, .inf n => some (if n then (f32NaN, .inv) else (x, .none))
  | 0x11, .fin n m _ => if m = 0 then some (inf true, .dz) else if n then some (f32NaN, .inv)
      else if x = 0x3F800000 then some (0, .none) else Option.none
  | 0x12, .inf _ => some (sz, .none)
  | 0x12, .fin n m _ => if m = 0 then some (inf n, .dz) else Option.none
  | 0x13, .inf n => some (if n then (f32NaN, .inv) else (0, .none))
  | 0x13, .fin n m _ => if m = 0 then some (inf n, .dz) else if n then some (f32NaN, .inv) else Option.none
  | 0x14, _ => some (fsqrt x, if neg && !FV.isZero v then .inv else .none)
  | 0x15, .inf n => some (if n then 0xBF800000 else 0x3F800000, .none)
  | 0x15, .fin _ m _ => if m = 0 then some (x, .none) else Option.none
  | 0x16, .inf n => some (if n then 0 else 0x3F800000, .none)
  | 0x16, .fin _ m _ => if m = 0 then some (0x3F000000, .none) else Option.none
  | 0x17, .inf n => some (if n then 0x80000000 else x, .none)
  | 0x18, .inf n => some (if n then 0x80000000 else x, .none)
  | 0x17, .fin _ m _ => if m = 0 then some (x, .none) else Option.none
  | 0x18, .fin _ m _ => if m = 0 then some (x, .none) else Option.none
  | _, _ => Option.none

/-- A transcendental result and the counter it raises. -/
def transOp (fn : Nat) (x : Word32) : Word32 × VCount :=
  if isNaN32 x then (quiet32 x, .none)
  else
    match transSpecial fn x with
    | some r => r
    | Option.none =>
      let r := transPickOr fn x (transFV fn (f32 x))
      (r, if isInf32 r then .ovf else .none)

/-- 192 x f'(x) + 32 for finite x, as fixed point (R177): SiLU or GELU. -/
def slopeFx (silu : Bool) (x : Int) : Int :=
  let f' :=
    if silu then
      if decide (200 * fxOne < (x.natAbs : Int)) then (if x < 0 then 0 else fxOne)
      else
        let s := fxOf (let (m, e) := sigFrac x; FV.fin false m e)
        fxMul s (fxOne + fxMul x (fxOne - s))
    else if fxFar x then (if x < 0 then 0 else fxOne)
    else fxCdf x + fxMul x (fxPhi x)
  192 * f' + 32 * fxOne

/-- Slope code of `x` (Table 6.6). -/
def slopeCode (silu : Bool) (x : Word32) : Nat :=
  match f32 x with
  | .nan => 255
  | .inf n => if n then 32 else 224
  | .fin n m e =>
    let v := slopeFx silu (fxOf (.fin n m e))
    if v < 0 then 0 else min 254 (roundAt .nearest v.toNat (-(fxP : Int)) 0)

/-- Decoded derivative of code `c` (Table 6.6). -/
def slopeDec (c : Nat) : Word32 :=
  if c = 255 then f32NaN
  else enc32 (FV.div (.fin (decide (c < 32)) (if c < 32 then 32 - c else c - 32) 0) (.fin false 192 0))

end Sys2Proof.Machine
end

