-- ==== Sys2Proof/Machine/Vector.lean ====
section
/-! DEFINITION. Machine/Vector.lean: the vector halves and the reduction unit (R147 to R164): what an operation computes
at issue, as effects that apply when its result is ready. -/

namespace Sys2Proof.Machine

/-! ### Tiles -/

/-- A tile's 4,096 elements. -/
def tileArr (t : Tile) : Array Word32 := t.foldl (fun a e => a.setIfInBounds e.1 e.2) (Array.replicate 4096 0)

def tileGet (a : Array Word32) (r c : Nat) : Word32 := a.getD (64 * r + c) 0

/-- Poison flag of tile `t` (Table 5.6). -/
def tilePoison (s : State) (c t : Nat) : Bool := bitAt (getF s F.VEC_STS_TPOISON c) t

def setTilePoison (s : State) (c t : Nat) (v : Bool) : State :=
  let p := getF s F.VEC_STS_TPOISON c
  setF s F.VEC_STS_TPOISON c (if v then p ||| 2 ^ t else p - (p / 2 ^ t % 2) * 2 ^ t)

/-! ### Operands (R149, R150) -/

/-- Opcode of a vector operation (Table 2.8). -/
def vCode : VOp → Nat
  | .vadd => 0x01 | .vsub => 0x02 | .vmul => 0x03 | .vfma => 0x04 | .vmax => 0x05 | .vmin => 0x06 | .vabs => 0x07
  | .vneg => 0x08 | .vmov => 0x09 | .vcmplt => 0x0A | .vcmpeq => 0x0B | .vexp => 0x10 | .vlog => 0x11 | .vrcp => 0x12
  | .vrsq => 0x13 | .vsqrt => 0x14 | .vtanh => 0x15 | .vsig => 0x16 | .vgelu => 0x17 | .vsilu => 0x18 | .vslope => 0x19
  | .vld => 0x20 | .vst => 0x21

/-- The operation reads VA. -/
def vUsesA : VOp → Bool
  | .vmov | .vld => false
  | _ => true

/-- The operation reads B. -/
def vUsesB : VOp → Bool
  | .vadd | .vsub | .vmul | .vfma | .vmax | .vmin | .vmov | .vcmplt | .vcmpeq => true
  | _ => false

/-- The operation reads VC. -/
def vUsesC : VOp → Bool
  | .vfma | .vslope => true
  | _ => false

/-- The operation writes VD. -/
def vWritesTile : VOp → Bool
  | .vcmplt | .vcmpeq | .vst => false
  | _ => true

def vCompares : VOp → Bool
  | .vcmplt | .vcmpeq => true
  | _ => false

/-- Tiles an operation reads. -/
def vReads (op : VOp) (y : VSyl) : List Nat :=
  (if vUsesA op then [y.va.toNat] else []) ++ (if vUsesB op && y.bsrc != 1 then [y.vb.toNat] else []) ++
    (if vUsesC op then [y.vc.toNat] else [])

/-- The lane mask at issue (R150, R60). -/
def laneMask (k : CoreSt) (pred : BitVec 4) (pneg : Bool) : Word64 :=
  let m := getP k pred.toNat
  if pneg then ~~~m else m

/-- B[r][j] (R149). -/
def vOperandB (k : CoreSt) (tb : Array Word32) (y : VSyl) (r j : Nat) : Word32 :=
  match y.bsrc.toNat with
  | 0 => tileGet tb r j
  | 1 => (getG k y.gs.toNat).setWidth 32
  | _ => tileGet tb 0 j

/-- Count of an arithmetic result (R154). -/
def vCount (r : Word32) (ops : List Word32) : VCount :=
  if isNaN32 r && !ops.any isNaN32 then .inv
  else if isInf32 r && ops.all isFin32 then .ovf
  else .none

/-- Result and count of one element. -/
def vElem (op : VOp) (silu : Bool) (a b c : Word32) : Word32 × VCount :=
  match op with
  | .vadd => let r := fadd a b; (r, vCount r [a, b])
  | .vsub => let r := fsub a b; (r, vCount r [a, b])
  | .vmul => let r := fmul a b; (r, vCount r [a, b])
  | .vfma => let r := ffma a b c; (r, vCount r [a, b, c])
  | .vmax => (fmax a b, .none)
  | .vmin => (fmin a b, .none)
  | .vabs => (fabs a, .none)
  | .vneg => (fneg a, .none)
  | .vmov => (b, .none)
  | .vslope => (f32OfNat (slopeCode silu a), .none)
  | _ => transOp (vCode op) a

/-- Counter effects of a list of counts. -/
def vCounts (cs : List VCount) : List Eff :=
  let n (c : VCount) := (cs.filter (fun x => x == c)).length
  (if 0 < n .inv then [.count F.VEC_CNT_INV_INV_CNT (n .inv)] else []) ++
    (if 0 < n .dz then [.count F.VEC_CNT_DZ_DZ_CNT (n .dz)] else []) ++
    (if 0 < n .ovf then [.count F.VEC_CNT_OVF_OVF_CNT (n .ovf)] else [])

/-- Enabled columns of a mask. -/
def enabled (m : Word64) : List Nat := (List.range 64).filter (bitAt m.toNat)

/-- Rows ROW0 to ROW0 + NRM1. -/
def vRows (row0 nrm1 : BitVec 6) : List Nat := (List.range (nrm1.toNat + 1)).map (fun i => row0.toNat + i)

/-- Flag effect of a write of tile `t` other than by ADRAIN, VLD and KUNP (R163). -/
def flagEff (t : Nat) (orFlags whole : Bool) : Eff := if whole then .tpoison t orFlags else .tpor t orFlags

/-- What a vector arithmetic operation does: VD, its tag and flag, counts (R149, R152, R154, R163). -/
def vArith (s : State) (c : Nat) (k : CoreSt) (op : VOp) (y : VSyl) : List Eff :=
  let m := laneMask k y.pred y.pneg
  if m = 0 then []
  else
    let ta := tileArr (getTile k y.va.toNat)
    let tb := tileArr (getTile k y.vb.toNat)
    let tc := tileArr (getTile k y.vc.toNat)
    let silu := op == .vslope && FV.eq (f32 (tileGet tc 0 0)) FV.one
    let rs := (vRows y.row0 y.nrm1).flatMap (fun r => (enabled m).map (fun j =>
      (64 * r + j, vElem op silu (tileGet ta r j) (vOperandB k tb y r j) (tileGet tc r j))))
    let flags := (vReads op y).any (tilePoison s c)
    let whole := decide (y.nrm1.toNat = 63) && m == BitVec.allOnes 64
    [.tile y.vd.toNat (rs.map (fun x => (x.1, x.2.1))), .tag y.vd.toNat 0, flagEff y.vd.toNat flags whole] ++
      vCounts (rs.map (fun x => x.2.2))

/-- What a compare does (R151); a poisoned source escapes into a predicate other than p0 (R164). -/
def vCompare (s : State) (c : Nat) (k : CoreSt) (half : Nat) (op : VOp) (y : VSyl) : List Eff :=
  let m := laneMask k y.pred y.pneg
  if m = 0 ∨ y.pd = 0 then []
  else
    let ta := tileArr (getTile k y.va.toNat)
    let tb := tileArr (getTile k y.vb.toNat)
    let r := y.row0.toNat
    let bit (j : Nat) : Bool :=
      let a := f32 (tileGet ta r j)
      let b := f32 (vOperandB k tb y r j)
      if op == .vcmplt then FV.lt a b else FV.eq a b
    let bits := (enabled m).foldl (fun acc j => if bit j then acc + 2 ^ j else acc) 0
    let old := getP k y.pd.toNat
    [.pred y.pd.toNat ((old &&& ~~~m) ||| BitVec.ofNat 64 bits)] ++
      (if (vReads op y).any (tilePoison s c) then [.escape (8 + half)] else [])

/-! ### VLD and VST (R161, R162) -/

/-- Refusal code of a VLD or VST (Table 5.4). -/
def vMemRefusal (t : Tens) (isLd : Bool) : Nat :=
  if !(if isLd then t.fmt == 0 || t.fmt == 1 || t.fmt == 2 || t.fmt == 3 || t.fmt == 4 || t.fmt == 0xB
       else t.fmt == 0 || t.fmt == 0xB) then 1
  else if t.layout = 2 then 2
  else if t.space ≠ 2 then 3
  else if 64 < t.size 0 ∨ 1 < t.size 2 * t.size 3 * t.size 4 * t.size 5 then 4
  else 0

/-- FP32 of element code `c` with block scale and per-tensor scale (R120, R128, R161, R511); an FP32 element is copied
exactly, a signalling NaN as it is (Table 5.3). -/
def decodeElem (fmt c : Nat) (blk tscale : FV) : Word32 :=
  if fmt = 0 then BitVec.ofNat 32 c
  else
  match elemFV fmt c with
  | .nan => elemNaN fmt c
  | v =>
    if fmtScaled fmt then enc32 (FV.mul (FV.mul v blk) tscale)
    else enc32 v

/-- FP32 of element (l, p) of a tensor in the partition under per-tensor scale `ts`, and whether it is uncorrectable. -/
def loadElem (k : CoreSt) (t : Tens) (ts : Word32) (l p : Nat) : Word32 × Bool :=
  let (e, u) := spmElem k t l p
  if fmtBlock t.fmt = 0 then (decodeElem t.fmt e FV.one (f32 ts), u)
  else
    let (b, v) := spmScale k t l (t.blockOf p)
    (decodeElem t.fmt e (scaleFV (fmtSmode t.fmt) b) (f32 ts), u || v)

/-- A per-tensor scale that R129 counts: zero or non-finite. -/
def badScale (w : Word32) : Bool := w.toNat % 2 ^ 31 == 0 || !isFin32 w

/-- VLD: effects, and whether it consumed uncorrectable data, when it writes nothing (R513). -/
def vLoad (k : CoreSt) (y : VSyl) : List Eff × Bool :=
  let m := laneMask k y.pred y.pneg
  if m = 0 then ([], false)
  else
    let t := (getD k y.dn.toNat).tens
    let ts := sget 0 k.tscale y.dn.toNat
    let cells := (List.range (y.nrm1.toNat + 1)).flatMap (fun i => (enabled m).map (fun j =>
      let v : Word32 × Bool := if i < t.lanes ∧ j < t.size 0 then loadElem k t ts i j else (0, false)
      (64 * (y.row0.toNat + i) + j, v)))
    let hdr := fmtScaled t.fmt && (spmHeader k t).2
    if hdr || cells.any (fun x => x.2.2) then ([], true)
    else
      ([.tile y.vd.toNat (cells.map (fun x => (x.1, x.2.1))), .tag y.vd.toNat 0, .tpoison y.vd.toNat false] ++
        (if fmtScaled t.fmt && badScale ts then [.count F.NUM_CNT_TSC_BAD_CNT 1] else []), false)

/-- FP32 to INT32 (Table 5.3) with its count. -/
def toInt32 (w : Word32) : Nat × VCount :=
  match f32 w with
  | .nan => (0, .inv)
  | .inf n => (if n then 2 ^ 31 else 2 ^ 31 - 1, .ovf)
  | .fin n m e =>
    let v : Int := if n then -(roundAt .nearest m e 0 : Int) else roundAt .nearest m e 0
    if v < -(2 ^ 31 : Int) then (2 ^ 31, .ovf)
    else if (2 ^ 31 : Int) - 1 < v then (2 ^ 31 - 1, .ovf)
    else (ofInt 32 v, .none)

/-- VST: the core with its SPM written, and effects. -/
def vStore (s : State) (c : Nat) (k : CoreSt) (half : Nat) (y : VSyl) : CoreSt × List Eff :=
  let m := laneMask k y.pred y.pneg
  if m = 0 then (k, [])
  else
    let t := (getD k y.dn.toNat).tens
    let ta := tileArr (getTile k y.va.toNat)
    let puts := (List.range (y.nrm1.toNat + 1)).flatMap (fun i => ((enabled m).filter (fun j =>
      decide (i < t.lanes ∧ j < t.size 0))).map (fun j =>
        let w := tileGet ta (y.row0.toNat + i) j
        let v : Nat × VCount := if t.fmt = 0 then (w.toNat, .none) else toInt32 w
        (i, j, v)))
    let k := puts.foldl (fun k x => spmPutElem k t x.1 x.2.1 x.2.2.1) k
    (k, vCounts (puts.map (fun x => x.2.2.2)) ++ (if tilePoison s c y.va.toNat then [.escape (8 + half)] else []))

/-! ### Reduction unit (R157 to R159) -/

/-- Pairwise tree sum of 2^n values. -/
def treeSum : Nat → List Word32 → Word32
  | 0, l => l.headD 0
  | n + 1, l => fadd (treeSum n (l.take (2 ^ n))) (treeSum n (l.drop (2 ^ n)))

/-- The value that an operation reduces for an element. -/
def xValue (op : XOp) (w : Word32) : Word32 :=
  match op with
  | .xsumsq => fmul w w
  | .xamax => if isNaN32 w then w else fabs w
  | _ => w

/-- Combine two partial results of a reduction other than XARGMAX and XNFIN. -/
def xComb (op : XOp) (a b : Word32) : Word32 :=
  match op with
  | .xsum | .xsumsq => fadd a b
  | .xmin => fmin a b
  | _ => fmax a b

/-- Fold without an initial value. -/
def foldl1 (f : Word32 → Word32 → Word32) : List Word32 → Word32
  | [] => 0
  | a :: t => t.foldl f a

def xIsInt : XOp → Bool
  | .xargmax | .xnfin => true
  | _ => false

def xIsSum : XOp → Bool
  | .xsum | .xsumsq => true
  | _ => false

/-- Index of the maximum of (index, value) pairs in order: the first NaN, else the greatest, the lowest index at a tie. -/
def argmax (l : List (Nat × Word32)) : Nat :=
  match l.find? (fun x => isNaN32 x.2) with
  | some x => x.1
  | none =>
    match l with
    | [] => 0
    | a :: t => (t.foldl (fun b x => if below b.2 x.2 then x else b) a).1

/-- A result word: a NaN is quiet (R153), also where a single element is the result. -/
def quietResult (w : Word32) : Word32 := if isNaN32 w then quiet32 w else w

/-- One result over rows `rows` of column list `cols`, by the order of R158: an FP32 word or an integer. -/
def xReduce (op : XOp) (ta : Array Word32) (rows cols : List Nat) (idx : Nat → Nat → Nat) : Word32 × Nat :=
  let rowVals (r : Nat) := cols.map (fun j => xValue op (tileGet ta r j))
  match op with
  | .xargmax => (0, argmax (rows.flatMap (fun r => cols.map (fun j => (idx r j, tileGet ta r j)))))
  | .xnfin => (0, (rows.flatMap (fun r => cols.filter (fun j => !isFin32 (tileGet ta r j)))).length)
  | _ =>
    if xIsSum op then
      (quietResult (foldl1 fadd (rows.map (fun r =>
        if cols.length = 64 then treeSum 6 (rowVals r) else foldl1 fadd (rowVals r)))), 0)
    else (quietResult (foldl1 (xComb op) (rows.flatMap rowVals)), 0)

/-- Inputs of a result, for its count. -/
def xInputs (ta : Array Word32) (rows cols : List Nat) : List Word32 :=
  rows.flatMap (fun r => cols.map (fun j => tileGet ta r j))

/-- What an X operation does. -/
def xOperate (s : State) (c : Nat) (k : CoreSt) (op : XOp) (y : XSyl) : List Eff :=
  let ta := tileArr (getTile k y.ta.toNat)
  let rows := vRows y.row0 y.nrm1
  let cols := List.range 64
  let poisoned := tilePoison s c y.ta.toNat
  let count (r : Word32) (ins : List Word32) : VCount := if xIsInt op then .none else vCount r ins
  let word (x : Word32 × Nat) : Word32 := if xIsInt op then f32OfNat x.2 else x.1
  match y.axis.toNat with
  | 0 =>
    let rs := rows.map (fun r => (64 * r, xReduce op ta [r] cols (fun _ j => j), xInputs ta [r] cols))
    [.tile y.td.toNat (rs.map (fun x => (x.1, word x.2.1))), .tag y.td.toNat 0, .tpor y.td.toNat poisoned] ++
      vCounts (rs.map (fun x => count x.2.1.1 x.2.2))
  | 1 =>
    let rs := cols.map (fun j => (j, xReduce op ta rows [j] (fun r _ => r), xInputs ta rows [j]))
    [.tile y.td.toNat (rs.map (fun x => (x.1, word x.2.1))), .tag y.td.toNat 0, .tpor y.td.toNat poisoned] ++
      vCounts (rs.map (fun x => count x.2.1.1 x.2.2))
  | _ =>
    let r := xReduce op ta rows cols (fun r j => 64 * r + j)
    let ins := xInputs ta rows cols
    let g : Word32 := (getG k y.gd.toNat).setWidth 32
    let acc := y.accg && xIsSum op
    let v := if acc then fadd r.1 g else r.1
    let ins := if acc then ins ++ [g] else ins
    [.gpr y.gd.toNat (if xIsInt op then BitVec.ofNat 64 r.2 else v.setWidth 64)] ++ vCounts [count v ins] ++
      (if poisoned then [.escape 10] else [])

end Sys2Proof.Machine
end

