-- ==== Sys2Proof/Machine/Convert.lean ====
section
/-! DEFINITION. Machine/Convert.lean: the K and Q units (R116 to R144): scales, quantising, unpacking, rotation, refusals
and the overflow and vanish counters. -/

namespace Sys2Proof.Machine

/-! ### Recipes (Table 4.6) -/

/-- Formats that a recipe accepts. -/
def recipeFmts : Nat → List Nat
  | 0 => [3, 5, 6, 7, 8, 9, 1, 2, 0, 0xA]
  | 1 => [3, 5, 6, 7, 8, 1, 2, 0]
  | 2 => [4, 3, 5, 7, 1, 2, 0]
  | 3 => [4, 3, 1, 0]
  | 4 => [3, 1, 0]
  | 5 => [3, 1, 0]
  | _ => [0]

/-- Rounding modes that a recipe accepts. -/
def recipeRnds (kind fmt : Nat) : List Nat :=
  match kind with
  | 0 => if fmt = 0xA then [0] else [0, 1]
  | 1 | 5 => [0, 1]
  | 2 | 3 | 4 => [0, 1, 2]
  | _ => [0]

/-- Formats for which a recipe accepts ROT = 1. -/
def recipeRots : Nat → List Nat
  | 0 | 1 => [5, 6, 7, 8]
  | 2 => [5, 7]
  | _ => []

/-! ### Refusals (R130, Table 4.5) -/

/-- A per-tensor scale that a Q or K operation refuses (R129): not a positive normal number. -/
def refusedScale (w : Word32) : Bool :=
  bitAt w.toNat 31 || decide (w.toNat % 2 ^ 31 < 2 ^ 23) || !isFin32 w

/-- DD is larger than 64 lanes x 64 positions, or starts inside a block. -/
def convShapeBad (t : Tens) : Bool :=
  decide (64 < t.lanes ∨ 64 < t.size 0) || (t.layout == 2 && fmtBlock t.fmt != 0 && t.cpos0 % fmtBlock t.fmt != 0)

/-- The seed of descriptor register `d`; 0 where it has no sign vector. -/
def seedOf (k : CoreSt) (d : Nat) : Nat := (sget 0 k.seeds d).toNat

/-- The scale buffer matches a KCVT of tile `ts` into register `dd` under `kind` (R123). -/
def scbMatch (k : CoreSt) (ts dd kind : Nat) : Bool :=
  k.scaleBuf.valid && k.scaleBuf.ts == ts && k.scaleBuf.dn == dd && k.scaleBuf.kind == kind

/-- Refusal of a KCVT. -/
def kcvtRefusal (k : CoreSt) (y : KSyl) : Nat :=
  let t := (getD k y.dd.toNat).tens
  let fmt := y.fmt.toNat
  let kind := y.kind.toNat
  let tag := (sget 0 k.tags y.ts.toNat).toNat
  let seed := seedOf k y.dd.toNat
  let rotBad := if y.rot then tag == 0 || tag != seed else tag != 0
  let recipeBad := !((recipeFmts kind).contains fmt && (recipeRnds kind fmt).contains y.rnd.toNat &&
    (!y.rot || (recipeRots kind).contains fmt))
  lowest [codeIf (decide (0xC ≤ fmt) || fmt != t.fmt) 1, codeIf recipeBad 2,
    codeIf (fmtBlock fmt != 0 && !scbMatch k y.ts.toNat y.dd.toNat kind) 3, codeIf rotBad 4, codeIf (t.space != 2) 5,
    codeIf (convShapeBad t) 6, codeIf (fmtScaled fmt && refusedScale (sget 0 k.tscale y.dd.toNat)) 7]
/-- Refusal of a KUNP; the RTAG that the ROT case needs is weighed only when DD lies in the partition (R130)
and its header is readable; an uncorrectable header stops the operation itself (R513). -/
def kunpRefusal (k : CoreSt) (y : KSyl) : Nat :=
  let t := (getD k y.dd.toNat).tens
  let fmt := y.fmt.toNat
  let rtag := if fmtScaled t.fmt then fieldLE (spmHeader k t).1 4 5 else 0
  lowest [codeIf (decide (0xC ≤ fmt) || fmt != t.fmt || t.fmt == 0xB) 1,
    codeIf (y.rot && t.space == 2 && !(fmtScaled t.fmt && (spmHeader k t).2) && (rtag == 0 || rtag != seedOf k y.dd.toNat)) 4, codeIf (t.space != 2) 5,
    codeIf (convShapeBad t) 6, codeIf (fmtScaled fmt && refusedScale (sget 0 k.tscale y.dd.toNat)) 7]

/-- Refusal of a QAMAX. -/
def qamaxRefusal (k : CoreSt) (y : QSyl) : Nat :=
  let t := (getD k y.dn.toNat).tens
  lowest [codeIf (fmtBlock t.fmt == 0) 1, codeIf (!(recipeFmts y.kind.toNat).contains t.fmt) 2, codeIf (t.space != 2) 5,
    codeIf (convShapeBad t) 6, codeIf (refusedScale (sget 0 k.tscale y.dn.toNat)) 7]

/-- Refusal of a QROT. -/
def qrotRefusal (k : CoreSt) (y : QSyl) : Nat :=
  if k.curVec.isNone || sget 0 k.tags y.ts.toNat != 0 then 4 else 0

/-! ### Block scales (R122, Table 4.4) -/

/-- Magnitude of a scale product: value code x Fmax x S. -/
def scaleReach (smode code : Nat) (fmax s : FV) : FV := FV.mul (FV.mul (scaleFV smode code) fmax) s

/-- Block scale of elements `xs` of a block for format `fmt` under per-tensor scale `s`. -/
def blockScale (fmt : Nat) (s : Word32) (xs : List Word32) : Nat :=
  let sm := fmtSmode fmt
  if xs.any (fun x => !isFin32 x) then (if sm = 1 then 0xFF else 0x7F)
  else
    let vs := xs.map (fun x => FV.abs (f32 x))
    if vs.all FV.isZero then scaleOne sm
    else
      let a := vs.foldl (fun m v => if FV.magLe m v then v else m) FV.zero
      if fmt = 9 then
        let sum := vs.foldl FV.add FV.zero
        match FV.div sum (FV.mul (f32 s) (.fin false vs.length 0)) with
        | .fin _ m e => max 1 (min 0x7E (roundMag .nearest 3 7 m e))
        | _ => 0x7E
      else
        let codes := if sm = 1 then List.range 255 else (List.range 0x7E).map (· + 1)
        (codes.find? (fun c => FV.magLe a (scaleReach sm c (fmtMax fmt) (f32 s)))).getD (if sm = 1 then 254 else 0x7E)

/-- The scale buffer that a QAMAX writes. -/
def qamaxScales (k : CoreSt) (y : QSyl) : Sparse Nat :=
  let t := (getD k y.dn.toNat).tens
  let b := fmtBlock t.fmt
  let ta := tileArr (getTile k y.ts.toNat)
  let s := sget 0 k.tscale y.dn.toNat
  sofFn 0 256 (fun i =>
    let r := i / 4
    let j := i % 4
    if j < 64 / b then
      blockScale t.fmt s (((List.range b).map (fun n => j * b + n)).filter (fun n => decide (n < t.size 0)) |>.map (fun n => tileGet ta r n))
    else 0)

/-! ### Encoding (R124, R125, R132) -/

/-- Counts of one KCVT element (Table 4.9). -/
structure EncCnt where
  ovf : Bool
  van : Bool
  nf : Bool
  deriving DecidableEq, Repr

def EncCnt.zero : EncCnt := ⟨false, false, false⟩

/-- Magnitude bits and sign position of a floating format. -/
def fmtMant : Nat → Nat × Int × Nat
  | 1 => (7, 127, 15)
  | 2 => (10, 15, 15)
  | 3 => (3, 7, 7)
  | 4 => (2, 15, 7)
  | 5 => (2, 3, 5)
  | 6 => (3, 1, 5)
  | 7 => (1, 1, 3)
  | 0xA => (31, 127, 39)
  | _ => (23, 127, 31)

/-- Largest finite magnitude code. -/
def fmtMaxCode : Nat → Nat
  | 1 => 0x7F7F
  | 2 => 0x7BFF
  | 3 => 0x7E
  | 4 => 0x7B
  | 5 => 0x1F
  | 6 => 0x1F
  | 7 => 7
  | 8 => 7
  | 9 => 1
  | _ => 0x7F7FFFFF

/-- Element of a block-scaled format: z = x / (S s_b), with the block scale byte. Under a finite block scale an infinite x
saturates, since |z| exceeds Fmax (R124), and a NaN x, for which the spec gives no element, is written as +0 (DESIGN
CHOICE, notes/assumptions/33.md). -/
def encBlock (fmt : Nat) (r : Rnd) (s : Word32) (code : Nat) (x : Word32) : Nat × EncCnt :=
  let sb := scaleFV (fmtSmode fmt) code
  match sb, f32 x with
  | .fin _ _ _, .fin n m e =>
    let d := FV.mul (f32 s) sb
    let reach := if fmt = 9 then FV.mul d (.fin false 3 (-1)) else FV.mul d (fmtMax fmt)
    let past := FV.magLt reach (f32 x)
    match FV.div (.fin n m e) d with
    | .fin _ zm ze =>
      let sat := FV.magLt (FV.mul d (fmtMax fmt)) (f32 x)
      if fmt = 8 ∨ fmt = 9 then
        let lim := fmtMaxCode fmt
        let v := if sat && fmt == 8 then lim else min lim (roundAt (r.signed n) zm ze 0)
        let i : Int := if n then -(v : Int) else v
        (ofInt (if fmt = 8 then 4 else 2) i, ⟨past, v == 0 && m != 0, false⟩)
      else
        let (mb, bias, sp) := fmtMant fmt
        let v := if sat then fmtMaxCode fmt else min (fmtMaxCode fmt) (roundMag (r.signed n) mb bias zm ze)
        (v + (if n then 2 ^ sp else 0), ⟨past, v == 0 && m != 0, false⟩)
    | _ => (0, EncCnt.zero)
  | .fin _ _ _, .inf n =>
    let lim := fmtMaxCode fmt
    let code := if fmt = 8 ∨ fmt = 9 then ofInt (if fmt = 8 then 4 else 2) (if n then -(lim : Int) else lim)
      else lim + if n then 2 ^ (fmtMant fmt).2.2 else 0
    (code, ⟨false, false, true⟩)
  | _, _ => (0, ⟨false, false, true⟩)

/-- Element of BF16 or FP16: y = x / S. -/
def encHalf (fmt : Nat) (r : Rnd) (s : Word32) (x : Word32) : Nat × EncCnt :=
  let (mb, bias, sp) := fmtMant fmt
  let sign (n : Bool) : Nat := if n then 2 ^ sp else 0
  let infCode := fmtMaxCode fmt + 1
  match f32 x with
  | .nan => (infCode + nanFrac x mb + sign (bitAt x.toNat 31), ⟨false, false, true⟩)
  | .inf n => (infCode + sign n, ⟨false, false, true⟩)
  | .fin n m e =>
    let past := FV.magLt (FV.mul (f32 s) (fmtMax fmt)) (f32 x)
    match FV.div (.fin n m e) (f32 s) with
    | .fin _ ym ye =>
      let v := if past && r != .nearest then fmtMaxCode fmt else min infCode (roundMag (r.signed n) mb bias ym ye)
      (v + sign n, ⟨past, v == 0 && m != 0, false⟩)
    | _ => (0, EncCnt.zero)

/-- Master-weight update (R132, R511): stored W40 code `w` plus FP32 `x`. -/
def encMaster (w : Nat) (x : Word32) : Nat × EncCnt :=
  let old := elemFV 0xA w
  let nf := !isFin32 x
  let inf40 : Nat := 0xFF * 2 ^ 31
  match old with
  | .nan => (w ||| 2 ^ 30, ⟨false, false, nf⟩)
  | _ =>
    if isNaN32 x then
      (inf40 + nanFrac x 31 + (if bitAt x.toNat 31 then 2 ^ 39 else 0), ⟨false, false, nf⟩)
    else
      match FV.add old (f32 x) with
      | .nan => (inf40 + 2 ^ 30, ⟨false, false, nf⟩)
      | .inf n => (inf40 + (if n then 2 ^ 39 else 0), ⟨false, false, nf⟩)
      | .fin n m e =>
        let v := min inf40 (roundMag .nearest 31 127 m e)
        (v + (if n then 2 ^ 39 else 0), ⟨false, v == 0 && !FV.isZero (f32 x) && !nf, nf⟩)

/-- Rounding mode of element `i` of a KCVT: the draw of RND 2 is 16 fresh random bits (R127). -/
def rndOf (rnd idx i : Nat) : Rnd :=
  match rnd with
  | 0 => .nearest
  | 1 => .zero
  | _ => .stoch ((Config.freeBits (idx + i)).toNat % 65536)

/-- Effects of the counters of R142, when they count. -/
def kcvtCounts (s : State) (c : Nat) (ctx kind fmt : Nat) (cs : List EncCnt) : List Eff :=
  let on := getF s F.NUM_CTL_CNT_EN c == 1 && (getF s F.NUM_CTL_FILT_ANY c == 1 || getF s F.NUM_CTL_FILT_CTX c == ctx)
  if on then
    let key := 4 * (16 * kind + fmt)
    let n (f : EncCnt → Bool) := (cs.filter f).length
    [.num key cs.length, .num (key + 1) (n (fun x => x.ovf)), .num (key + 2) (n (fun x => x.van)), .num (key + 3) (n (fun x => x.nf))]
  else []

/-- KCVT: the core with elements, scales and header written, its effects, and whether it consumed uncorrectable data. -/
def kcvtOperate (s : State) (c : Nat) (k : CoreSt) (y : KSyl) : CoreSt × List Eff × Bool :=
  let t := (getD k y.dd.toNat).tens
  let fmt := y.fmt.toNat
  let b := fmtBlock fmt
  let ts := sget 0 k.tscale y.dd.toNat
  let ta := tileArr (getTile k y.ts.toNat)
  let places := (List.range t.lanes).flatMap (fun l => (List.range (t.size 0)).map (fun p => (l, p)))
  let rnd (l p : Nat) := rndOf y.rnd.toNat s.freshIdx (64 * l + p)
  let olds := if fmt = 0xA then places.map (fun x => spmElem k t x.1 x.2) else []
  if olds.any (fun x => x.2) then (k, [], true)
  else
    let enc (i : Nat) (x : Nat × Nat) : Nat × EncCnt :=
      let w := tileGet ta x.1 x.2
      if fmt = 0xA then encMaster (olds.getD i (0, false)).1 w
      else if fmt = 0 then (w.toNat, ⟨false, false, !isFin32 w⟩)
      else if b = 0 then encHalf fmt (rnd x.1 x.2) ts w
      else encBlock fmt (rnd x.1 x.2) ts (sget 0 k.scaleBuf.scales (4 * x.1 + x.2 / b)) w
    let outs := places.mapIdx (fun i x => (x, enc i x))
    let k1 := outs.foldl (fun k x => spmPutElem k t x.1.1 x.1.2 x.2.1) k
    let k2 :=
      if b = 0 then k1
      else (List.range t.lanes).foldl (fun k l => (List.range (cdiv (t.size 0) b)).foldl (fun k j =>
        spmWrite k (t.scaleAddr l (t.blockOf (j * b))) [BitVec.ofNat 8 (sget 0 k.scaleBuf.scales (4 * l + j))] false) k) k1
    let rtag := if y.rot then seedOf k y.dd.toNat else 0
    let k3 := if fmtScaled fmt then spmWrite k2 t.scaleBase (headerBytes ts rtag (fmtSmode fmt) fmt y.kind.toNat) false else k2
    (k3, kcvtCounts s c (boundOf k).ctx y.kind.toNat fmt (outs.map (fun x => x.2.2)) ++
      (if tilePoison s c y.ts.toNat then [.escape 12] else []), false)

/-! ### Rotation (R134, R135) -/

/-- The sign bits of a seed. -/
def signBits (seed : Nat) : List Bool := go 32 seed
where
  /-- The next bits from a state. -/
  go : Nat → Nat → List Bool
    | 0, _ => []
    | n + 1, st => (st % 2 == 1) :: go n (if st % 2 = 1 then (st / 2) ^^^ 0xB400 else st / 2)

/-- v / sqrt 32 rounded once to FP32. -/
def overRoot32 (v : FV) : Word32 :=
  match v with
  | .fin n m e =>
    if m = 0 then enc32 (.fin n 0 0)
    else
      let r := m * m * 2 ^ 123
      let q := isqrt r
      enc32 (.fin n (2 * q + if q * q = r then 0 else 1) (e - 65))
  | v => enc32 v

/-- One group of 32 through H with signs `pre` on the inputs and `post` on the outputs (R134). An exact sum of zero is +0,
also where all 32 signed terms are -0 (the spec gives no sign; DESIGN CHOICE, notes/assumptions/33.md). -/
def hadamard (xs : Array Word32) (pre post : Nat → Bool) : List Word32 :=
  match xs.toList.find? isNaN32 with
  | some n => List.replicate 32 (quiet32 n)
  | none =>
    (List.range 32).map (fun i =>
      let terms := (List.range 32).map (fun k =>
        let neg := (popcount 5 (i &&& k) % 2 == 1) != (pre k != post i)
        let v := f32 (xs.getD k 0)
        if neg then FV.neg v else v)
      overRoot32 (terms.foldl FV.add FV.zero))

/-- Rotate a 64-column row: forward, or inverse. -/
def rotateRow (seed : Nat) (inverse : Bool) (row : List Word32) : List Word32 :=
  let d := (signBits seed).toArray
  let sign (k : Nat) : Bool := d.getD k false
  let no (_ : Nat) : Bool := false
  let one (xs : List Word32) := hadamard xs.toArray (if inverse then no else sign) (if inverse then sign else no)
  one (row.take 32) ++ one (row.drop 32)

/-- Rows of a tile, as cells, after `f` on each row. -/
def tileRows (f : Nat → List Word32) : List (Nat × Word32) :=
  (List.range 64).flatMap (fun r => (f r).mapIdx (fun j w => (64 * r + j, w)))

/-- QROT: effects. -/
def qrotOperate (k : CoreSt) (y : QSyl) : List Eff :=
  let seed := seedOf k (k.curVec.getD 0)
  let ta := tileArr (getTile k y.ts.toNat)
  [.tile y.ts.toNat (tileRows (fun r => rotateRow seed false ((List.range 64).map (tileGet ta r)))),
    .tag y.ts.toNat (BitVec.ofNat 16 seed)]

/-- KUNP: effects, and whether it consumed uncorrectable data (R128, R139, R513). Elements that the tensor does not have
enter the inverse rotation as +0.0 (DESIGN CHOICE, notes/assumptions/33.md) and are written as +0.0. -/
def kunpOperate (k : CoreSt) (y : KSyl) : List Eff × Bool :=
  let t := (getD k y.dd.toNat).tens
  let ts := sget 0 k.tscale y.dd.toNat
  let grid := (List.range 64).map (fun r => (List.range 64).map (fun j =>
    if r < t.lanes ∧ j < t.size 0 then loadElem k t ts r j else (0, false)))
  let hdr := if fmtScaled t.fmt then spmHeader k t else ([], false)
  let rtag := if fmtScaled t.fmt then fieldLE hdr.1 4 5 else 0
  if hdr.2 || grid.any (fun r => r.any (fun x => x.2)) then ([], true)
  else
    let ga := grid.toArray
    let row (r : Nat) : List Word32 :=
      let ws := (ga.getD r []).map (fun x => x.1)
      if y.rot then (rotateRow (seedOf k y.dd.toNat) true ws).mapIdx (fun j w =>
        if r < t.lanes ∧ j < t.size 0 then w else 0)
      else ws
    ([.tile y.ts.toNat (tileRows row), .tag y.ts.toNat (if y.rot then 0 else BitVec.ofNat 16 rtag), .tpoison y.ts.toNat false],
      false)

/-! ### The gate (R184, R185) -/

/-- The operation is gated. -/
def gated (y : KSyl) : Bool := (y.kind == 0 && y.fmt == 0xA) || y.kind == 4

def gateState (s : State) (c : Nat) : Nat := getF s F.BWD_GATE_STS_STATE c

end Sys2Proof.Machine
end

