-- ==== Sys2Proof/Machine/EntryCheck.lean ====
section
/-! DEFINITION. Machine/EntryCheck.lean: the fields of queue entries and descriptors, and the checks of R280 that find
the first bad byte of an entry. -/

namespace Sys2Proof.Machine

/-- Header fields of an entry (Table 10.3). -/
def entOp (e : List Byte) : Nat := fieldLE e 0 0
def entIrq (e : List Byte) : Bool := bitAt (fieldLE e 1 1) 0
def entBarrier (e : List Byte) : Bool := bitAt (fieldLE e 1 1) 1
def entUser (e : List Byte) : Nat := fieldLE e 4 7
def entNotBefore (e : List Byte) : Nat := fieldLE e 8 15

/-- Descriptor fields (Table 10.1). -/
def qRing (d : List Byte) : Nat := fieldLE d 0 7
def qCpl (d : List Byte) : Nat := fieldLE d 8 15
def qLog2n (d : List Byte) : Nat := fieldLE d 16 16
def qClass (d : List Byte) : Nat := fieldLE d 17 17
def qCtx (d : List Byte) : Nat := bitsOf (fieldLE d 18 19) 11 0
def qVector (d : List Byte) : Nat := bitsOf (fieldLE d 20 21) 10 0
def qPostOk (d : List Byte) : Bool := bitAt (fieldLE d 22 22) 0
def qIrqAll (d : List Byte) : Bool := bitAt (fieldLE d 22 22) 1
def qWdogEn (d : List Byte) : Bool := bitAt (fieldLE d 22 22) 2
def qWdogUs (d : List Byte) : Nat := fieldLE d 24 27
def qSize (d : List Byte) : Nat := 2 ^ qLog2n d

/-- The first non-zero byte of bytes lo to hi. -/
def firstNonzero (e : List Byte) (lo hi : Nat) : Option Nat :=
  ((List.range (hi + 1 - lo)).map (fun i => lo + i)).find? (fun i => (e.getD i 0) != 0)

/-- The first failing check of a list, in byte order. -/
def firstBad : List (Option Nat) → Option Nat
  | [] => none
  | some n :: _ => some n
  | none :: t => firstBad t

/-- A field check: the offset of its first byte when it fails. -/
def bad (off : Nat) (failed : Bool) : Option Nat := if failed then some off else none

/-- LAUNCH body (Table 10.5). -/
def launchBad (ncore : Nat) (e : List Byte) : Option Nat :=
  firstBad [bad 16 (fieldLE e 16 23 % 8 != 0), bad 32 (decide (ncore ≤ fieldLE e 32 33)),
    bad 34 (fieldLE e 34 35 == 0 || decide (ncore < fieldLE e 32 33 + fieldLE e 34 35)),
    bad 36 (bitAt (fieldLE e 36 36) 6), firstNonzero e 37 37, bad 38 (bitsOf (fieldLE e 38 39) 14 12 != 0),
    firstNonzero e 40 63]

/-- MCOPY body (Table 10.4). -/
def mcopyBad (e : List Byte) : Option Nat := firstNonzero e 40 63

/-- Kiln entry body (R416). -/
def kilnBad (e : List Byte) : Option Nat :=
  firstBad [bad 16 (fieldLE e 16 23 % 64 != 0), bad 24 (bitAt (fieldLE e 24 24) 6), firstNonzero e 25 63]

/-- CTX_SET body (R290). -/
def ctxSetBad (e : List Byte) : Option Nat :=
  firstBad [bad 16 (decide (4096 ≤ fieldLE e 16 17)), bad 18 (fieldLE e 18 19 == 0), bad 20 (decide (1 < fieldLE e 20 20)),
    bad 21 (fieldLE e 21 21 == 0), bad 22 (fieldLE e 22 23 == 0 || decide (128 < fieldLE e 22 23)), firstNonzero e 24 63]

/-- Bodies of the resident-set commands (Table 10.15). -/
def residentBad (op : Nat) (e : List Byte) : Option Nat :=
  match op with
  | 0x10 => firstBad [bad 16 (decide (64 ≤ fieldLE e 16 16)), bad 17 (decide (64 ≤ fieldLE e 17 17)), firstNonzero e 18 23,
      firstNonzero e 48 63]
  | 0x11 => firstBad [bad 16 (decide (64 ≤ fieldLE e 16 16)), bad 17 (decide (64 ≤ fieldLE e 17 17)), firstNonzero e 18 63]
  | 0x12 => firstBad [bad 16 (decide (64 ≤ fieldLE e 16 16)), firstNonzero e 17 63]
  | 0x13 => firstBad [bad 16 (decide (64 ≤ fieldLE e 16 16)), firstNonzero e 17 63]
  | 0x20 => firstBad [bad 16 (decide (4096 ≤ fieldLE e 16 17)), bad 18 (decide (64 ≤ fieldLE e 18 18)), firstNonzero e 19 23,
      firstNonzero e 36 63]
  | _ => firstBad [bad 16 (decide (4096 ≤ fieldLE e 16 17)), firstNonzero e 18 63]

/-- Header checks (Table 10.3). -/
def headerBad (e : List Byte) : Option Nat :=
  firstBad [bad 1 (decide (4 ≤ fieldLE e 1 1)), firstNonzero e 2 3]

/-- The opcode checks of the classes other than collective (Table 10.4). -/
def classBad (cls ncore : Nat) (e : List Byte) : Option Nat :=
  let op := entOp e
  if op = 0 then firstNonzero e 16 63
  else
    match cls with
    | 0 => if op = 1 then launchBad ncore e else some 0
    | 1 => if op = 1 then mcopyBad e else if 0x10 ≤ op ∧ op ≤ 0x12 then kilnBad e else some 0
    | 3 =>
      if op = 1 then ctxSetBad e
      else if (0x10 ≤ op ∧ op ≤ 0x13) ∨ (0x20 ≤ op ∧ op ≤ 0x22) then residentBad op e
      else some 0
    | _ => some 0

end Sys2Proof.Machine
end

