-- ==== Sys2Proof/Machine/Queues.lean ====
section
/-! DEFINITION. Machine/Queues.lean: queues, entries, admission, completion records and work items (R275 to R287). -/

namespace Sys2Proof.Machine

/-! ### The queue table -/

def queueOf (s : State) (q : Nat) : QueueSt := sget QueueSt.reset s.queues q

def setQueue (s : State) (q : Nat) (x : QueueSt) : State := { s with queues := sset QueueSt.reset s.queues q x }

def queDescAddr (s : State) (q : Nat) : Nat := getPair s F.QUE_TBL_BASE_LO_BASE_LO F.QUE_TBL_BASE_HI_BASE_HI 0 + 64 * q

/-- Change a queue and write its module fields, bytes 32 to 37, to the descriptor. -/
def putQueue (s : State) (q : Nat) (x : QueueSt) : State :=
  devWrite (setQueue s q x) (queDescAddr s q + 32)
    (leBytes 2 x.head ++ leBytes 2 x.mtail ++ leBytes 1 x.state ++ leBytes 1 (if x.phase then 1 else 0))

def entryOf (s : State) (q i : Nat) : Option EntrySt := sget none (queueOf s q).entries i

/-- Change an outstanding entry. -/
def setEntry (s : State) (q i : Nat) (e : Option EntrySt) : State :=
  let x := queueOf s q
  setQueue s q { x with entries := sset none x.entries i e }

/-- Read bytes of a ring: a DPA for the management class, a DVA of the context through the IOD's locked translations
otherwise (R263, R275). -/
def ringRead (s : State) (d : List Byte) (a n : Nat) : List Byte × Bool × State :=
  if qClass d = 3 then devRead s a n
  else
    match dvaRead s iodDie (qCtx d) a n .normal with
    | (.ok (b, p), s) => (b, p, s)
    | (.error _, s) => (List.replicate n 0, true, s)

/-- Write bytes of a ring. -/
def ringWrite (s : State) (d : List Byte) (a : Nat) (bs : List Byte) : State :=
  if qClass d = 3 then devWrite s a bs
  else (dvaWrite s iodDie (qCtx d) a bs false .normal).2

/-! ### Resident model set (R304 to R309) -/

def slotOf (s : State) (n : Nat) : SlotSt := sget SlotSt.reset s.slots n
def setSlot (s : State) (n : Nat) (x : SlotSt) : State := { s with slots := sset SlotSt.reset s.slots n x }
def modelOf (s : State) (m : Nat) : ModelSt := sget ModelSt.reset s.models m
def setModel (s : State) (m : Nat) (x : ModelSt) : State := { s with models := sset ModelSt.reset s.models m x }
def adpOf (s : State) (a : Nat) : AdpSt := sget AdpSt.reset s.adapters a
def setAdp (s : State) (a : Nat) (x : AdpSt) : State := { s with adapters := sset AdpSt.reset s.adapters a x }

def adpVer (x : AdpSt) (v : Nat) : AdpVer := if v = 0 then x.v0 else x.v1
def setAdpVer (x : AdpSt) (v : Nat) (y : AdpVer) : AdpSt := if v = 0 then { x with v0 := y } else { x with v1 := y }

/-- The current version of an adapter, if it has one. -/
def adpCurrent (x : AdpSt) : Option Nat := if (adpVer x x.cur).state = 2 then some x.cur else none

/-- The counts that an entry took at admission are given back when it completes (R305). -/
def releaseBinding (s : State) (e : EntrySt) : State :=
  let s := match e.slot with
    | some n => setSlot s n { slotOf s n with inflight := (slotOf s n).inflight - 1 }
    | none => s
  match e.adapter with
  | some (a, v) =>
    let x := adpOf s a
    setAdp s a (setAdpVer x v { adpVer x v with inflight := (adpVer x v).inflight - 1 })
  | none => s

/-! ### Completion (R283, R286, R342) -/

/-- The 32 bytes of a completion record (Table 10.6). -/
def cplBytes (e : EntrySt) (i status detail : Nat) (late : Bool) (ft : Nat) : List Byte :=
  leBytes 4 (entUser e.raw) ++ leBytes 1 status ++
    leBytes 1 ((if e.phase then 1 else 0) + (if late then 2 else 0) + (if e.poison then 4 else 0)) ++ leBytes 2 i ++
    leBytes 8 ft ++ leBytes 8 detail ++ leBytes 4 (min (e.engNs / 1000) (2 ^ 32 - 1)) ++ leBytes 4 e.epoch

/-- Statuses counted on the QUE and RES pages. -/
def countStatus (s : State) (status : Nat) : State :=
  match status with
  | 4 => inc s F.QUE_CNT1_TIMEOUT_CNT 0
  | 6 => inc s F.QUE_CNT1_BAD_ENTRY_CNT 0
  | 7 => inc s F.RES_CNT_NO_MODEL_CNT 0
  | 8 => inc s F.RES_CNT_MISMATCH_CNT 0
  | _ => s

/-- Complete entry `i` of queue `q`: counts given back, timers disarmed, record written, then the MSI-X message when asked
for. -/
def completeEntry (s : State) (q i status detail : Nat) (late : Bool) : State :=
  match entryOf s q i with
  | none => s
  | some e =>
    let x := queueOf s q
    let s := setQueue s q { x with entries := sset none x.entries i none, order := x.order.erase i }
    let s := { s with items := s.items.filter (fun w => !(w.q == q && w.i == i)), launches := s.launches.erase (q, i) }
    let s := disarm (disarm s iodDie (.queueTimeout q i)) iodDie (.notBefore q i)
    let s := countStatus (releaseBinding s e) status
    let s := ringWrite s x.desc (qCpl x.desc + 32 * i) (cplBytes e i status detail late (ftNow s))
    if entIrq e.raw || qIrqAll x.desc then sendMsix s (qVector x.desc) else s

/-- A completion reaches the queue logic: it meets the entry's timeout under R342, or finds that the timeout has acted. -/
def finishEntry (s : State) (q i status detail : Nat) : State :=
  match entryOf s q i with
  | none =>
    let x := queueOf s q
    if x.timedOut.contains i then completeAfter (setQueue s q { x with timedOut := x.timedOut.erase i }) iodDie else s
  | some _ =>
    let (late, s) := completeInTime s iodDie (.queueTimeout q i)
    completeEntry s q i status detail late

/-! ### Doorbells and queue commands (R276 to R278) -/

/-- QUE_DB: ignored, and counted, when the queue is not ENABLED or takes posts (R276). -/
def queDb (s : State) (q tail : Nat) : State :=
  let x := queueOf s q
  if x.state ≠ 1 ∨ qPostOk x.desc then inc s F.QUE_CNT0_DB_IGNORE_CNT 0
  else putQueue s q { x with mtail := tail % qSize x.desc }

def execQueDb (q : QueueId) (tail : BitVec 16) (s : State) : Host.Outcome State Fault Refusal :=
  .next (queDb s q tail.toNat)

/-- Result of a queue command. -/
def queResult (s : State) (r : Nat) : State := setF (setF s F.QUE_CMD_STS_RESULT 0 r) F.QUE_CMD_STS_BUSY 0 0

/-- The descriptor is well formed (R278, Table 10.1): rings of a context lie below DVA 2^48, which R257 translates. -/
def descOk (d : List Byte) : Bool :=
  (qClass d == 3 || decide (qRing d + 64 * qSize d ≤ 2 ^ 48 ∧ qCpl d + 32 * qSize d ≤ 2 ^ 48)) && qRing d % 4096 == 0 && qCpl d % 4096 == 0 && decide (4 ≤ qLog2n d ∧ qLog2n d ≤ 16 ∧ qClass d ≤ 3) &&
    (!qWdogEn d || qWdogUs d != 0)

/-- A command meets BUSY: ignored with OVERRUN (R310). -/
def queBusy (s : State) : Bool := getF s F.QUE_CMD_STS_BUSY 0 == 1

/-- QUE_CMD ENABLE (R278). -/
def queEnable (s : State) (q : Nat) : State :=
  if queBusy s then setF s F.QUE_CMD_STS_OVERRUN 0 1
  else
    let x := queueOf s q
    if x.state ≠ 0 then queResult s 1
    else
      let (d, p, s) := devRead s (queDescAddr s q) 64
      let fresh : QueueSt := { QueueSt.reset with state := 1, desc := d }
      if p then queResult s 4
      else if !descOk d then queResult s 3
      else if qClass d = 3 then
        if qRing d + 64 * qSize d > dpaLimit ∨ qCpl d + 32 * qSize d > dpaLimit then queResult s 3
        else queResult (putQueue s q fresh) 0
      else
        let k := qCtx d
        let c := ctxOf s k
        if c.state ≠ 1 then queResult s 3
        else
          match pinCheck s k c.ptRoot c.gen true (pagesOf (qRing d) (64 * qSize d) ++ pagesOf (qCpl d) (32 * qSize d)) with
          | (.ok l, s) =>
            if locksFit s iodDie l then queResult (putQueue (lockAll s iodDie l) q fresh) 0 else queResult s 2
          | (.error _, s) => queResult s 2

def execQueEnable (q : QueueId) (s : State) : Host.Outcome State Fault Refusal := .next (queEnable s q)

/-- QUE_CMD DISABLE: fetching stops; it completes once the fetched entries have (R278). -/
def queDisable (s : State) (q : Nat) : State :=
  if queBusy s then setF s F.QUE_CMD_STS_OVERRUN 0 1
  else
    let x := queueOf s q
    if x.state = 0 then queResult s 1
    else setF (setQueue s q { x with disabling := true }) F.QUE_CMD_STS_BUSY 0 1

def execQueDisable (q : QueueId) (s : State) : Host.Outcome State Fault Refusal := .next (queDisable s q)

/-- QUE_DISABLED: every fetched entry has completed; the queue is DISABLED. -/
def queDisabled (s : State) (q : Nat) : State :=
  let x := queueOf s q
  if x.disabling ∧ x.order = [] then
    queResult (putQueue s q { x with state := 0, disabling := false }) 0
  else s

def execQueDisabled (q : QueueId) (s : State) : Host.Outcome State Fault Refusal := .next (queDisabled s q)

/-- QUE_CMD RESUME, from HALTED. -/
def queResume (s : State) (q : Nat) : State :=
  if queBusy s then setF s F.QUE_CMD_STS_OVERRUN 0 1
  else
    let x := queueOf s q
    if x.state = 2 then queResult (putQueue s q { x with state := 1 }) 0 else queResult s 1

def execQueResume (q : QueueId) (s : State) : Host.Outcome State Fault Refusal := .next (queResume s q)

/-! ### Fetch and admission (R276, R282, R305) -/

/-- Fetched entries that have not started. -/
def unstarted (x : QueueSt) : Nat :=
  (x.order.filter (fun i => match sget none x.entries i with | some e => decide (e.stage < 4) | none => false)).length

/-- ENTRY_FETCH: the entry at HEAD, up to eight ahead of those started (R276). One that is read poisoned, of which the spec says
nothing, is kept with a reserved opcode and so completes with BAD_ENTRY (DESIGN CHOICE, notes/assumptions/37.md). -/
def entryFetch (s : State) (q : Nat) : State :=
  let x := queueOf s q
  if x.state = 1 ∧ ¬x.disabling ∧ x.head ≠ x.mtail ∧ unstarted x < 8 then
    let (raw, p, s) := ringRead s x.desc (qRing x.desc + 64 * x.head) 64
    let e : EntrySt := { raw := if p then 0xFF :: raw.drop 1 else raw, phase := x.phase, stage := 0, slot := none,
                         epoch := 0, adapter := none, poison := false, engNs := 0, poster := sget none x.posters x.head, prog := 0 }
    let x := queueOf s q
    let head := (x.head + 1) % qSize x.desc
    putQueue s q { x with entries := sset none x.entries x.head (some e), order := x.order ++ [x.head], head := head,
                          phase := if head = 0 then !x.phase else x.phase }
  else s

def execEntryFetch (q : QueueId) (s : State) : Host.Outcome State Fault Refusal := .next (entryFetch s q)

/-- Entries of the queue fetched before `i`. -/
def earlier (x : QueueSt) (i : Nat) : List Nat := x.order.takeWhile (fun j => j != i)

/-- Every earlier entry has been admitted: the queue's order of admission. -/
def inOrder (x : QueueSt) (i : Nat) : Bool :=
  (earlier x i).all (fun j => match sget none x.entries j with | some e => decide (3 ≤ e.stage) | none => true)

/-- The binding of a LAUNCH to the resident set: slot, epoch and adapter version; a status and DETAIL when it has no
admissible one; nothing when it asks for none (R305, R309). -/
def launchBinding (s : State) (e : List Byte) : Except (Nat × Nat) (Option Nat × Nat × Option (Nat × Nat)) :=
  let mdl := fieldLE e 36 36
  let adp := fieldLE e 38 39
  let mv := bitAt mdl 7
  let av := bitAt adp 15
  let slot := if mv then (modelOf s (mdl % 64)).slot else none
  let epoch := match slot with | some n => (slotOf s n).epoch | none => 0
  if mv && slot.isNone then .error (7, 0)
  else if !av then .ok (slot, epoch, none)
  else
    let a := adp % 4096
    match adpCurrent (adpOf s a) with
    | none => .error (7, 0)
    | some v =>
      let ver := adpVer (adpOf s a) v
      if mv && ver.model != mdl % 64 then .error (7, 0)
      else if ver.base ≠ 0 ∧ ver.base ≠ epoch then .error (8, epoch + ver.base * 2 ^ 32)
      else .ok (slot, epoch, some (a, v))

/-- Take the counts of a binding (R305). -/
def takeBinding (s : State) (slot : Option Nat) (adapter : Option (Nat × Nat)) : State :=
  let s := match slot with
    | some n =>
      let y := slotOf s n
      setSlot s n { y with inflight := y.inflight + 1, admits := y.admits + 1, lastFt := ftNow s }
    | none => s
  match adapter with
  | some (a, v) =>
    let x := adpOf s a
    setAdp s a (setAdpVer x v { adpVer x v with inflight := (adpVer x v).inflight + 1 })
  | none => s

/-- Admit: the queue timeout is armed (R282), and a LAUNCH takes its place in the order of admission (R281). -/
def admitEntry (s : State) (q i : Nat) (e : EntrySt) : State :=
  let d := (queueOf s q).desc
  let s := setEntry s q i (some { e with stage := 3 })
  let s := if qClass d = 0 ∧ entOp e.raw = 1 then { s with launches := s.launches ++ [(q, i)] } else s
  if qWdogEn d then armTimeout s iodDie (ftNow s + 1000 * qWdogUs d) (.queueTimeout q i) else s

/-- The context of a queue's entries may be admitted: not a management class, then ACTIVE and not held back by a
CTX_SET (R290). -/
def admissible (s : State) (d : List Byte) : Bool :=
  qClass d == 3 || ((ctxOf s (qCtx d)).state == 1 && !(ctxOf s (qCtx d)).setHold)

/-- NOTBEFORE_FIRING: the event of an entry's NOTBEFORE has fired (R282). -/
def notbeforeFiring (s : State) (q i : Nat) : State :=
  if hasFired s iodDie (.notBefore q i) then
    let s := takeFired s iodDie (.notBefore q i)
    match entryOf s q i with
    | some e => if e.stage = 1 then setEntry s q i (some { e with stage := 2 }) else s
    | none => s
  else s

def execNotbeforeFiring (q : QueueId) (i : EntryIdx) (s : State) : Host.Outcome State Fault Refusal :=
  .next (notbeforeFiring s q i)

/-- ENTRY_NOP: an admitted NOP completes with OK (Table 10.4). -/
def execEntryNop (q : QueueId) (i : EntryIdx) (s : State) : Host.Outcome State Fault Refusal :=
  .next (match entryOf s q i with
    | some e => if e.stage = 3 ∧ entOp e.raw = 0 then finishEntry s q i 0 0 else s
    | none => s)

/-! ### Commands of the resident set (Table 10.15) -/

/-- The entry is admitted, of the management class, with opcode `op`. -/
def mgmtReady (s : State) (q i op : Nat) : Option (List Byte) :=
  match entryOf s q i with
  | some e => if e.stage = 3 ∧ qClass (queueOf s q).desc = 3 ∧ entOp e.raw = op then some e.raw else none
  | none => none

/-- Mark an entry as started: it waits for its condition. -/
def markStarted (s : State) (q i : Nat) : State :=
  match entryOf s q i with
  | some e => setEntry s q i (some { e with stage := 4 })
  | none => s

/-- SLOT_ALLOC (R304). -/
def slotAlloc (s : State) (q i : Nat) : State :=
  match mgmtReady s q i 0x10 with
  | none => s
  | some e =>
    let n := fieldLE e 16 16
    if (slotOf s n).state = 0 then
      finishEntry (setSlot s n { SlotSt.reset with
        state := 1, model := fieldLE e 17 17, imgDva := fieldLE e 24 31, imgDpa := fieldLE e 32 39,
        size := fieldLE e 40 47 }) q i 0 0
    else finishEntry s q i 9 (slotOf s n).state

def execSlotAlloc (q : QueueId) (i : EntryIdx) (s : State) : Host.Outcome State Fault Refusal := .next (slotAlloc s q i)

/-- A started kiln job of queue `q` names slot `n` (R423): from admission until it completes. -/
def kilnNames (s : State) (n : Nat) : Bool :=
  s.queues.any (fun x => qClass x.2.desc == 1 && x.2.entries.any (fun y => match y.2 with
    | some e => decide (3 ≤ e.stage) && decide (0x10 ≤ entOp e.raw) && bitAt (fieldLE e.raw 24 24) 7 &&
        fieldLE e.raw 24 24 % 64 == n
    | none => false))

/-- The indivisible step of MODEL_FLIP (R306), or its wait for kiln jobs that name the slot. -/
def modelFlip (s : State) (q i : Nat) : State :=
  match mgmtReady s q i 0x11 with
  | none => s
  | some e =>
    let m := fieldLE e 16 16
    let n := fieldLE e 17 17
    let x := slotOf s n
    if x.state ≠ 1 ∨ x.model ≠ m then finishEntry s q i 9 x.state
    else if kilnNames s n then s
    else
      let md := modelOf s m
      let ep := (md.lastEpoch + 1) % 2 ^ 32
      let detail (old : Nat) := old + n * 256 + (ftNow s % 2 ^ 48) * 2 ^ 16
      let s := setSlot s n { x with state := 2, epoch := ep }
      let s := setModel s m ⟨some n, ep⟩
      match md.slot with
      | some o => markStarted (setSlot s o { slotOf s o with state := 3, waiter := some (q, i, detail o) }) q i
      | none => finishEntry s q i 0 (detail 255)

def execModelFlip (q : QueueId) (i : EntryIdx) (s : State) : Host.Outcome State Fault Refusal := .next (modelFlip s q i)

/-- MODEL_RETIRE (R307). -/
def modelRetire (s : State) (q i : Nat) : State :=
  match mgmtReady s q i 0x12 with
  | none => s
  | some e =>
    let m := fieldLE e 16 16
    match (modelOf s m).slot with
    | some o =>
      let s := setModel s m { modelOf s m with slot := none }
      markStarted (setSlot s o { slotOf s o with state := 3, waiter := some (q, i, 0) }) q i
    | none => finishEntry s q i 9 0

def execModelRetire (q : QueueId) (i : EntryIdx) (s : State) : Host.Outcome State Fault Refusal :=
  .next (modelRetire s q i)

/-- SLOT_ABANDON: a LOADING slot that no kiln job names. -/
def slotAbandon (s : State) (q i : Nat) : State :=
  match mgmtReady s q i 0x13 with
  | none => s
  | some e =>
    let n := fieldLE e 16 16
    if (slotOf s n).state = 1 ∧ ¬kilnNames s n then finishEntry (setSlot s n SlotSt.reset) q i 0 0
    else finishEntry s q i 9 (slotOf s n).state

def execSlotAbandon (q : QueueId) (i : EntryIdx) (s : State) : Host.Outcome State Fault Refusal :=
  .next (slotAbandon s q i)

/-- SLOT_EMPTIED: a RETIRING slot with no entry in flight becomes EMPTY, and the entry that waits completes (R306). -/
def slotEmptied (s : State) (n : Nat) : State :=
  let x := slotOf s n
  if x.state = 3 ∧ x.inflight = 0 then
    let s := setSlot s n SlotSt.reset
    match x.waiter with
    | some (q, i, d) => finishEntry s q i 0 d
    | none => s
  else s

def execSlotEmptied (sl : Fin 64) (s : State) : Host.Outcome State Fault Refusal := .next (slotEmptied s sl)

/-- ADAPTER_SET: the version that is not current becomes SET when EMPTY (R308). -/
def adapterSet (s : State) (q i : Nat) : State :=
  match mgmtReady s q i 0x20 with
  | none => s
  | some e =>
    let a := fieldLE e 16 17
    let x := adpOf s a
    let v := 1 - x.cur
    if (adpVer x v).state = 0 then
      finishEntry (setAdp s a (setAdpVer x v { AdpVer.reset with
        state := 1, model := fieldLE e 18 18, dva := fieldLE e 24 31, base := fieldLE e 32 35 })) q i 0 0
    else finishEntry s q i 9 (adpVer x v).state

def execAdapterSet (q : QueueId) (i : EntryIdx) (s : State) : Host.Outcome State Fault Refusal :=
  .next (adapterSet s q i)

/-- ADAPTER_FLIP (R308). -/
def adapterFlip (s : State) (q i : Nat) : State :=
  match mgmtReady s q i 0x21 with
  | none => s
  | some e =>
    let a := fieldLE e 16 17
    let x := adpOf s a
    let v := 1 - x.cur
    if (adpVer x v).state ≠ 1 then finishEntry s q i 9 (adpVer x v).state
    else
      let old := adpVer x x.cur
      let had := old.state == 2
      let detail := (if had then x.cur else 255) + v * 256 + (ftNow s % 2 ^ 48) * 2 ^ 16
      let x' := setAdpVer x v { adpVer x v with state := 2 }
      let x' := if had then setAdpVer x' x.cur { old with state := 3, waiter := some (q, i, detail) } else x'
      let s := setAdp s a { x' with cur := v }
      if had then markStarted s q i else finishEntry s q i 0 detail

def execAdapterFlip (q : QueueId) (i : EntryIdx) (s : State) : Host.Outcome State Fault Refusal :=
  .next (adapterFlip s q i)

/-- ADAPTER_CLEAR: no current version; the old one RETIRING (Table 10.15). -/
def adapterClear (s : State) (q i : Nat) : State :=
  match mgmtReady s q i 0x22 with
  | none => s
  | some e =>
    let a := fieldLE e 16 17
    let x := adpOf s a
    let old := adpVer x x.cur
    if old.state = 2 then finishEntry (setAdp s a (setAdpVer x x.cur { old with state := 3 })) q i 0 0
    else finishEntry s q i 9 old.state

def execAdapterClear (q : QueueId) (i : EntryIdx) (s : State) : Host.Outcome State Fault Refusal :=
  .next (adapterClear s q i)

/-- ADAPTER_VERSION_EMPTIED: a RETIRING version with no entry in flight becomes EMPTY (R308). -/
def adapterVersionEmptied (s : State) (a v : Nat) : State :=
  let x := adpOf s a
  let y := adpVer x v
  if y.state = 3 ∧ y.inflight = 0 then
    let s := setAdp s a (setAdpVer x v AdpVer.reset)
    match y.waiter with
    | some (q, i, d) => finishEntry s q i 0 d
    | none => s
  else s

def execAdapterVersionEmptied (a : Fin 4096) (ver : Fin 2) (s : State) : Host.Outcome State Fault Refusal :=
  .next (adapterVersionEmptied s a ver)

/-! ### Posts (R287) -/

/-- The IOD takes a post of virtual core `v` of context `k` at generation `g` to queue `q`: written at MTAIL, or dropped
and counted; whether it was taken. -/
def takePost (s : State) (q k g v : Nat) (ent : List Byte) : Bool × State :=
  let x := queueOf s q
  let drop (s : State) : Bool × State := (false, inc s F.QUE_CNT0_QPOST_DROP_CNT 0)
  if x.state ≠ 1 ∨ ¬qPostOk x.desc ∨ 3 ≤ qClass x.desc ∨ qCtx x.desc ≠ k ∨ (ctxOf s k).gen ≠ g then drop s
  else
    let (ack, _, s) := devRead s (queDescAddr s q + 28) 2
    let n := qSize x.desc
    if (x.mtail + n - leNat ack % n) % n = n - 1 then drop s
    else
      let s := ringWrite s x.desc (qRing x.desc + 64 * x.mtail) ent
      let y := queueOf s q
      (true, putQueue s q { y with mtail := (x.mtail + 1) % n, posters := sset none y.posters x.mtail (some v) })

/-! ### Work items (R281) -/


def itemOf (s : State) (q i : Nat) : Option WorkItem := s.items.find? (fun w => w.q == q && w.i == i)

/-- Change a work item. -/
def modItem (s : State) (q i : Nat) (f : WorkItem → WorkItem) : State :=
  { s with items := s.items.map (fun w => if w.q = q ∧ w.i = i then f w else w) }

/-- The next work item of a resident virtual core that runs none starts on its core: g0 to g3 set, first bundle at ENTRY,
the instruction cache invalid (R48, R281). -/
def startNext (s : State) (k v : Nat) : State :=
  let x := vcOf s k v
  match x.cur, x.items with
  | none, (q, i) :: t =>
    if x.dir = 1 then
      match itemOf s q i with
      | some w =>
        let s := setVc s k v { x with cur := some (q, i), items := t }
        let s := modCore s x.core (fun c =>
          let c := setG (setG (setG (setG c 0 w.arg) 1 w.img) 2 w.adp) 3 (w.epoch.setWidth 64)
          { c with pc := w.pc, hdr := w.pc, icache := [], fetched := none, skip := false, halting := false, item := some (q, i) })
        setF s F.CORE_STS_STATE x.core 1
      | none => setVc s k v { x with items := t }
    else s
  | _, _ => s

/-- No LAUNCH of context `k` admitted before entry `i` of queue `q` has still to start. -/
def launchTurn (s : State) (k q i : Nat) : Bool :=
  (s.launches.takeWhile (fun p => p != (q, i))).all (fun p => qCtx (queueOf s p.1).desc != k)

/-- LAUNCH: an admitted LAUNCH becomes a work item of its virtual cores, in the order of admission. -/
def launch (s : State) (q i : Nat) : State :=
  match entryOf s q i with
  | none => s
  | some e =>
    let d := (queueOf s q).desc
    if e.stage = 3 ∧ qClass d = 0 ∧ entOp e.raw = 1 ∧ launchTurn s (qCtx d) q i then
      let k := qCtx d
      let img := match e.slot with | some n => (slotOf s n).imgDva | none => 0
      let adp := match e.adapter with | some (a, v) => (adpVer (adpOf s a) v).dva | none => 0
      let w : WorkItem :=
        { q := q
          i := i
          ctx := k
          vc0 := fieldLE e.raw 32 33
          cnt := fieldLE e.raw 34 35
          pc := BitVec.ofNat 64 (fieldLE e.raw 16 23)
          arg := BitVec.ofNat 64 (fieldLE e.raw 24 31)
          img := BitVec.ofNat 64 img
          adp := BitVec.ofNat 64 adp
          epoch := BitVec.ofNat 32 e.epoch
          halted := [] }
      let s := setEntry { s with items := s.items ++ [w], launches := s.launches.erase (q, i) } q i (some { e with stage := 4 })
      (List.range w.cnt).foldl (fun s j =>
        let v := w.vc0 + j
        let x := vcOf s k v
        startNext (setVc s k v { x with items := x.items ++ [(q, i)] }) k v) s
    else s

def execLaunch (q : QueueId) (i : EntryIdx) (s : State) : Host.Outcome State Fault Refusal := .next (launch s q i)

/-- Every core of a work item has executed HALT. -/
def itemDone (w : WorkItem) : Bool := (List.range w.cnt).all (fun j => w.halted.contains (w.vc0 + j))

/-- WORK_ITEM_COMPLETE: the entry completes with OK (R281). A completion that comes after its timeout has acted is counted
(R342). -/
def workItemComplete (s : State) (q i : Nat) : State :=
  match itemOf s q i with
  | some w => if itemDone w then finishEntry s q i 0 0 else s
  | none => if (entryOf s q i).isNone then finishEntry s q i 0 0 else s

def execWorkItemComplete (q : QueueId) (i : EntryIdx) (s : State) : Host.Outcome State Fault Refusal :=
  .next (workItemComplete s q i)

end Sys2Proof.Machine
end

