-- ==== Sys2Proof/Machine/Bundle.lean ====
section
/-! DEFINITION. Machine/Bundle.lean: the Quiga bundle (R44 to R53): headers, syllables as words, the registers they read
and write, and the decode checks of R47. -/

namespace Sys2Proof.Machine

/-! ### Opcodes (Table 2.8) -/

def sOps : List (Nat × SOp) :=
  [(0x00, .nop), (0x01, .add), (0x02, .sub), (0x03, .mul), (0x04, .mulh), (0x05, .and), (0x06, .or), (0x07, .xor),
   (0x08, .shl), (0x09, .shr), (0x0A, .sar), (0x0B, .min), (0x0C, .max), (0x0D, .mov), (0x0E, .movhi), (0x10, .cmpeq),
   (0x11, .cmpne), (0x12, .cmplt), (0x13, .cmpltu), (0x14, .cmple), (0x15, .cmpleu), (0x18, .pand), (0x19, .por),
   (0x1A, .pxor), (0x1B, .pnot), (0x1C, .pmov), (0x1D, .pget), (0x20, .popc), (0x21, .clz), (0x28, .rdsr), (0x29, .wrsr)]

def cOps : List (Nat × COp) :=
  [(0x01, .br), (0x02, .brr), (0x03, .call), (0x04, .ret), (0x05, .loop), (0x06, .halt), (0x07, .stop)]

def mOps : List (Nat × MOp) :=
  [(0x01, .ld), (0x02, .lds), (0x03, .st), (0x04, .descLd), (0x05, .descSv), (0x06, .descAdv), (0x07, .descSts)]

def dOps : List (Nat × DOp) :=
  [(0x10, .cpy), (0x11, .xp), (0x12, .gath), (0x13, .scat), (0x14, .scadd), (0x15, .push), (0x16, .pop)]

def aOps : List (Nat × AOp) :=
  [(0x01, .aload), (0x02, .amm), (0x03, .adist), (0x04, .adrain), (0x05, .afill), (0x06, .aclr)]

def vOps : List (Nat × VOp) :=
  [(0x01, .vadd), (0x02, .vsub), (0x03, .vmul), (0x04, .vfma), (0x05, .vmax), (0x06, .vmin), (0x07, .vabs), (0x08, .vneg),
   (0x09, .vmov), (0x0A, .vcmplt), (0x0B, .vcmpeq), (0x10, .vexp), (0x11, .vlog), (0x12, .vrcp), (0x13, .vrsq),
   (0x14, .vsqrt), (0x15, .vtanh), (0x16, .vsig), (0x17, .vgelu), (0x18, .vsilu), (0x19, .vslope), (0x20, .vld), (0x21, .vst)]

def xOps : List (Nat × XOp) :=
  [(0x01, .xsum), (0x02, .xsumsq), (0x03, .xmax), (0x04, .xmin), (0x05, .xamax), (0x06, .xargmax), (0x07, .xnfin)]

def yOps : List (Nat × YOp) :=
  [(0x01, .wdma), (0x02, .weng), (0x03, .sig), (0x04, .tokw), (0x05, .twait), (0x06, .fence), (0x07, .qpost)]

def kOps : List (Nat × KOp) := [(0x01, .kcvt), (0x02, .kunp)]

def qOps : List (Nat × QOp) := [(0x01, .qamax), (0x02, .qseed), (0x03, .qrot), (0x04, .qtsc)]

/-- The operation of an opcode. -/
def opOf {α : Type} (l : List (Nat × α)) (c : Nat) : Option α := (l.find? (fun e => e.1 == c)).map (fun e => e.2)

/-- The opcode of an operation. -/
def codeOf {α : Type} [DecidableEq α] (l : List (Nat × α)) (o : α) : Nat :=
  match l.find? (fun e => decide (e.2 = o)) with
  | some e => e.1
  | none => 0

/-! ### Syllables as words (Table 2.5) -/

/-- Bit `n` of a word. -/
def bitW (w : Word64) (n : Nat) : Bool := w.getLsbD n

/-- The syllable of slot `slot` (Table 2.4) that word `w` holds; none when its opcode is absent from Table 2.8. -/
def decodeSyl (slot : Nat) (w : Word64) : Option Syl :=
  let f (lo n : Nat) : BitVec n := w.extractLsb' lo n
  let opc := (f 0 8).toNat
  let pred := f 8 4
  let pneg := bitW w 12
  match slot with
  | 0 | 1 => (opOf sOps opc).map (fun o => .s o ⟨pred, pneg, f 13 6, f 19 6, f 25 6, bitW w 31, f 32 32⟩)
  | 2 => (opOf cOps opc).map (fun o => .c o ⟨pred, pneg, f 13 6, f 32 32⟩)
  | 3 | 4 =>
    match opOf mOps opc with
    | some o => some (.m o ⟨pred, pneg, f 13 6, f 19 6, f 25 3, f 28 4, f 32 32⟩)
    | none => (opOf dOps opc).map (fun o => .d o ⟨pred, pneg, f 13 5, f 18 5, f 23 5, f 28 6, f 34 4⟩)
  | 5 | 6 | 7 => (opOf aOps opc).map (fun o => .a (Fin.ofNat 3 (slot - 5)) o
      ⟨pred, pneg, f 13 2, f 15 5, f 20 5, f 25 3, f 28 3, f 31 3, bitW w 34, bitW w 35, f 48 16⟩)
  | 8 | 9 => (opOf vOps opc).map (fun o => .v (Fin.ofNat 2 (slot - 8)) o
      ⟨pred, pneg, f 13 3, f 16 3, f 19 3, f 22 3, f 25 6, f 31 6, f 37 2, f 39 6, f 45 5, f 50 4⟩)
  | 10 => (opOf xOps opc).map (fun o => .x o ⟨pred, pneg, f 13 3, f 16 2, f 18 3, f 21 6, bitW w 27, f 28 6, f 34 6⟩)
  | 11 => (opOf yOps opc).map (fun o => .y o ⟨pred, pneg, f 13 6, f 19 6, f 32 32⟩)
  | 12 => (opOf kOps opc).map (fun o => .k o ⟨pred, pneg, f 13 3, f 16 5, f 21 4, f 25 2, f 27 3, bitW w 30⟩)
  | 13 => (opOf qOps opc).map (fun o => .q o ⟨pred, pneg, f 13 3, f 16 5, f 21 6, f 27 3⟩)
  | _ => none

/-- Bits [12:0] of a syllable (R49). -/
def sylHead (opc : Nat) (pred : BitVec 4) (pneg : Bool) : BitVec 13 :=
  BitVec.ofBool pneg ++ pred ++ BitVec.ofNat 8 opc

/-- The word of a syllable, its reserved bits 0. -/
def encodeSyl : Syl → Word64
  | .s o y => y.imm ++ BitVec.ofBool y.im ++ y.rb ++ y.ra ++ y.rd ++ sylHead (codeOf sOps o) y.pred y.pneg
  | .c o y => y.ofs ++ (0 : BitVec 13) ++ y.ra ++ sylHead (codeOf cOps o) y.pred y.pneg
  | .m o y => y.ofs ++ y.pd ++ y.size ++ y.ra ++ y.rt ++ sylHead (codeOf mOps o) y.pred y.pneg
  | .d o y => (0 : BitVec 26) ++ y.tag ++ y.rm ++ y.di ++ y.dd ++ y.ds ++ sylHead (codeOf dOps o) y.pred y.pneg
  | .a _ o y => y.ksteps ++ (0 : BitVec 12) ++ BitVec.ofBool y.rot ++ BitVec.ofBool y.accum ++ y.cell ++ y.dfl ++ y.td ++
      y.db ++ y.da ++ y.acc ++ sylHead (codeOf aOps o) y.pred y.pneg
  | .v _ o y => (0 : BitVec 10) ++ y.pd ++ y.dn ++ y.gs ++ y.bsrc ++ y.nrm1 ++ y.row0 ++ y.vc ++ y.vb ++ y.va ++ y.vd ++
      sylHead (codeOf vOps o) y.pred y.pneg
  | .x o y => (0 : BitVec 24) ++ y.nrm1 ++ y.row0 ++ BitVec.ofBool y.accg ++ y.gd ++ y.td ++ y.axis ++ y.ta ++
      sylHead (codeOf xOps o) y.pred y.pneg
  | .y o y => y.imm ++ (0 : BitVec 7) ++ y.rb ++ y.ra ++ sylHead (codeOf yOps o) y.pred y.pneg
  | .k o y => (0 : BitVec 33) ++ BitVec.ofBool y.rot ++ y.kind ++ y.rnd ++ y.fmt ++ y.dd ++ y.ts ++
      sylHead (codeOf kOps o) y.pred y.pneg
  | .q o y => (0 : BitVec 34) ++ y.kind ++ y.gs ++ y.dn ++ y.ts ++ sylHead (codeOf qOps o) y.pred y.pneg

/-- The first slot that may hold a syllable (Table 2.4); S1 and M1 hold the same kinds as S0 and M0. -/
def sylSlot : Syl → Nat
  | .s _ _ => 0
  | .c _ _ => 2
  | .m _ _ => 3
  | .d _ _ => 3
  | .a arr _ _ => 5 + arr.val
  | .v half _ _ => 8 + half.val
  | .x _ _ => 10
  | .y _ _ => 11
  | .k _ _ => 12
  | .q _ _ => 13

/-- Predicate field of a syllable, and its inversion. -/
def sylPred : Syl → BitVec 4 × Bool
  | .s _ y => (y.pred, y.pneg)
  | .c _ y => (y.pred, y.pneg)
  | .m _ y => (y.pred, y.pneg)
  | .d _ y => (y.pred, y.pneg)
  | .a _ _ y => (y.pred, y.pneg)
  | .v _ _ y => (y.pred, y.pneg)
  | .x _ y => (y.pred, y.pneg)
  | .y _ y => (y.pred, y.pneg)
  | .k _ y => (y.pred, y.pneg)
  | .q _ y => (y.pred, y.pneg)

/-- The syllable acts: bit 0 of its predicate after inversion, any lane for a vector syllable (R40, R49). -/
def sylActs (k : CoreSt) (y : Syl) : Bool :=
  let (p, n) := sylPred y
  match y with
  | .v _ _ _ => laneMask k p n != 0
  | _ => (getP k p.toNat).getLsbD 0 != n

/-! ### Registers named (R47, R56, R148) -/

/-- A register named by a syllable, with the rows of a tile it touches. -/
structure RegUse where
  reg : RegName
  lo : Nat
  hi : Nat
  deriving DecidableEq, Repr

def useR (r : RegName) : RegUse := ⟨r, 0, 63⟩

def usesG (n : BitVec 6) : List RegUse := [useR (.g n.toNat)]

/-- A predicate register; p0 is written by nothing (R39), so it meets nothing. -/
def usesP (n : Nat) : List RegUse := if n = 0 then [] else [useR (.p n)]

def usesD (n : Nat) : List RegUse := [useR (.d n)]

def usesT (n : BitVec 3) : List RegUse := [useR (.tile n.toNat)]

def usesTRows (n : BitVec 3) (lo hi : Nat) : List RegUse := [⟨.tile n.toNat, lo, hi⟩]

/-- The second operand of a scalar syllable. -/
def usesB (y : SSyl) : List RegUse := if y.im then [] else usesG y.rb

/-- LC register that number `n` of Table 2.2 names. -/
def usesLc (n : Nat) : List RegUse := if n = 5 then [useR (.lc 0)] else if n = 6 then [useR (.lc 1)] else []

/-- Scalar operations that write a p register. -/
def sWritesP : SOp → Bool
  | .cmpeq | .cmpne | .cmplt | .cmpltu | .cmple | .cmpleu | .pand | .por | .pxor | .pnot | .pmov => true
  | _ => false

def sReads (o : SOp) (y : SSyl) : List RegUse :=
  match o with
  | .nop => []
  | .mov | .pmov => usesB y
  | .movhi => usesG y.rd
  | .pand | .por | .pxor => usesP y.ra.toNat ++ usesP y.rb.toNat
  | .pnot | .pget => usesP y.ra.toNat
  | .popc | .clz | .wrsr => usesG y.ra
  | .rdsr => usesLc y.imm.toNat
  | _ => usesG y.ra ++ usesB y

def sWrites (o : SOp) (y : SSyl) : List RegUse :=
  match o with
  | .nop => []
  | .wrsr => usesLc y.imm.toNat
  | _ => if sWritesP o then usesP y.rd.toNat else usesG y.rd

/-- Banks of array `a` that an AMM or ADIST of `n` steps writes (R89). -/
def stepBanks (a : ArrId) (y : ASyl) (n : Nat) : List Nat :=
  if y.dfl = 1 then [4 * a.val + y.acc.toNat]
  else (List.range (min n 4)).map (fun i => 4 * a.val + (y.acc.toNat + i) % 4)

/-- Banks that it may write; every bank where KSTEPS is taken from the operands (R90). -/
def ammBanks (a : ArrId) (y : ASyl) : List Nat := stepBanks a y (if y.ksteps = 0 then 4 else y.ksteps.toNat)

/-- Rows that a vector syllable processes. -/
def vLo (y : VSyl) : Nat := y.row0.toNat

def vHi (o : VOp) (y : VSyl) : Nat := if vCompares o then y.row0.toNat else y.row0.toNat + y.nrm1.toNat

def vUseB (o : VOp) (y : VSyl) : List RegUse :=
  match y.bsrc.toNat with
  | 0 => usesTRows y.vb (vLo y) (vHi o y)
  | 1 => usesG y.gs
  | _ => usesTRows y.vb 0 0

def vRegReads (o : VOp) (y : VSyl) : List RegUse :=
  usesP y.pred.toNat ++ (if vUsesA o then usesTRows y.va (vLo y) (vHi o y) else []) ++
    (if vUsesB o then vUseB o y else []) ++
    (match o with | .vfma => usesTRows y.vc (vLo y) (vHi o y) | .vslope => usesTRows y.vc 0 0 | _ => []) ++
    (match o with | .vld | .vst => usesD y.dn.toNat | _ => []) ++ (if vCompares o then usesP y.pd.toNat else [])

def vRegWrites (o : VOp) (y : VSyl) : List RegUse :=
  if vCompares o then usesP y.pd.toNat else if vWritesTile o then usesTRows y.vd (vLo y) (vHi o y) else []

/-- Descriptor registers in fields that an array operation uses (R89, R92). -/
def aDescs (o : AOp) (y : ASyl) : List Nat :=
  match o with
  | .aload => [y.da.toNat]
  | .amm | .adist => if y.dfl = 1 then [y.da.toNat, y.db.toNat] else [y.db.toNat]
  | _ => []

def aRegReads (a : ArrId) (o : AOp) (y : ASyl) : List RegUse :=
  (aDescs o y).flatMap usesD ++
  (match o with
   | .amm | .adist => if y.accum then (ammBanks a y).map (fun b => useR (.bank b)) else []
   | .adrain => [useR (.bank (4 * a.val + y.acc.toNat))]
   | .afill => usesT y.td
   | _ => [])

def aRegWrites (a : ArrId) (o : AOp) (y : ASyl) : List RegUse :=
  match o with
  | .aload => []
  | .amm | .adist => (ammBanks a y).map (fun b => useR (.bank b))
  | .adrain => usesT y.td
  | _ => [useR (.bank (4 * a.val + y.acc.toNat))]

/-- Descriptor registers in fields that a DMA or stack operation uses. -/
def dDescs (o : DOp) (y : DSyl) (slope : Bool) : List Nat :=
  match o with
  | .cpy | .xp => [y.ds.toNat, y.dd.toNat]
  | .gath | .scat | .scadd => [y.ds.toNat, y.dd.toNat, y.di.toNat]
  | .push => y.ds.toNat :: (if slope then [y.dd.toNat] else [])
  | .pop => y.dd.toNat :: (if slope then [y.ds.toNat] else [])


/-- Registers that a syllable reads; `slope` is bit SLOPE of the stack options, without which a PUSH uses no DD and a POP no
DS (R168). -/
def sylReadsAt (slope : Bool) (y : Syl) : List RegUse :=
  (match y with | .v _ _ _ => [] | _ => usesP (sylPred y).1.toNat) ++
  match y with
  | .s o y => sReads o y
  | .c o y => (match o with
      | .brr | .stop | .loop => usesG y.ra
      | .ret => [useR (.g 63)]
      | _ => [])
  | .m o y => (match o with
      | .ld | .lds | .descLd => usesG y.ra
      | .st => usesG y.ra ++ usesG y.rt
      | .descSv | .descAdv => usesG y.ra ++ usesD y.rt.toNat
      | .descSts => usesD (y.ra.toNat % 32))
  | .d o y => (dDescs o y slope).flatMap usesD ++ usesG y.rm
  | .a arr o y => aRegReads arr o y
  | .v _ o y => vRegReads o y
  | .x o y => usesT y.ta ++ (if y.axis = 2 ∧ y.accg ∧ xIsSum o then usesG y.gd else [])
  | .y o y => (match o with
      | .sig | .twait => usesG y.ra
      | .qpost => usesG y.ra ++ usesG y.rb
      | _ => [])
  | .k o y => (match o with | .kcvt => usesT y.ts | .kunp => []) ++ usesD y.dd.toNat
  | .q o y => (match o with
      | .qamax => usesT y.ts ++ usesD y.dn.toNat
      | .qrot => usesT y.ts
      | .qseed | .qtsc => usesG y.gs ++ usesD y.dn.toNat)

/-- Registers that a syllable reads whatever its stack options hold. -/
def sylReads (y : Syl) : List RegUse := sylReadsAt false y

/-- Registers that a syllable writes. LOOP names no register: the LC that it sets is one of a closed level, which no other
syllable of its bundle writes (R63). -/
def sylWrites (y : Syl) : List RegUse :=
  match y with
  | .s o y => sWrites o y
  | .c o _ => (match o with
      | .call => [useR (.g 63)]
      | _ => [])
  | .m o y => (match o with
      | .ld | .lds | .descSts => usesG y.rt
      | .descLd | .descAdv => usesD y.rt.toNat ++ usesP y.pd.toNat
      | _ => [])
  | .d _ _ => []
  | .a arr o y => aRegWrites arr o y
  | .v _ o y => vRegWrites o y
  | .x _ y => if y.axis = 2 then usesG y.gd else usesT y.td
  | .y _ _ => []
  | .k o y => (match o with | .kcvt => [] | .kunp => usesT y.ts)
  | .q o y => (match o with | .qrot => usesT y.ts | _ => [])

/-! ### Decode checks (R47) -/

/-- Two uses meet: the same register, and for a tile a common row. -/
def RegUse.meets (a b : RegUse) : Bool := a.reg == b.reg && decide (a.lo ≤ b.hi ∧ b.lo ≤ a.hi)

/-- The register is of Table 2.1 and its write clashes with a read of the same bundle: t, a or d. -/
def RegName.shared : RegName → Bool
  | .d _ | .bank _ | .tile _ => true
  | _ => false

/-- Syllable `a` writes a t, a or d register of the list `l` (R47). -/
def writesShared (a : Syl) (l : List RegUse) : Bool :=
  (sylWrites a).any (fun x => x.reg.shared && l.any (fun y => x.meets y))

/-- Two syllables of one bundle clash (R47). -/
def sylClash (a b : Syl) : Bool :=
  (sylWrites a).any (fun x => (sylWrites b).any (fun y => x.meets y)) || writesShared a (sylReads b) || writesShared b (sylReads a)

/-- No two syllables of a list clash. -/
def noClash : List Syl → Bool
  | [] => true
  | a :: t => t.all (fun b => !sylClash a b) && noClash t

/-- A scalar syllable's p fields and special-register numbers are in range (R50, R42). -/
def sLegal (o : SOp) (y : SSyl) : Bool :=
  (!sWritesP o || decide (y.rd.toNat < 16)) &&
  (match o with
   | .pand | .por | .pxor => decide (y.ra.toNat < 16 ∧ y.rb.toNat < 16)
   | .pnot | .pget => decide (y.ra.toNat < 16)
   | .rdsr => decide (y.imm.toNat ≤ 8)
   | .wrsr => y.imm == 5 || y.imm == 6
   | _ => true)

def aLegal (o : AOp) (y : ASyl) : Bool :=
  match o with
  | .aload => decide (y.dfl.toNat ≤ 2) && y.dfl != 1
  | .amm => decide (y.dfl.toNat ≤ 2) && (y.dfl == 1 || decide (y.ksteps.toNat ≤ 4))
  | .adist => decide (y.dfl.toNat ≤ 2) && (y.dfl == 1 || decide (y.ksteps.toNat ≤ 4)) && y.cell != 7
  | _ => true

/-- No field that the operation uses holds a reserved value, and the other checks of R47 on one syllable that need no
register value. A compare ignores NRM1 (R151). -/
def sylLegal : Syl → Bool
  | .s o y => sLegal o y
  | .c o y => (match o with | .loop => decide (1 ≤ y.ofs.toInt) | _ => true)
  | .m o y => (match o with
      | .ld | .lds | .st => decide (y.size.toNat < 4)
      | .descLd | .descSv | .descAdv => decide (y.rt.toNat < 32)
      | .descSts => true)
  | .d _ _ => true
  | .a _ o y => aLegal o y
  | .v _ o y => (vCompares o || decide (y.row0.toNat + y.nrm1.toNat ≤ 63)) && (!vUsesB o || y.bsrc != 3)
  | .x _ y => decide (y.row0.toNat + y.nrm1.toNat ≤ 63) && y.axis != 3
  | .y _ _ => true
  | .k o y => (match o with | .kcvt => y.rnd != 3 | .kunp => true)
  | .q _ _ => true

/-- A list of syllables passes the checks of R47 that need no register value. -/
def sylsLegal (l : List Syl) : Bool := l.all sylLegal && noClash l

/-! ### Bundles (R44 to R46) -/

/-- Slots present. -/
def slotsOf (hdr : Nat) : List Nat := (List.range 15).filter (bitAt hdr)

/-- Decode a header: its slots in order, or none when a check of R47 on the header fails. -/
def headerSlots (hdr : Nat) : Option (List Nat) :=
  let l := slotsOf hdr
  if l = [] ∨ bitAt hdr 14 ∨ l.length ≠ bitsOf hdr 29 26 then none else some l

/-- Decode the syllables of slots `l` from their words. -/
def decodeSyls : List Nat → List Word64 → Option (List Syl)
  | [], _ => some []
  | n :: t, w :: ws =>
    match decodeSyl n w, decodeSyls t ws with
    | some y, some l => some (y :: l)
    | _, _ => none
  | _ :: _, [] => none

/-- A bundle fetched at `addr` from its words, header first; none when it fails decode (R47). -/
def decodeBundle (addr : Word64) (words : List Word64) : Option Bundle :=
  match words with
  | [] => none
  | h :: ws =>
    let hdr := h.toNat
    match headerSlots hdr with
    | none => none
    | some l =>
      match decodeSyls l ws with
      | some ys =>
        if sylsLegal ys then some ⟨addr, bitAt hdr 15, bitsOf hdr 25 16, 8 * (1 + l.length), ys⟩ else none
      | none => none

/-- Header word of syllables in slots `l`. -/
def encodeHeader (l : List Nat) (yld : Bool) (lrm : Nat) : Word64 :=
  BitVec.ofNat 64 ((l.map (fun n => 2 ^ n)).foldl (· + ·) 0 + (if yld then 2 ^ 15 else 0) + lrm % 1024 * 2 ^ 16 + l.length * 2 ^ 26)

end Sys2Proof.Machine
end

