-- ==== Sys2Proof/Machine/Scalar.lean ====
section
/-! DEFINITION. Machine/Scalar.lean: the scalar, control and load-store syllables (R42, R53, R62 to R64, R229, R230). Every
function here reads the core `k0` as it stood before its bundle (R55). -/

namespace Sys2Proof.Machine

/-! ### Scalar results (Table 2.8) -/

/-- The second operand b. -/
def sOperandB (k0 : CoreSt) (y : SSyl) : Word64 := if y.im then sext32 y.imm else getG k0 y.rb.toNat

/-- Signed product of two registers, high half. -/
def mulHigh (a b : Word64) : Word64 := BitVec.ofInt 64 (a.toInt * b.toInt / 2 ^ 64)

/-- The value of an operation that writes g[RD] from a, b and the old g[RD]. -/
def sValue (o : SOp) (a b old : Word64) (imm : Word32) : Word64 :=
  match o with
  | .add => a + b
  | .sub => a - b
  | .mul => a * b
  | .mulh => mulHigh a b
  | .and => a &&& b
  | .or => a ||| b
  | .xor => a ^^^ b
  | .shl => a <<< (b.toNat % 64)
  | .shr => a >>> (b.toNat % 64)
  | .sar => a.sshiftRight (b.toNat % 64)
  | .min => if a.toInt ≤ b.toInt then a else b
  | .max => if a.toInt ≤ b.toInt then b else a
  | .mov => b
  | .movhi => imm ++ old.setWidth 32
  | .popc => BitVec.ofNat 64 (popcount 64 a.toNat)
  | .clz => BitVec.ofNat 64 (leadingZeros 64 a.toNat)
  | _ => old

/-- The relation of a compare. -/
def sHolds (o : SOp) (a b : Word64) : Bool :=
  match o with
  | .cmpeq => a == b
  | .cmpne => a != b
  | .cmplt => decide (a.toInt < b.toInt)
  | .cmpltu => decide (a.toNat < b.toNat)
  | .cmple => decide (a.toInt ≤ b.toInt)
  | _ => decide (a.toNat ≤ b.toNat)

/-- All 64 bits of a truth value. -/
def fill64 (b : Bool) : Word64 := if b then BitVec.allOnes 64 else 0

/-- The value of an operation that writes p[RD]. -/
def pValue (k0 : CoreSt) (o : SOp) (y : SSyl) : Word64 :=
  let pa := getP k0 y.ra.toNat
  let pb := getP k0 y.rb.toNat
  match o with
  | .pand => pa &&& pb
  | .por => pa ||| pb
  | .pxor => pa ^^^ pb
  | .pnot => ~~~pa
  | .pmov => sOperandB k0 y
  | _ => fill64 (sHolds o (getG k0 y.ra.toNat) (sOperandB k0 y))

/-- Special register `n` (Table 2.2) other than RAND. -/
def specialReg (s : State) (c : Nat) (k0 : CoreSt) (n : Nat) : Word64 :=
  let b := boundOf k0
  match n with
  | 0 => BitVec.ofNat 64 c
  | 1 => BitVec.ofNat 64 (b.ctx % 4096 + b.gen % 2 ^ 20 * 4096)
  | 2 => BitVec.ofNat 64 (ftNow s)
  | 3 => BitVec.ofNat 64 (aclk s)
  | 4 => BitVec.ofNat 64 (partBytes k0)
  | 5 => k0.lc0.setWidth 64
  | 6 => k0.lc1.setWidth 64
  | _ => BitVec.ofNat 64 b.vcore

/-- Write LC register `n`; a write to the LC of a closed level is ignored (R63). -/
def writeLc (k0 k : CoreSt) (n : Nat) (v : Word32) : CoreSt :=
  if k0.loops.length ≤ n then k else if n = 0 then { k with lc0 := v } else { k with lc1 := v }

/-- What an acting scalar syllable does. -/
def scalarEffect (c : Nat) (k0 : CoreSt) (o : SOp) (y : SSyl) (s : State) : State :=
  let a := getG k0 y.ra.toNat
  match o with
  | .nop => s
  | .rdsr =>
    if y.imm = 7 then
      let (r, s) := freshBits s
      modCore s c (fun k => setG k y.rd.toNat r)
    else modCore s c (fun k => setG k y.rd.toNat (specialReg s c k0 y.imm.toNat))
  | .wrsr => modCore s c (fun k => writeLc k0 k (y.imm.toNat - 5) (a.setWidth 32))
  | .pget => modCore s c (fun k => setG k y.rd.toNat (getP k0 y.ra.toNat))
  | _ =>
    if sWritesP o then modCore s c (fun k => setP k y.rd.toNat (pValue k0 o y))
    else modCore s c (fun k => setG k y.rd.toNat (sValue o a (sOperandB k0 y) (getG k0 y.rd.toNat) y.imm))

/-! ### Loads, stores and descriptors -/

/-- Bytes that an M syllable below 0x10 accesses. -/
def mSize (o : MOp) (y : MSyl) : Nat :=
  match o with
  | .ld | .lds | .st => 2 ^ y.size.toNat
  | _ => 64

/-- Its partition-relative address (modulo 2^64). -/
def mAddr (k0 : CoreSt) (y : MSyl) : Nat := (getG k0 y.ra.toNat + sext32 y.ofs).toNat

/-- The operation reaches SPM. -/
def mReaches : MOp → Bool
  | .descAdv | .descSts => false
  | _ => true

/-- The operation reads SPM. -/
def mLoads : MOp → Bool
  | .ld | .lds | .descLd => true
  | _ => false

/-- SPM_ACCESS of Table 2.11: `n` bytes at `a`. -/
def spmBad (k0 : CoreSt) (a n : Nat) : Bool := !inPart k0 a n || a % min n 8 != 0

/-- Record a refusal of DESC.LD or DESC.ADV: register `r` as it is left, p[PD] = 0, the count (R229). -/
def descRefuse (s : State) (c r pd code : Nat) (d : DescReg) : State :=
  let s := inc s F.DMA_CNT1_DESC_REFUSE_CNT c
  modCore s c (fun k => setP (setD k r { d with refusal := BitVec.ofNat 8 code }) pd 0)

/-- Accept a descriptor; the code of the last refusal stays (Table 2.8, DESC.STS). -/
def descAccept (s : State) (c r pd : Nat) (d old : DescReg) : State :=
  modCore s c (fun k => setP (setD k r { d with refusal := old.refusal }) pd 1)

/-- DESC.LD of the 64 bytes `raw`. -/
def descLd (s : State) (c r pd : Nat) (old : DescReg) (raw : BitVec 512) : State :=
  match descValidate s c raw with
  | (code, d, s) => if code = 0 then descAccept s c r pd d old else descRefuse s c r pd code DescReg.none

/-- DESC.ADV by `n` elements. -/
def descAdv (s : State) (c r pd : Nat) (old : DescReg) (n : Int) : State :=
  if !old.valid then
    modCore s c (fun k => setP k pd 0)
  else
    match advRaw old.raw.toNat n with
    | none => descRefuse s c r pd 7 old
    | some w =>
      match descValidate s c (BitVec.ofNat 512 w) with
      | (code, d, s) => if code = 0 then descAccept s c r pd d old else descRefuse s c r pd code old

/-- What an acting load, store or descriptor syllable does. -/
def memEffect (c : Nat) (k0 : CoreSt) (o : MOp) (y : MSyl) (s : State) : State :=
  let a := mAddr k0 y
  let n := mSize o y
  let rt := y.rt.toNat
  let v := leNat (spmRead k0 a n).1
  match o with
  | .ld => modCore s c (fun k => setG k rt (BitVec.ofNat 64 v))
  | .lds => modCore s c (fun k => setG k rt (BitVec.ofInt 64 (signedOf (8 * n) v)))
  | .st => modCore s c (fun k => spmWrite k a (leBytes n (getG k0 rt).toNat) false)
  | .descLd => descLd s c rt y.pd.toNat (getD k0 rt) (BitVec.ofNat 512 v)
  | .descSv =>
    let d := getD k0 rt
    if d.valid then modCore s c (fun k => spmWrite k a (leBytes 64 d.raw.toNat) false)
    else
      let (bs, s) := freeBlock s
      modCore s c (fun k => spmWrite k a bs false)
  | .descAdv => descAdv s c rt y.pd.toNat (getD k0 rt) (getG k0 y.ra.toNat).toInt
  | .descSts =>
    let d := getD k0 (y.ra.toNat % 32)
    modCore s c (fun k => setG k rt (BitVec.ofNat 64 ((if d.valid then 1 else 0) + d.refusal.toNat * 256)))

/-! ### Control (R62, R63) -/

/-- This header + 8 x OFS. -/
def cTarget (hdr : Word64) (y : CSyl) : Word64 := hdr + (sext32 y.ofs <<< 3)

/-- Target of a taken transfer of control, and whether it may close a loop level. -/
def cTaken (k0 : CoreSt) (hdr : Word64) (o : COp) (y : CSyl) : Option (Word64 × Bool) :=
  match o with
  | .br => some (cTarget hdr y, true)
  | .call => some (cTarget hdr y, false)
  | .brr => some (getG k0 y.ra.toNat, true)
  | .ret => some (getG k0 63, false)
  | _ => none

/-- `a` lies in the body of a level. -/
def inBody (l : LoopLevel) (a : Word64) : Bool := decide (l.start.toNat ≤ a.toNat ∧ a.toNat ≤ l.stop.toNat)

/-- LC of level `n`. -/
def lcOf (k : CoreSt) (n : Nat) : Word32 := if n = 0 then k.lc0 else k.lc1

def setLcOf (k : CoreSt) (n : Nat) (v : Word32) : CoreSt := if n = 0 then { k with lc0 := v } else { k with lc1 := v }

/-- The end bundle at `hdr` issues without a taken branch: back to the first bundle, or the level closes and the next one
out acts (R62). Levels are listed outermost first. -/
def loopEnd (hdr : Word64) : Nat → CoreSt → CoreSt
  | 0, k => k
  | n + 1, k =>
    match k.loops.getLast? with
    | none => k
    | some l =>
      if l.stop ≠ hdr then k
      else
        let i := k.loops.length - 1
        if lcOf k i ≠ 0 then { setLcOf k i (lcOf k i - 1) with pc := l.start }
        else loopEnd hdr n { k with loops := k.loops.dropLast }

/-- Causes of LOOP_DEPTH (R64). -/
def loopBad (k0 : CoreSt) (hdr : Word64) (y : CSyl) : Bool :=
  let n := (getG k0 y.ra.toNat).toInt
  k0.loops.length == 2 || decide (2 ^ 32 < n) ||
    (decide (1 ≤ n) && (match k0.loops with | [l] => decide (l.stop.toNat < (cTarget hdr y).toNat) | _ => false))

/-- Open a level, or skip the body (R62); `nxt` is the next bundle in sequence. -/
def openLoop (k0 k : CoreSt) (hdr nxt : Word64) (y : CSyl) : CoreSt :=
  let n := (getG k0 y.ra.toNat).toInt
  let stop := cTarget hdr y
  if n ≤ 0 then { k with pc := stop, skip := true }
  else
    let k := { k with loops := k.loops ++ [⟨nxt, stop⟩] }
    setLcOf k (k.loops.length - 1) (BitVec.ofInt 32 (n - 1))

/-- What the slots of a bundle at `hdr` leave of the flow of control: `cs` is its acting C syllable; `nxt` the next bundle
in sequence; `ends` whether the bundle was fetched as part of a program, so that it may end a body. -/
def controlEffect (k0 : CoreSt) (hdr nxt : Word64) (ends : Bool) (cs : Option (COp × CSyl)) (k : CoreSt) : CoreSt :=
  match cs with
  | none => if ends then loopEnd hdr 2 k else k
  | some (o, y) =>
    match cTaken k0 hdr o y with
    | some (t, closes) =>
      let k := if o = .call then setG k 63 nxt else k
      let k := match k.loops.getLast? with
        | some l => if closes && !inBody l t then { k with loops := k.loops.dropLast } else k
        | none => k
      { k with pc := t }
    | none =>
      let k := if ends then loopEnd hdr 2 k else k
      match o with
      | .loop => openLoop k0 k hdr nxt y
      | .halt => { k with halting := true }
      | _ => k

end Sys2Proof.Machine
end

