-- ==== Sys2Proof/Machine/Arrays.lean ====
section
/-! DEFINITION. Machine/Arrays.lean: what the matrix arrays compute (R84 to R110): operands, refusals, multiply-accumulate,
distance operations, checksums. -/

namespace Sys2Proof.Machine

/-! ### Operands -/

/-- A 64-lane operand of one step: existing lanes and positions, element values and block scales by lane, rotation tag,
per-tensor scale, and whether any byte of it was uncorrectable. -/
structure Opnd where
  fmt : Nat
  lanes : Nat
  size : Nat
  vals : Array (Array FV)
  scls : Array (Array FV)
  rtag : Nat
  tscale : Word32
  bad : Bool

/-- Lanes l0 to l0 + 63 and positions p0 to p0 + n - 1 of a tensor in the partition, those that exist. -/
def readOpnd (k : CoreSt) (t : Tens) (tscale : Word32) (l0 n : Nat) : Opnd :=
  let lanes := min 64 (t.lanes - l0)
  let size := min n (t.size 0)
  let b := fmtBlock t.fmt
  let elems := (List.range lanes).map (fun i => (List.range size).map (fun p => spmElem k t (l0 + i) p))
  let scls := (List.range lanes).map (fun i =>
    (List.range (if b = 0 then 0 else cdiv size b)).map (fun j => spmScale k t (l0 + i) (t.blockOf (j * b))))
  let (rtag, rbad) := spmRtag k t
  { fmt := t.fmt
    lanes := lanes
    size := size
    vals := (elems.map (fun r => (r.map (fun x => elemFV t.fmt x.1)).toArray)).toArray
    scls := (scls.map (fun r => (r.map (fun x => scaleFV (fmtSmode t.fmt) x.1)).toArray)).toArray
    rtag := rtag
    tscale := tscale
    bad := rbad || elems.any (fun r => r.any (fun x => x.2)) || scls.any (fun r => r.any (fun x => x.2)) }

def Opnd.val (o : Opnd) (l p : Nat) : FV := (o.vals.getD l #[]).getD p FV.zero

/-- Block scale of lane `l` at position `p`; 1 where the format has none. -/
def Opnd.scl (o : Opnd) (l p : Nat) : FV :=
  let b := fmtBlock o.fmt
  if b = 0 then FV.one else (o.scls.getD l #[]).getD (p / b) FV.one

/-- The stationary register as an operand; one that reads as zero takes its format and tag from the other operand
(R92). -/
def stationOpnd (s : Station) (other : Opnd) : Opnd :=
  if s.valid then
    let b := fmtBlock s.fmt
    { fmt := s.fmt
      lanes := s.lanes
      size := s.size
      vals := ((List.range s.lanes).map (fun i => ((List.range s.size).map (fun p =>
        elemFV s.fmt (sget 0 s.cells (64 * i + p)))).toArray)).toArray
      scls := ((List.range s.lanes).map (fun i => ((List.range (if b = 0 then 0 else cdiv s.size b)).map (fun j =>
        scaleFV (fmtSmode s.fmt) (sget 0 s.scales (4 * i + j)))).toArray)).toArray
      rtag := s.rtag
      tscale := s.tscale
      bad := false }
  else
    { fmt := other.fmt, lanes := 64, size := 64, vals := #[], scls := #[], rtag := other.rtag, tscale := 0x3F800000,
      bad := false }

/-! ### Refusals (R86) -/

/-- Core class (R11, R97): cores 0 and 1 of a CD are broadcast cores. -/
def broadcastCore (c : Nat) : Bool := decide (c % 16 ≤ 1)

/-- The layout is accepted on the core's class (Table 3.6). -/
def layoutOk (c : Nat) (t : Tens) : Bool :=
  t.layout == 2 || (broadcastCore c && decide (t.layout ≤ 1) && t.cdim == 0)

/-- Cases 1, 3 and 4 for one operand. -/
def opndRefusal (c : Nat) (t : Tens) : Nat :=
  if fmtScaled t.fmt = false then 1
  else if !layoutOk c t then 3
  else if t.space != 2 then 4
  else 0

/-! ### Multiply-accumulate (R87, R91) -/

/-- BF16 or FP16 takes part. -/
def wideMac (fa fb : Nat) : Bool := fa == 1 || fa == 2 || fb == 1 || fb == 2

/-- Positions of a scale block of the pair (R87). -/
def macBlock (fa fb : Nat) : Nat :=
  if fmtSmode fa = 2 ∨ fmtSmode fb = 2 then 16 else if fmtSmode fa = 1 ∨ fmtSmode fb = 1 then 32 else 64

/-- An integer pair (Table 3.1). -/
def intPairOf (fa fb : Nat) : Bool := (fa == 8 || fa == 9) && (fb == 8 || fb == 9)

/-- Partial sum of positions p0 to p0 + n - 1 of row i and column j, rounded once to FP32; for BF16 and FP16 the rounded
products added in increasing position order, from the first. -/
def macPartial (a b : Opnd) (i j p0 n : Nat) : Word32 :=
  let ps := (List.range n).map (fun k => p0 + k)
  if wideMac a.fmt b.fmt then
    match ps.map (fun p => enc32 (FV.mul (a.val i p) (b.val j p))) with
    | [] => 0
    | x :: t => t.foldl (fun acc y => enc32 (FV.add (f32 acc) (f32 y))) x
  else enc32 (ps.foldl (fun acc p => FV.add acc (FV.mul (a.val i p) (b.val j p))) FV.zero)

/-- The product of the two per-tensor scales (R87, step 4). -/
def sigmaOf (a b : Opnd) : Word32 := enc32 (FV.mul (f32 a.tscale) (f32 b.tscale))

/-- A block's contribution: its partial times the block scales, times sigma. The product of the two block scales is
itself rounded to FP32 before it multiplies the partial (R87; DESIGN CHOICE, notes/assumptions/33.md). -/
def macTerm (a b : Opnd) (i j p0 n : Nat) (bump : Nat) : Word32 :=
  let p := macPartial a b i j p0 n
  let p := if bump = 0 then p else enc32 (FV.add (f32 p) (.fin false bump 0))
  let sc := enc32 (FV.mul (a.scl i p0) (b.scl j p0))
  enc32 (FV.mul (f32 (enc32 (FV.mul (f32 p) (f32 sc)))) (f32 (sigmaOf a b)))

/-- Contributions of element (i, j), block by block in increasing order. -/
def macTerms (a b : Opnd) (i j : Nat) (bump : Nat) : List Word32 :=
  let n := min a.size b.size
  let bs := macBlock a.fmt b.fmt
  (List.range (cdiv n bs)).map (fun k => macTerm a b i j (k * bs) (min bs (n - k * bs)) (if k = 0 then bump else 0))

/-- Accumulate in FP32 from `init`. -/
def accum32 (init : Word32) (l : List Word32) : Word32 := l.foldl (fun acc x => enc32 (FV.add (f32 acc) (f32 x))) init

/-! ### Checksums (R102 to R106) -/

/-- An element with every scale applied, in FP32: one rounding of the exact product of the element, its block scale and the
per-tensor scale (R102; DESIGN CHOICE, notes/assumptions/33.md). -/
def Opnd.hat (o : Opnd) (l p : Nat) : Word32 := enc32 (FV.mul (FV.mul (o.val l p) (o.scl l p)) (f32 o.tscale))

def addW (a b : Word32) : Word32 := enc32 (FV.add (f32 a) (f32 b))
def mulW (a b : Word32) : Word32 := enc32 (FV.mul (f32 a) (f32 b))
def sumW (l : List Word32) : Word32 := l.foldl addW 0

/-- Lane sums, signed and of magnitudes, for each position. -/
def laneSums (hat : Array (Array Word32)) (n : Nat) : List (Word32 × Word32) :=
  (List.range n).map (fun p =>
    let col := hat.toList.map (fun r => r.getD p 0)
    (sumW col, sumW (col.map fabs)))

/-- The comparison record of one lane of operand `o` against the lane sums of the other. -/
def checkLane (sums : List (Word32 × Word32)) (row : Array Word32) (resSum : Word32) : AbftSum :=
  let ps := sums.zipIdx
  { sum := resSum
    k := sumW (ps.map (fun x => mulW x.1.1 (row.getD x.2 0)))
    m := sumW (ps.map (fun x => mulW x.1.2 (fabs (row.getD x.2 0)))) }

/-- A sum of the comparison is non-finite (R106). -/
def AbftSum.skip (x : AbftSum) : Bool := !(isFin32 x.sum && isFin32 x.k && isFin32 x.m)

/-- The bound of R104. -/
def abftBound (n tol : Nat) (m : Word32) : FV :=
  FV.add (FV.mul (.fin false (n + 128) (-(tol : Int))) (f32 m)) (.fin false 1 (-126))

/-- The comparison mismatches (R104): the difference and the bound are compared exactly, neither rounded to FP32 (DESIGN
CHOICE, notes/assumptions/33.md). -/
def AbftSum.mismatch (n tol : Nat) (x : AbftSum) : Bool :=
  !x.skip && FV.magLt (abftBound n tol x.m) (FV.sub (f32 x.sum) (f32 x.k))

/-! ### Distances (R99, R100) -/

/-- The term of a position. -/
def distTerm (cell : Nat) (a b : Word32) : Word32 :=
  match cell with
  | 1 => fabs (enc32 (FV.sub (f32 a) (f32 b)))
  | 2 => let d := enc32 (FV.sub (f32 a) (f32 b)); mulW d d
  | 3 => addW a b
  | 4 => addW a b
  | 5 => if FV.eq (f32 a) (f32 b) then 0x3F800000 else 0
  | _ => fabs (enc32 (FV.sub (f32 a) (f32 b)))

/-- The combine of a cell operation; a NaN gives the default NaN. -/
def distComb (cell : Nat) (acc t : Word32) : Word32 :=
  match cell with
  | 3 | 6 => if isNaN32 acc || isNaN32 t then f32NaN else fmax acc t
  | 4 => if isNaN32 acc || isNaN32 t then f32NaN else fmin acc t
  | _ => addW acc t

/-- Value of the bank before the first term, ACCUM = 0 (Table 3.7). -/
def distInit (cell : Nat) : Word32 := match cell with | 3 | 6 => 0xFF800000 | 4 => 0x7F800000 | _ => 0

/-! ### A tile -/

/-- What one step computes: the bank's 4,096 elements and, for MAC, what its tile end compares. -/
structure TileRes where
  cells : List (Nat × Word32)
  abft : Option AbftRes

/-- The 64 x 64 grid as cells. -/
def gridCells (f : Nat → Nat → Word32) : List (Nat × Word32) :=
  (List.range 64).flatMap (fun i => (List.range 64).map (fun j => (64 * i + j, f i j)))

/-- A grid of values, computed once. -/
def gridOf (rows cols : Nat) (f : Nat → Nat → Word32) : Array (Array Word32) :=
  ((List.range rows).map (fun i => ((List.range cols).map (fun j => f i j)).toArray)).toArray

def gridGet (g : Array (Array Word32)) (i j : Nat) : Word32 := (g.getD i #[]).getD j 0

/-- One MAC tile: A-role rows, B-role columns, previous bank, ACCUM, contracted positions, TOL, an armed CELL injection
(Table 13.9). -/
def macTile (a b : Opnd) (old : Tile) (acc : Bool) (n tol : Nat) (inj : Bool) : TileRes :=
  let intp := intPairOf a.fmt b.fmt
  let bump (i j : Nat) : Nat := if inj && intp && i == 0 && j == 0 then 65536 else 0
  let terms : Array (Array (List Word32)) :=
    ((List.range a.lanes).map (fun i => ((List.range b.lanes).map (fun j => macTerms a b i j (bump i j))).toArray)).toArray
  let con := gridOf a.lanes b.lanes (fun i j => accum32 0 ((terms.getD i #[]).getD j []))
  let ha := gridOf a.lanes (min a.size b.size) (fun i p => a.hat i p)
  let hb := gridOf b.lanes (min a.size b.size) (fun j p => b.hat j p)
  let sa := laneSums ha (min a.size b.size)
  let sb := laneSums hb (min a.size b.size)
  let rec0 := checkLane sb (ha.getD 0 #[]) 0
  let col0 := checkLane sa (hb.getD 0 #[]) 0
  let delta : Word32 :=
    if inj && !intp then
      let br := abftBound n tol rec0.m
      let bc := abftBound n tol col0.m
      enc32 (FV.mul (if FV.magLe br bc then bc else br) (.fin false 65536 0))
    else 0
  let conF (i j : Nat) : Word32 :=
    let v := gridGet con i j
    if inj && !intp && i == 0 && j == 0 then addW v delta else v
  let out (i j : Nat) : Word32 :=
    if i < a.lanes ∧ j < b.lanes then
      let v := if acc then accum32 (sget 0 old (64 * i + j)) ((terms.getD i #[]).getD j []) else gridGet con i j
      if inj && !intp && i == 0 && j == 0 then addW v delta else v
    else 0
  let rows := (List.range a.lanes).map (fun i =>
    checkLane sb (ha.getD i #[]) (sumW ((List.range b.lanes).map (fun j => conF i j))))
  let cols := (List.range b.lanes).map (fun j =>
    checkLane sa (hb.getD j #[]) (sumW ((List.range a.lanes).map (fun i => conF i j))))
  { cells := gridCells out
    abft := some { rows := if intp then [] else rows
                   cols := if intp then [] else cols
                   n := n
                   intPair := intp
                   badRows := if intp && inj then 1 else 0
                   badCols := if intp && inj then 1 else 0
                   accum := acc
                   injected := inj } }

/-- An element turned into FP32 for a distance: its block scale, then its per-tensor scale, each step rounded (R100; DEDUCED,
notes/assumptions/37.md). -/
def Opnd.stepped (o : Opnd) (l p : Nat) : Word32 :=
  enc32 (FV.mul (f32 (enc32 (FV.mul (o.val l p) (o.scl l p)))) (f32 o.tscale))

/-- One distance tile (CELL 1 to 6). -/
def distTile (a b : Opnd) (old : Tile) (acc : Bool) (cell : Nat) : TileRes :=
  let n := min a.size b.size
  let ha := gridOf a.lanes n (fun i p => a.stepped i p)
  let hb := gridOf b.lanes n (fun j p => b.stepped j p)
  let out (i j : Nat) : Word32 :=
    if i < a.lanes ∧ j < b.lanes then
      let init := if acc then sget 0 old (64 * i + j) else distInit cell
      (List.range n).foldl (fun v p => distComb cell v (distTerm cell (gridGet ha i p) (gridGet hb j p))) init
    else 0
  { cells := gridCells out, abft := none }

/-! ### Tile ends (R103 to R108) -/

/-- Rows, columns and skips that a tile end counts. -/
def abftVerdict (r : AbftRes) (tol : Nat) : Nat × Nat × Nat :=
  if r.intPair then (r.badRows, r.badCols, 0)
  else
    ((r.rows.filter (fun x => x.mismatch r.n tol)).length, (r.cols.filter (fun x => x.mismatch r.n tol)).length,
      (r.rows.filter (fun x => x.skip)).length + (r.cols.filter (fun x => x.skip)).length)

/-- Poison bit of bank `b` (index 4 n + b) of core `c` (Table 3.11). -/
def bankPoison (s : State) (c b : Nat) : Bool := bitAt (getF s F.ARR_STS_POISON c) b

def setBankPoison (s : State) (c b : Nat) (v : Bool) : State :=
  let p := getF s F.ARR_STS_POISON c
  setF s F.ARR_STS_POISON c (if v then p ||| 2 ^ b else p - (p / 2 ^ b % 2) * 2 ^ b)

/-- The event of a poisoned tile: counted, latched when the log is free, sent to the scheduler processor (R108); PZ
tracking of R180 and R188. -/
def raiseAbft (s : State) (c b rows cols : Nat) (intp : Bool) : State :=
  let bd := boundOf (coreOf s c)
  let ft := ftNow s
  let s := inc s F.ARR_CNT0_ABFT_CNT c
  let s :=
    if getF s F.ARR_ABFT_LOG0_VALID c = 1 then setF s F.ARR_ABFT_LOG0_LOST c 1
    else
      let s := setF s F.ARR_ABFT_LOG0_VALID c 1
      let s := setF s F.ARR_ABFT_LOG0_ARRAY c (b / 4)
      let s := setF s F.ARR_ABFT_LOG0_BANK c (b % 4)
      let s := setF s F.ARR_ABFT_LOG0_INTPAIR c (if intp then 1 else 0)
      let s := setF s F.ARR_ABFT_LOG0_ROWS c rows
      let s := setF s F.ARR_ABFT_LOG0_COLS c cols
      let s := setF s F.ARR_ABFT_LOG1_FTIME_LO c (ft % 2 ^ 32)
      let s := setF s F.ARR_ABFT_LOG2_FTIME_HI c (ft / 2 ^ 32)
      let s := setF s F.ARR_ABFT_LOG3_CTX c bd.ctx
      setF s F.ARR_ABFT_LOG3_GEN c bd.gen
  modCore s c (fun k => { k with pz := true, pzArmed := true, events := k.events ++ [⟨0, c, bd.ctx, bd.gen, b, rows, cols, ft⟩] })

/-- A MAC tile ends on bank `b`: comparison, skips, poison bit, event. -/
def tileVerdict (s : State) (c b : Nat) (r : AbftRes) : State :=
  let (rows, cols, skips) := abftVerdict r (getF s F.ARR_CFG_TOL_SHIFT c)
  let s := incBy s F.ARR_CNT0_NF_SKIP_CNT c skips
  let bad := decide (0 < rows + cols)
  let s := if bad then setBankPoison s c b true else if r.accum then s else setBankPoison s c b false
  if bad then raiseAbft s c b rows cols r.intPair else s

end Sys2Proof.Machine
end

