-- ==== Sys2Proof/Machine/MemCmds.lean ====
section
/-! DEFINITION. Machine/MemCmds.lean: the commands of the memory dies (R195 to R217, R32 to R34). -/

namespace Sys2Proof.Machine

/-- Deliver the data of a read from outside: at once, or when every MD of its lines reports FILL_DONE (R217). -/
def answerRead (s : State) (mds : List Nat) (bs : List Byte) (poison : Bool) (tx : Nat) : State :=
  if mds.isEmpty then emit (if tx = 0 then s else incBy s F.HOST_CNT_POISON_TX_CNT 0 tx) (.readResp bs poison)
  else { s with answers := s.answers ++ [⟨mds, bs, poison, tx⟩] }

/-- Serve a read from outside and deliver its answer. -/
def serveRead (s : State) (r : MemRead) : State :=
  let stale := match r.ctxgen with
    | some cg => staleDie s cg
    | none => false
  let mds := if stale || decide (dpaLimit < r.dpa.toNat + r.len) then [] else unfilledMds s r.dpa.toNat r.len
  let (bs, p, s) := portRead s r
  answerRead s mds bs p 0

/-- DEVICE_MEMORY_READ (R206, R217). -/
def execDeviceMemoryRead (r : MemRead) (s : State) : Host.Outcome State Fault Refusal := .next (serveRead s r)

/-- DEVICE_MEMORY_WRITE (R209, R217). -/
def execDeviceMemoryWrite (w : MemWrite) (s : State) : Host.Outcome State Fault Refusal := .next (portWrite s w)

/-- CRC_RETRY (R208): one reissue of a read, or one repeat of a write, after a CRC or parity failure, at most three for one
access. `last` of a third repeat: it fails too, which sets the line's poison flag and latches an entry of type WRCRC, with SRC of
the write that the MD last made of the line (Table 7.11). Attempts on another line, or after three, belong to another access
(notes/assumptions/38.md). -/
def crcRetry (dpa : Nat) (isWrite : Bool) (last : Bool) (s : State) : State :=
  let m := dpaMd dpa
  let l := dpa / 64
  let n := match (mdOf s m).crc with
    | some (k, w, n) => if k = l ∧ w = isWrite then n + 1 else 1
    | none => 1
  let src := match (mdOf s m).wrote with
    | some (k, q) => if k = l then q else 0
    | none => 0
  let s := inc (setMd s m { mdOf s m with crc := if n < 3 then some (l, isWrite, n) else none }) F.MD_ECC_CNT1_CRC_RETRY_CNT m
  if isWrite && last && n == 3 then
    eccLog (dramFlag (metaWrite s l src) l true) m 2 src (dpaPair dpa) 63 0 (64 * l)
  else s

def execCrcRetry (dpa : BitVec 40) (isWrite : Bool) (last : Bool) (s : State) : Host.Outcome State Fault Refusal :=
  .next (crcRetry dpa.toNat isWrite last s)

/-- CACHE_EVICTION of one line, whatever its position (R211; notes/assumptions/38.md). -/
def execCacheEviction (dpa : BitVec 40) (s : State) : Host.Outcome State Fault Refusal :=
  .next (evictLine s (dpa.toNat / 64))

/-- The walk over one cached line (R213): corrected in place; an uncorrectable error invalidates a clean line and writes
a dirty one back poisoned, and counts in either case. -/
def walkLine (s : State) (l : Nat) (c : CLine) : State :=
  let r := scanLine c.data (cacheDiff c) allGranules
  if r.bads.isEmpty then
    cachePut (countScan s l 2 r c.poison) l (some { c with data := r.data, chk := 0 })
  else if c.dirty then cacheDrop (writeBack s l c 2 true) l
  else cacheDrop (countScan s l 2 r false) l

/-- CACHE_WALK of an MD (R213). -/
def cacheWalk (m : Nat) (s : State) : State :=
  s.cache.foldl (fun s e =>
    match e.2 with
    | some c => if dpaMd (64 * e.1) = m then walkLine s e.1 c else s
    | none => s) s

def execCacheWalk (m : MdId) (s : State) : Host.Outcome State Fault Refusal := .next (cacheWalk m s)

/-! ### The staging SRAM (R32, R512) -/

/-- Address of byte `off` of slice `n`: eight slices of 256 KiB. -/
def sliceAddr (n off : Nat) : Nat := 262144 * n + off % 262144

/-- Write bytes into slice `n` of MD `m`'s staging SRAM. -/
def stgPut (s : State) (m n off : Nat) (bs : List Byte) (poison : Bool) : State :=
  setMd s m { mdOf s m with stg := sramWrite (mdOf s m).stg (sliceAddr n off) bs poison }

/-- Read bytes of slice `n`. -/
def stgGet (s : State) (m n off len : Nat) : List Byte × Bool := sramRead (mdOf s m).stg (sliceAddr n off) len

/-! ### Scrubber (R214, R215) -/

/-- Write back one line that the scrubber read, and its metadata: discarded where a write came after its read. Copies of its
flag that disagreed counted when they were found. A granule that slice 0 lost stays marked by the flag. -/
def scrubStore (m : Nat) (s : State) (f : ScrubFix) : State :=
  if f.overwritten then inc s F.MD_ECC_CNT2_SCRUB_ABANDON_CNT m
  else
    let (bs, lost) := stgGet s m 0 (64 * dpaSlot (64 * f.line)) 64
    let flag := voteFlag (sget 0 s.dramPoison f.line)
    let s := beginWrite (if f.split then dramFlag s f.line flag else s) f.line 1
    inc (dramFlag (dramFresh (dramPut s (64 * f.line) bs) f.line allGranules) f.line (flag || lost))
      F.MD_ECC_CNT2_SCRUB_FIX_CNT m

/-- SCRUB_WRITEBACK: what the scrubber found, line by line (R215). -/
def scrubWriteback (m : Nat) (s : State) : State :=
  let s := (mdOf s m).scrub.foldl (scrubStore m) s
  setMd s m { mdOf s m with scrub := [] }

def execScrubWriteback (m : MdId) (s : State) : Host.Outcome State Fault Refusal := .next (scrubWriteback m s)

/-- The scrubber checks one line: what it finds is counted, copies of the flag that disagree too; a fix waits in slice 0 for
its write-back, an uncorrectable granule sets the flag; with a dirty copy in the cache it neither writes back nor poisons. -/
def scrubLine (m l : Nat) (s : State) : State :=
  let flags := sget 0 s.dramPoison l
  let marked := voteFlag flags
  let split := flagSplit flags
  let r := scanLine (dramLine s l) (dramDiff s l) allGranules
  let s := countScan s l 1 r marked
  let s := if split then countCE s l 1 36 0 else s
  let dirty := match cacheGet s l with | some c => c.dirty | none => false
  if dirty then s
  else if !r.bads.isEmpty then metaWrite (dramFlag s l true) l 1
  else if !r.fixes.isEmpty || split then
    let s := stgPut s m 0 (64 * dpaSlot (64 * l)) r.data false
    setMd s m { mdOf s m with scrub := (mdOf s m).scrub ++ [⟨l, split, false⟩] }
  else s

/-- Blocks of the scrubber's walk: six pairs of 2^24 blocks. -/
def scrubBlocks : Nat := 6 * 2 ^ 24

/-- SCRUB_BLOCK: one block, in the order pair 0 to 5 within a block number; PERIOD 0 stops the scrubber, which starts
at FILL_DONE. A write-back still waiting in slice 0 goes first (notes/assumptions/38.md). -/
def scrubBlock (m : Nat) (s : State) : State :=
  if getF s F.MD_SCRUB_RATE_PERIOD m = 0 ∨ getF s F.MD_STS_FILL_DONE m = 0 then s
  else
    let s := scrubWriteback m s
    let pos := getF s F.MD_SCRUB_POS_BLOCK m
    let s := (List.range 7).foldl (fun s slot => scrubLine m (dpaOfBlock m (pos % 6) (pos / 6) slot / 64) s) s
    let s := setF s F.MD_SCRUB_POS_BLOCK m ((pos + 1) % scrubBlocks)
    if pos + 1 = scrubBlocks then inc s F.MD_SCRUB_PASS_PASS_CNT m else s

def execScrubBlock (m : MdId) (s : State) : Host.Outcome State Fault Refusal := .next (scrubBlock m s)

/-! ### Training, retraining and fill (R195, R196, R216, R217) -/

/-- PERIODIC_RETRAIN: the pair's accesses are held for at most 1 µs and then proceed in arrival order (R196): no state
of the model changes. -/
def execPeriodicRetrain (_m : MdId) (_pair : Fin 6) (s : State) : Host.Outcome State Fault Refusal := .next s

/-- One training attempt of a pair, once boot has released the MDs (R446): at most three; the third failure sets the pair's bit
in PAIR_FAIL and TRAIN_FAIL, and the other pairs go on (R195). -/
def memoryTraining (m pair : Nat) (ok : Bool) (s : State) : State :=
  let x := mdOf s m
  let n := sget 0 x.tries pair
  if getF s F.MOD_STS_BOOTED 0 = 0 ∨ 3 ≤ n ∨ sget false x.trained pair then s
  else if ok then
    let t := sset false x.trained pair true
    let s := setMd s m { x with trained := t }
    if (List.range 6).all (fun p => sget false t p) then setF s F.MD_STS_TRAIN_DONE m 1 else s
  else
    let s := setMd s m { x with tries := sset 0 x.tries pair (n + 1) }
    if n + 1 < 3 then s
    else
      let s := setF s F.MD_STS_PAIR_FAIL m (getF s F.MD_STS_PAIR_FAIL m ||| 2 ^ pair)
      let s := setF s F.MD_STS_TRAIN_FAIL m 1
      latchErr s (pageBase .md m) 5 0 (getF s F.MD_STS_PAIR_FAIL m)

def execMemoryTraining (m : MdId) (pair : Fin 6) (ok : Bool) (s : State) : Host.Outcome State Fault Refusal :=
  .next (memoryTraining m pair ok s)

/-- Keys of `sramFilled`: DSM of CD d at d, SPM of core c at 8 + c. -/
def fillKey : FillUnit → Nat
  | .md _ => 0
  | .dsm d => d
  | .spm c => 8 + c

/-- Every MD reports FILL_DONE and every SRAM of the CDs is filled (R216). -/
def allFilled (s : State) : Bool :=
  (List.range 8).all (fun m => getF s F.MD_STS_FILL_DONE m == 1) &&
    (List.range 136).all (fun k => sget false s.sramFilled k)

/-- The cores are released when everything is filled (R216) and Aedord runs an image that loads the scheduler
processors (R446), outside manufacturing-test mode (R35): CORES_REL reads 1 and CYCLE counts from here. -/
def tryRelease (s : State) : State :=
  let s := if (List.range 8).all (fun m => getF s F.MD_STS_FILL_DONE m == 1) then setF s F.MOD_STS_MEM_READY 0 1 else s
  if allFilled s && getF s F.MOD_STS_BOOTED 0 == 1 && getF s F.MOD_STS_CORES_REL 0 == 0 &&
      getF s F.DBG_STS_MFG_TEST 0 == 0 then
    let s := setF s F.MOD_STS_CORES_REL 0 1
    { s with ft := { s.ft with aclk5 := 0 } }
  else s

/-- MEMORY_FILL of one unit with zero data, zero check words and clear flags; caches start empty, and an MD's staging SRAM is
filled with it (R216). A device-memory fill waits for training; a unit is filled once, and the last one releases the cores. -/
def memoryFill (u : FillUnit) (s : State) : State :=
  match u with
  | .md m =>
    if getF s F.MD_STS_TRAIN_DONE m = 1 ∧ getF s F.MD_STS_FILL_DONE m = 0 then
      let s := { s with
        dram := s.dram.filter (fun e => dpaMd e.1 != m.val),
        dramChk := s.dramChk.filter (fun e => dpaMd (16 * e.1) != m.val),
        dramPoison := s.dramPoison.filter (fun e => dpaMd (64 * e.1) != m.val),
        cache := s.cache.filter (fun e => dpaMd (64 * e.1) != m.val) }
      setMd s m { mdOf s m with filled := true, stg := Sram.zero, recent := [] }
    else s
  | .dsm d =>
    if sget false s.sramFilled (fillKey u) then s
    else tryRelease { s with dsm := sset Sram.zero s.dsm d Sram.zero, sramFilled := sset false s.sramFilled (fillKey u) true }
  | .spm c =>
    if sget false s.sramFilled (fillKey u) then s
    else tryRelease (modCore { s with sramFilled := sset false s.sramFilled (fillKey u) true } c (fun k => { k with spm := Sram.zero }))

def execMemoryFill (u : FillUnit) (s : State) : Host.Outcome State Fault Refusal := .next (memoryFill u s)

/-- Perform the requests held before FILL_DONE, in arrival order; then the answers that wait for this MD alone leave
(R217). -/
def releaseHeld (m : Nat) (s : State) : State :=
  let h := (mdOf s m).held
  let s := setMd s m { mdOf s m with held := [] }
  let s := h.foldl (fun s r =>
    match r with
    | .rd l cls => (lineRead s l cls).2.2
    | .wr l off bs p cls => lineWrite s l off bs p cls) s
  let a := s.answers.map (fun x => { x with mds := x.mds.erase m })
  (a.filter (fun x => x.mds.isEmpty)).foldl (fun s x => answerRead s [] x.data x.poison x.tx)
    { s with answers := a.filter (fun x => !x.mds.isEmpty) }

/-- FILL_DONE (R216, R217). -/
def fillDone (m : Nat) (s : State) : State :=
  if (mdOf s m).filled && !mdFilled s m then tryRelease (releaseHeld m (setF s F.MD_STS_FILL_DONE m 1)) else s

def execFillDone (m : MdId) (s : State) : Host.Outcome State Fault Refusal := .next (fillDone m s)

/-! ### Staging slices (R32 to R34) -/

/-- Pool slices 2 to 7 that nobody holds. -/
def freeSlices (x : MdSt) : List Nat :=
  [2, 3, 4, 5, 6, 7].filter (fun n => !(x.stgOvl.any (fun h => h.2 == n) || x.stgKiln.contains n))

/-- OVL_WAIT_CNT counts each waiting request once, when overlap staging holds all six pool slices while it waits
(R34, Table 1.12). -/
def countWaits (m : Nat) (s : State) : State :=
  let x := mdOf s m
  if x.stgOvl.length = 6 then
    incBy (setMd s m { x with stgWait := x.stgWait.map (fun u => (u.1, true)) }) F.MD_STG_CNT_OVL_WAIT_CNT m
      (x.stgWait.filter (fun u => !u.2)).length
  else s

/-- KILN_YIELD: overlap staging waits and the kiln holds every free pool slice; it releases one, the last it took
(R33; notes/assumptions/38.md). -/
def kilnYield (m : Nat) (s : State) : State :=
  let x := mdOf s m
  if !x.stgWait.isEmpty && (freeSlices x).isEmpty && !x.stgKiln.isEmpty then
    inc (setMd s m { x with stgKiln := x.stgKiln.dropLast }) F.MD_STG_CNT_KILN_YIELD_CNT m
  else s

def execKilnYield (m : MdId) (s : State) : Host.Outcome State Fault Refusal := .next (kilnYield m s)

/-- STAGING_SLICE_GRANT: the first waiting request takes a free slice (R34). -/
def stgGrant (m : Nat) (s : State) : State :=
  let x := mdOf s m
  match x.stgWait, freeSlices x with
  | u :: t, n :: _ => countWaits m (setMd s m { x with stgOvl := x.stgOvl ++ [(u.1, n)], stgWait := t })
  | _, _ => s

def execStagingSliceGrant (m : MdId) (s : State) : Host.Outcome State Fault Refusal := .next (stgGrant m s)

/-- Transfer `u` wants or holds a slice of the MD. -/
def stgHas (x : MdSt) (u : StgUser) : Bool := x.stgOvl.any (fun h => h.1 == u) || x.stgWait.any (fun h => h.1 == u)

/-- An overlap request for a slice of MD `m`, one for each transfer: granted where a slice is free and none waits before it,
else it waits in arrival order (R33, R34). -/
def stgRequest (m : Nat) (u : StgUser) (s : State) : State :=
  let x := mdOf s m
  if stgHas x u then s
  else
    let s := setMd s m { x with stgWait := x.stgWait ++ [(u, false)] }
    if x.stgWait.isEmpty && !(freeSlices x).isEmpty then stgGrant m s else countWaits m s

/-- Transfer `u` gives back its slices, and asks for none. -/
def stgRelease (u : StgUser) (s : State) : State :=
  (List.range 8).foldl (fun s m =>
    let x := mdOf s m
    if stgHas x u then
      setMd s m { x with stgOvl := x.stgOvl.filter (fun h => h.1 != u), stgWait := x.stgWait.filter (fun h => h.1 != u) }
    else s) s

end Sys2Proof.Machine
end

