-- ==== Sys2Proof/Machine/Dma.lean ====
section
/-! DEFINITION. Machine/Dma.lean: DMA transfers (R231 to R251): refusals, overlap and staging, chunks, completion, and the
stack transfers PUSH and POP (R167 to R178). -/

namespace Sys2Proof.Machine

/-! ### Access to the three spaces (R219, R236) -/

/-- A byte of an SRAM, and whether its granule is uncorrectable. -/
def sramReadB (m : Sram) (a : Nat) : Byte × Bool :=
  let (b, u) := sramRead m a 1
  (b.headD 0, u)

/-- Bytes of an SRAM with, for each, whether its granule is uncorrectable. -/
def sramReadP (m : Sram) (a n : Nat) : List (Byte × Bool) := (List.range n).map (fun i => sramReadB m (a + i))

def allocOf : Nat → Alloc
  | 1 => .stream
  | 2 => .noalloc
  | _ => .normal

/-- Read `n` bytes at address `a` of space `sp` for core `c`: each byte with its poison mark. -/
def spRead (s : State) (c sp a n : Nat) (cls : Alloc) : Except XFault (List (Byte × Bool)) × State :=
  let k := coreOf s c
  match sp with
  | 0 =>
    match dvaRead s (cdOf c) (boundOf k).ctx a n cls with
    | (.ok (b, p), s) => (.ok (b.map (fun x => (x, p))), s)
    | (.error e, s) => (.error e, s)
  | 1 =>
    let us := dsmUnits s (cdOf c) (boundOf k).ctx
    (.ok ((List.range n).map (fun i => sramReadB (dsmOf s (cdOf c)) (dsmAt us (a + i)))), s)
  | _ => (.ok (sramReadP k.spm (partAddr k a) n), s)

/-- Write bytes at address `a` of space `sp`. -/
def spWrite (s : State) (c sp a : Nat) (bs : List Byte) (poison : Bool) (cls : Alloc) : Except XFault Unit × State :=
  let k := coreOf s c
  match sp with
  | 0 => dvaWrite s (cdOf c) (boundOf k).ctx a bs poison cls
  | 1 =>
    let us := dsmUnits s (cdOf c) (boundOf k).ctx
    (.ok (), setDsm s (cdOf c) ((vaPieces (bs.length + 1) a bs.length).foldl (fun m p =>
      sramWrite m (dsmAt us p.1) ((bs.drop (p.1 - a)).take p.2) poison) (dsmOf s (cdOf c))))
  | _ => (.ok (), setCore s c (spmWrite k a bs poison))

/-! ### Byte buffers -/

/-- Lines read so far: line number, its 64 bytes with poison marks. -/
abbrev LineBuf := List (Nat × Array (Byte × Bool))

/-- Read the lines of space `sp` that hold the addresses `as`, each once. -/
def readLines (s : State) (c sp : Nat) (cls : Alloc) : List Nat → LineBuf → Except XFault LineBuf × State
  | [], buf => (.ok buf, s)
  | l :: t, buf =>
    match spRead s c sp (64 * l) 64 cls with
    | (.ok bs, s) => readLines s c sp cls t ((l, bs.toArray) :: buf)
    | (.error e, s) => (.error e, s)

/-- Distinct lines of a list of byte addresses, in order of first use. -/
def linesUsed (as : List Nat) : List Nat :=
  (as.foldl (fun acc a => if acc.contains (a / 64) then acc else a / 64 :: acc) []).reverse

/-- A byte of the buffer. -/
def bufByte (b : LineBuf) (a : Nat) : Byte × Bool :=
  match b.find? (fun x => x.1 == a / 64) with
  | some (_, arr) => arr.getD (a % 64) (0, false)
  | none => (0, false)

/-- A write of part of a byte: address, mask, value, poison. -/
structure BWrite where
  addr : Nat
  mask : Nat
  val : Nat
  poison : Bool
  deriving DecidableEq, Repr

/-- Writes of the element of tensor `t` at bit address `bit`. -/
def elemWrites (t : Tens) (bit v : Nat) (poison : Bool) : List BWrite :=
  let w := fmtW t.fmt
  let sh := bit % 8
  let m := (2 ^ w - 1) * 2 ^ sh
  let x := v % 2 ^ w * 2 ^ sh
  (List.range ((sh + w + 7) / 8)).map (fun i =>
    ⟨t.swizzle (bit / 8 + i), m / 256 ^ i % 256, x / 256 ^ i % 256, poison⟩)

/-- Merge writes to one byte, in order. -/
def mergeWrites (ws : List BWrite) : Sparse (Nat × Nat × Bool) :=
  ws.foldl (fun m w =>
    let (om, ov, op) := sget (0, 0, false) m w.addr
    sset (0, 0, false) m w.addr (om ||| w.mask, (ov &&& (255 - w.mask)) ||| (w.val &&& w.mask), op || w.poison)) []

/-- Complete partly masked bytes from what stands there. -/
def fillBytes (s : State) (c sp : Nat) (cls : Alloc) :
    List (Nat × Nat × Nat × Bool) → List (Nat × Byte × Bool) → Except XFault (List (Nat × Byte × Bool)) × State
  | [], acc => (.ok acc.reverse, s)
  | (a, m, v, p) :: t, acc =>
    if m = 255 then fillBytes s c sp cls t ((a, BitVec.ofNat 8 v, p) :: acc)
    else
      match spRead s c sp a 1 cls with
      | (.ok bs, s) =>
        let (b, q) := bs.headD (0, false)
        fillBytes s c sp cls t ((a, BitVec.ofNat 8 ((b.toNat &&& (255 - m)) ||| v), p || q) :: acc)
      | (.error e, s) => (.error e, s)

/-- Group rising byte writes into runs inside one 16-byte granule. -/
def runsOf (l : List (Nat × Byte × Bool)) : List (Nat × List Byte × Bool) :=
  (l.foldl (fun (acc : List (Nat × List Byte × Bool)) x =>
    match acc with
    | (a, bs, p) :: t =>
      if a + bs.length = x.1 ∧ (a / 16 = x.1 / 16) then (a, bs ++ [x.2.1], p || x.2.2) :: t
      else (x.1, [x.2.1], x.2.2) :: acc
    | [] => [(x.1, [x.2.1], x.2.2)]) []).reverse

/-- Join runs that meet inside one 64-byte line and agree on poison. -/
def joinRuns (l : List (Nat × List Byte × Bool)) : List (Nat × List Byte × Bool) :=
  (l.foldl (fun (acc : List (Nat × List Byte × Bool)) x =>
    match acc with
    | (a, bs, p) :: t =>
      if a + bs.length = x.1 ∧ a / 64 = x.1 / 64 ∧ p = x.2.2 then (a, bs ++ x.2.1, p) :: t else x :: acc
    | [] => [x]) []).reverse

/-- Write runs in order. -/
def writeRuns (s : State) (c sp : Nat) (cls : Alloc) : List (Nat × List Byte × Bool) → Except XFault Unit × State
  | [] => (.ok (), s)
  | (a, bs, p) :: t =>
    match spWrite s c sp a bs p cls with
    | (.ok _, s) => writeRuns s c sp cls t
    | (.error e, s) => (.error e, s)

/-- Perform a list of byte writes in space `sp`. -/
def commitWrites (s : State) (c sp : Nat) (cls : Alloc) (ws : List BWrite) : Except XFault Unit × State :=
  match fillBytes s c sp cls (mergeWrites ws) [] with
  | (.ok l, s) => writeRuns s c sp cls (joinRuns (runsOf l))
  | (.error e, s) => (.error e, s)

/-! ### Transfers -/

def xferOf (k : CoreSt) (i : Nat) : Option Xfer := sget none k.xfers i

def setXfer (s : State) (c i : Nat) (x : Option Xfer) : State :=
  modCore s c (fun k => { k with xfers := sset none k.xfers i x })

/-- Transfers outstanding. -/
def xferList (k : CoreSt) : List Xfer := k.xfers.filterMap (fun e => e.2)

/-- A free place of the sixteen (R57). -/
def freeXfer (k : CoreSt) : Option Nat := (List.range 16).find? (fun i => (xferOf k i).isNone)

/-- Tag `t` has a transfer outstanding. -/
def tagBusy (k : CoreSt) (t : Nat) : Bool := (xferList k).any (fun x => x.tag == t)

/-- Options of Table 8.5. -/
def optAlloc (o : Nat) : Nat := bitsOf o 1 0
def optWrap (o : Nat) : Bool := bitAt o 2
def optSts (o : Nat) : Bool := bitAt o 3
def optStsAddr (o : Nat) : Nat := bitsOf o 31 8
def optFill (o : Nat) : Nat := bitsOf o 63 32

/-- FILL as a code of format `fmt`: the low bits of Table 8.5, whatever code they spell. R114 has no unit write code 10 of T2,
R232 has the engine move what it is given: a FILL or a copied element that bears code 10 is written so (DESIGN CHOICE,
notes/assumptions/41.md). -/
def fillCode (fmt o : Nat) : Nat :=
  let f := optFill o
  if fmt = 0xA then
    match f32 (BitVec.ofNat 32 f) with
    | .nan => 0xFF * 2 ^ 31 + nanFrac (BitVec.ofNat 32 f) 31 + f / 2 ^ 31 * 2 ^ 39
    | _ => f / 2 ^ 31 * 2 ^ 39 + f % 2 ^ 31 * 256
  else f % 2 ^ fmtW fmt

def isIndexed (opc : Nat) : Bool := decide (0x12 ≤ opc ∧ opc ≤ 0x14)

/-! ### Overlap (R244, R245) -/

/-- The byte ranges of a descriptor's footprint. -/
def footprint (t : Tens) : List (Nat × Nat) :=
  let e := t.extent
  if fmtBlock t.fmt = 0 then [e]
  else [e, (t.scaleBase + 16 + t.sclane0 * t.nb, t.scaleBase + 16 + (t.sclane0 + t.lanes) * t.nb)]

/-- Non-empty intersections of two footprints of one space. -/
def meetRanges (a b : Tens) : List (Nat × Nat) :=
  if a.space ≠ b.space then []
  else (footprint a).flatMap (fun x => (footprint b).filterMap (fun y =>
    let lo := max x.1 y.1
    let hi := min x.2 y.2
    if lo < hi then some (lo, hi) else none))

def rangeBytes (l : List (Nat × Nat)) : Nat := (l.map (fun r => r.2 - r.1)).foldl (· + ·) 0

def inRanges (l : List (Nat × Nat)) (a : Nat) : Bool := l.any (fun r => decide (r.1 ≤ a ∧ a < r.2))

/-! ### Refusals at issue (Table 8.7) -/

/-- Shape requirements of Table 8.6 that fail. -/
def dmaShapeBad (opc : Nat) (a b i : Tens) : Bool :=
  match opc with
  | 0x10 => a.size 0 != b.size 0 || a.lanes != b.lanes
  | 0x11 => decide (a.rank < 2) || a.size 1 != b.size 0 || a.size 0 != b.size 1 || a.size 2 != b.size 2 ||
      a.size 3 != b.size 3 || a.size 4 != b.size 4 || a.size 5 != b.size 5
  | 0x12 => i.rank != 1 || i.layout != 0 || b.lanes != i.size 0 || a.size 0 != b.size 0
  | _ => i.rank != 1 || i.layout != 0 || a.lanes != i.size 0 || a.size 0 != b.size 0 ||
      (opc == 0x14 && decide (2 ^ 20 < 4 * a.size 0))

/-- Format requirements of R232, R235 and Table 8.6 that fail. -/
def dmaFormatBad (opc : Nat) (a b i : Tens) : Bool :=
  a.fmt != b.fmt || (isIndexed opc && i.fmt != 0xB) || (opc == 0x14 && a.fmt != 0) ||
    (opc == 0x11 && (a.fmt == 7 || a.fmt == 8 || a.fmt == 9))

/-- Refusal code of a transfer at issue; 0 when it is accepted. -/
def dmaRefusal (k : CoreSt) (opc : Nat) (ds dd di : DescReg) (opts : Nat) : Nat :=
  let a := ds.tens
  let b := dd.tens
  let i := di.tens
  let idx := isIndexed opc
  lowest [codeIf (dmaFormatBad opc a b i) 1, codeIf (dmaShapeBad opc a b i) 2,
    codeIf (!ds.rd || (idx && !di.rd) || !dd.wr || (opc == 0x14 && !dd.rd)) 3,
    codeIf (optAlloc opts == 3 || bitsOf opts 7 4 != 0 ||
      (optSts opts && (optStsAddr opts % 16 != 0 || !inPart k (optStsAddr opts) 16))) 4,
    codeIf (decide (2 ^ 25 < rangeBytes (meetRanges a b))) 5, codeIf (idx && !(meetRanges i b).isEmpty) 6]

/-- Record a refusal on the DMA page (R238). -/
def dmaRefuse (s : State) (c code opc tag : Nat) : State :=
  let s := setF s F.DMA_STS_REFUSE c code
  let s := setF s F.DMA_STS_OP c (opc - 0x10)
  inc (setF s F.DMA_STS_TAG c tag) F.DMA_CNT1_REFUSE_CNT c

/-! ### Chunks (R249) -/

/-- Chunks of a transfer. -/
def xferChunks (x : Xfer) : Nat :=
  match x.opc with
  | 0x10 | 0x11 => cdiv (x.dd.tens.count * fmtW x.dd.tens.fmt) 32768
  | 0x12 | 0x13 | 0x14 => x.di.tens.size 0
  | _ => 4

/-- Elements (lane, position) of the destination in chunk `n` of a CPY or XP. -/
def chunkElems (t : Tens) (n : Nat) : List (Nat × Nat) :=
  let w := fmtW t.fmt
  let lo := cdiv (32768 * n) w
  let hi := min t.count (cdiv (32768 * (n + 1)) w)
  (List.range (hi - lo)).map (fun i => ((lo + i) / t.size 0, (lo + i) % t.size 0))

/-- Blocks that a lane of a view supplies: how many, and the number of the first. -/
def viewBlocks (t : Tens) : Nat × Nat :=
  let b := fmtBlock t.fmt
  if b = 0 then (0, 0) else (cdiv (t.size 0) b, (if t.layout = 2 then t.cpos0 else 0) / b)

/-- One thing that a transfer writes: an element from a source element or FILL, a scale byte from a source scale or 1.0, a zero
at a bit address (R234), an element and a block scale that DMA.XP forms anew (R235). -/
inductive DItem where
  | elem (l p : Nat) (src : Option (Nat × Nat))
  | scale (addr : Nat) (src : Option Nat)
  | pad (bit : Nat)
  | xelem (l p : Nat)
  | xscale (l j : Nat)
  deriving DecidableEq, Repr

/-- The scale bytes of a written lane: from the source's blocks or 1.0, and 1.0 for the blocks it does not supply (R233). -/
def laneScales (a b : Tens) (la lb : Nat) (fill : Bool) : List DItem :=
  let (n, f) := viewBlocks a
  let (_, g) := viewBlocks b
  if fmtBlock b.fmt = 0 then []
  else
    (List.range n).map (fun j => .scale (b.scaleAddr lb (g + j)) (if fill then none else some (a.scaleAddr la (f + j)))) ++
      (if g = 0 then (List.range (b.nb - n)).map (fun j => .scale (b.scaleAddr lb (n + j)) none) else [])

/-- Zeros of R234 for a written lane: positions beyond the size up to L - 1. -/
def padLane (b : Tens) (l : Nat) : List DItem :=
  if b.layout = 2 ∧ b.cpos0 = 0 then
    (List.range (b.padL - b.size 0)).map (fun i => .pad (b.stripeBit l (b.size 0 + i)))
  else []

/-- Zeros of R234 for the lanes absent from the last lane group. -/
def padAbsent (b : Tens) : List DItem :=
  if b.layout = 2 ∧ b.cpos0 = 0 then
    (List.range (64 * cdiv b.lanes 64 - b.lanes)).flatMap (fun i =>
      (List.range b.padL).map (fun p => .pad (b.stripeBit (b.lanes + i) p)))
  else []

/-- A row that moves whole: destination lane `l` from source lane `r`, or FILL (R239, R240). -/
def rowItems (x : Xfer) (l : Nat) (r : Option Nat) : List DItem :=
  let b := x.dd.tens
  (List.range (b.size 0)).map (fun p => .elem l p (r.map (fun q => (q, p)))) ++
    laneScales x.ds.tens b (r.getD 0) l r.isNone ++ padLane b l

/-! ### DMA.XP (R235) -/

/-- Source element of destination element (l, p) of a transposition: the two innermost indices change places. -/
def xpSource (a b : Tens) (l p : Nat) : Nat × Nat := (l / b.size 1 * a.size 1 + p, l % b.size 1)

/-- Re-block one element: its code scaled by 2^(s - d), rounded once; and whether it vanished. -/
def xpElem (fmt code : Nat) (s d : Nat) : Nat × Bool :=
  match elemFV fmt code with
  | .fin n m e =>
    let (mb, bias, sp) := (if fmt = 3 then (3, (7 : Int), 7) else if fmt = 4 then (2, 15, 7) else if fmt = 5 then (2, 3, 5)
      else (3, 1, 5) : Nat × Int × Nat)
    let v := roundMag .nearest mb bias m (e + s - d)
    (v + (if n then 2 ^ sp else 0), v == 0 && m != 0)
  | _ => (code, false)

/-- Positions of the destination block of position `p`. -/
def xpBlock (b : Tens) (p : Nat) : List Nat :=
  ((List.range 32).map (fun i => p / 32 * 32 + i)).filter (fun q => decide (q < b.size 0))

/-- Address of the source scale that destination element (l, p) carried. -/
def xpScaleAddr (a b : Tens) (l p : Nat) : Nat :=
  let (sl, sp) := xpSource a b l p
  a.scaleAddr sl (a.blockOf sp)

/-- Scale of the destination block of (l, p): the largest of its source scales, and whether one is poisoned. -/
def xpScale (a b : Tens) (rd : Nat → Byte × Bool) (l p : Nat) : Nat × Bool :=
  let ss := (xpBlock b p).map (fun q => rd (xpScaleAddr a b l q))
  ((ss.map (fun v => v.1.toNat)).foldl max 0, ss.any (fun v => v.2))

/-- Items of destination elements `es` of a transposition that re-blocks. -/
def xpItems (b : Tens) (es : List (Nat × Nat)) : List DItem :=
  let n := (viewBlocks b).1
  let lane (l : Nat) : List DItem :=
    (List.range n).map (fun j => .xscale l j) ++
      (if (viewBlocks b).2 = 0 then (List.range (b.nb - n)).map (fun j => .scale (b.scaleAddr l (n + j)) none) else []) ++ padLane b l
  es.map (fun e => .xelem e.1 e.2) ++ (es.filter (fun e => e.2 == 0)).flatMap (fun e => lane e.1)

/-! ### Indices (R240 to R242) -/

/-- The row that index `v` selects among `n`, or none when it faults. -/
def resolveIdx (wrap : Bool) (n : Nat) (v : Int) : Option Nat :=
  if 0 ≤ v ∧ v < n then some v.toNat
  else if wrap ∧ -(n : Int) ≤ v ∧ v < 0 then some (v + n).toNat
  else none

/-- The row that index number `i` of a transfer selects on the indexed side. -/
def idxRow (x : Xfer) (i : Nat) : Option Nat :=
  let n := if x.opc = 0x12 then x.ds.tens.lanes else x.dd.tens.lanes
  resolveIdx (optWrap x.opts.toNat) n (x.idx.getD (i - x.idxAt) 0)

/-- What row `i` of a gather or scatter writes by itself: of a scatter, only the highest source row of a destination row
(R242). -/
def indexedItems (x : Xfer) (i : Nat) : List DItem :=
  if x.opc = 0x12 then rowItems x i (idxRow x i)
  else
    match idxRow x i with
    | none => []
    | some r =>
      if (List.range (x.di.tens.size 0 - i - 1)).any (fun j => idxRow x (i + 1 + j) == some r) then [] else rowItems x r (some i)

/-- Rows that a gather writes when it comes to row `i`: it fetches a source row once for the rows of a group of 256 that name
it, and writes them all; at the later ones nothing is left to do (R241, R249). -/
def gatherRows (x : Xfer) (i : Nat) : List Nat :=
  match idxRow x i with
  | none => [i]
  | some r =>
    let lo := max x.idxAt (i / 256 * 256)
    let hi := min (x.di.tens.size 0) (i / 256 * 256 + 256)
    if (List.range (i - lo)).any (fun j => idxRow x (lo + j) == some r) then []
    else ((List.range (hi - i)).map (fun j => i + j)).filter (fun j => idxRow x j == some r)

/-- What chunk `n` of a CPY, XP, GATH or SCAT writes. -/
def chunkItems (x : Xfer) (n : Nat) : List DItem :=
  let a := x.ds.tens
  let b := x.dd.tens
  (match x.opc with
   | 0x12 => (gatherRows x n).flatMap (indexedItems x)
   | 0x13 => indexedItems x n
   | opc =>
     let es := chunkElems b n
     if opc = 0x11 ∧ fmtBlock a.fmt ≠ 0 then xpItems b es
     else
       es.map (fun e => .elem e.1 e.2 (some (if opc = 0x11 then xpSource a b e.1 e.2 else e))) ++
         (es.filter (fun e => e.2 == 0)).flatMap (fun e => laneScales a b e.1 e.1 false ++ padLane b e.1)) ++
  (if n + 1 = xferChunks x then padAbsent b else [])

/-- What the chunks after chunk `n` write. -/
def laterItems (x : Xfer) (n : Nat) : List DItem :=
  (List.range (xferChunks x - n - 1)).flatMap (fun j =>
    let m := n + 1 + j
    if isIndexed x.opc then indexedItems x m ++ (if m + 1 = xferChunks x then padAbsent x.dd.tens else []) else chunkItems x m)

/-! ### Items as bytes -/

/-- Bytes of the destination that an item writes. -/
def itemDest (b : Tens) : DItem → List Nat
  | .elem l p _ => b.bytesAt l p
  | .scale a _ => [a]
  | .pad bit => (elemWrites b bit 0 false).map (fun w => w.addr)
  | .xelem l p => b.bytesAt l p
  | .xscale l j => [b.scaleAddr l ((viewBlocks b).2 + j)]

/-- Bytes of the source that an item is formed from. -/
def itemSrc (a b : Tens) : DItem → List Nat
  | .elem _ _ (some (l, p)) => a.bytesAt l p
  | .scale _ (some n) => [n]
  | .xelem l p => a.bytesAt (xpSource a b l p).1 (xpSource a b l p).2 ++ (xpBlock b p).map (xpScaleAddr a b l)
  | .xscale l j => (xpBlock b (32 * j)).map (xpScaleAddr a b l)
  | _ => []

/-- Code and poison of a source element. -/
def srcElem (rd : Nat → Byte × Bool) (t : Tens) (l p : Nat) : Nat × Bool :=
  let bs := (t.bytesAt l p).map rd
  (t.elemBits l p (bs.map (fun b => b.1)), bs.any (fun b => b.2))

/-- The element that a re-blocking transposition writes at (l, p): code, poison, whether it vanished. -/
def xpValue (a b : Tens) (rd : Nat → Byte × Bool) (l p : Nat) : Nat × Bool × Bool :=
  let (sl, sp) := xpSource a b l p
  let (v, q) := srcElem rd a sl sp
  let (d, dq) := xpScale a b rd l p
  let (w, van) := if d = 255 then (0, false) else xpElem a.fmt v (rd (xpScaleAddr a b l p)).1.toNat d
  (w, q || dq, van)

/-- What an item writes, source byte by source byte as `rd` gives them. -/
def itemWrites (x : Xfer) (rd : Nat → Byte × Bool) : DItem → List BWrite
  | .elem l p src =>
    let (v, q) := match src with
      | some (r, i) => srcElem rd x.ds.tens r i
      | none => (fillCode x.dd.tens.fmt x.opts.toNat, false)
    elemWrites x.dd.tens (x.dd.tens.bitAddr l p) v q
  | .scale a (some n) => [⟨a, 255, (rd n).1.toNat, (rd n).2⟩]
  | .scale a none => [⟨a, 255, scaleOne (fmtSmode x.dd.tens.fmt), false⟩]
  | .pad bit => elemWrites x.dd.tens bit 0 false
  | .xelem l p =>
    let v := xpValue x.ds.tens x.dd.tens rd l p
    elemWrites x.dd.tens (x.dd.tens.bitAddr l p) v.1 v.2.1
  | .xscale l j =>
    let d := xpScale x.ds.tens x.dd.tens rd l (32 * j)
    [⟨x.dd.tens.scaleAddr l ((viewBlocks x.dd.tens).2 + j), 255, d.1, d.2⟩]

/-- The item is an element that vanishes (R235). -/
def itemVan (x : Xfer) (rd : Nat → Byte × Bool) : DItem → Bool
  | .xelem l p => (xpValue x.ds.tens x.dd.tens rd l p).2.2
  | _ => false

/-! ### Staged bytes (R246, R247) -/

/-- The staging user that transfer `x` of core `c` is. -/
def stgUser (s : State) (c : Nat) (x : Xfer) : StgUser := ⟨(boundOf (coreOf s c)).ctx, (boundOf (coreOf s c)).vcore, x.id⟩

/-- Staging units that a user holds. -/
def unitsOf (s : State) (u : StgUser) : List Nat := ((s.stgHeld.find? (fun h => h.1 == u)).map (fun h => h.2)).getD []

/-- CD and DSM address of byte `j` of the staged bytes of units `us`: unit u is 64 KiB of the top 4 MiB of CD u / 64 (R246). -/
def unitAddr (us : List Nat) (j : Nat) : Nat × Nat :=
  let u := us.getD (j / 65536) 0
  (u / 64, 0x1C00000 + 65536 * (u % 64) + j % 65536)

/-- Sort disjoint ranges. -/
def sortRanges (l : List (Nat × Nat)) : List (Nat × Nat) := (l.foldl (fun m r => sins m r.1 r) ([] : Sparse (Nat × Nat))).map (fun e => e.2)

/-- The overlap of a transfer, range by range (R244). -/
def overlapOf (x : Xfer) : List (Nat × Nat) := sortRanges (meetRanges x.ds.tens x.dd.tens)

/-- Place of address `a` among the overlap bytes, in their order of address (the layout of staged bytes is a DESIGN CHOICE,
notes/assumptions/41.md). -/
def stagedAt (ov : List (Nat × Nat)) (a : Nat) : Nat :=
  (ov.map (fun r => min r.2 (max r.1 a) - r.1)).foldl (· + ·) 0

/-- A byte of the source: from the staging units when it was staged, else from the lines read. -/
def srcByte (s : State) (us : List Nat) (ov : List (Nat × Nat)) (buf : LineBuf) (a : Nat) : Byte × Bool :=
  if inRanges ov a then
    let (cd, d) := unitAddr us (stagedAt ov a)
    sramReadB (dsmOf s cd) d
  else bufByte buf a

/-- The overlap that phase W reads from the staging units; none in another phase. -/
def stagedOv (x : Xfer) : List (Nat × Nat) := if x.phase = .w then overlapOf x else []

/-- Read the source bytes `as` of a transfer: what each of them holds. -/
def readSource (s : State) (c : Nat) (x : Xfer) (as : List Nat) : Except XFault (Nat → Byte × Bool) × State :=
  let ov := stagedOv x
  match readLines s c x.ds.tens.space (allocOf (optAlloc x.opts.toNat)) (linesUsed (as.filter (fun a => !inRanges ov a))) [] with
  | (.error f, s) => (.error f, s)
  | (.ok buf, s) => (.ok (srcByte s (unitsOf s (stgUser s c x)) ov buf), s)

/-! ### Performing a chunk -/

/-- How a chunk ends: moved on, suspended by a fault, stopped with a cause, or refused. -/
inductive ChunkEnd where
  | ok
  | fault (f : XFault) (acc : Access)
  | uncorrectable
  | refused (code : Nat)
  deriving DecidableEq, Repr

/-- Read the source header and check it, then write the destination header (R233, R238). -/
def dmaHeader (s : State) (c : Nat) (x : Xfer) : ChunkEnd × State :=
  let a := x.ds.tens
  let b := x.dd.tens
  let cls := allocOf (optAlloc x.opts.toNat)
  if !fmtScaled a.fmt || x.opc == 0x14 then (.ok, s)
  else
    match spRead s c a.space a.scaleBase 16 cls with
    | (.error f, s) => (.fault f .read, s)
    | (.ok h, s) =>
      let bs := h.map (fun v => v.1)
      if h.any (fun v => v.2) then (.uncorrectable, s)
      else if x.opc = 0x11 ∧ fieldLE bs 4 5 ≠ 0 then (.refused 7, s)
      else if fieldLE bs 7 7 ≠ a.fmt ∨ fieldLE bs 6 6 ≠ fmtSmode a.fmt then (.refused 8, s)
      else
        match spWrite s c b.space b.scaleBase (bs.take 9 ++ List.replicate 7 0) false cls with
        | (.error f, s) => (.fault f .write, s)
        | (.ok _, s) => (.ok, s)

/-- Write the items `own` of a chunk and, of the items `later` of the chunks behind it, the bytes that share a 16-byte granule
with them: so that no granule ever holds old and new bytes together (R59), and every chunk below PROG is written (R249). Also
the items of `own` that vanished. -/
def moveItems (s : State) (c : Nat) (x : Xfer) (own later : List DItem) : ChunkEnd × Nat × State :=
  let b := x.dd.tens
  let grans := ((own.flatMap (itemDest b)).map (fun a => a / 16)).eraseDups
  let ext := later.filter (fun i => (itemDest b i).any (fun a => grans.contains (a / 16)))
  match readSource s c x ((own ++ ext).flatMap (itemSrc x.ds.tens b)) with
  | (.error f, s) => (.fault f .read, 0, s)
  | (.ok rd, s) =>
    let ws := own.flatMap (itemWrites x rd) ++ (ext.flatMap (itemWrites x rd)).filter (fun w => grans.contains (w.addr / 16))
    match commitWrites s c b.space (allocOf (optAlloc x.opts.toNat)) ws with
    | (.error f, s) => (.fault f .write, 0, s)
    | (.ok _, s) => (.ok, (own.filter (itemVan x rd)).length, s)

/-- The transfer with its indices from row PROG on, read once (R240, R241). -/
def readIdx (s : State) (c : Nat) (x : Xfer) : Except ChunkEnd Xfer × State :=
  let t := x.di.tens
  if !isIndexed x.opc ∨ x.idx ≠ [] then (.ok x, s)
  else
    let is := (List.range (t.size 0 - x.prog)).map (fun i => x.prog + i)
    let as := is.flatMap (t.bytesAt 0)
    match readLines s c t.space (allocOf (optAlloc x.opts.toNat)) (linesUsed as) [] with
    | (.error f, s) => (.error (.fault f .read), s)
    | (.ok buf, s) =>
      if as.any (fun a => (bufByte buf a).2) then (.error .uncorrectable, s)
      else
        (.ok { x with
          idxAt := x.prog
          idx := is.map (fun i => signedOf 32 (t.elemBits 0 i ((t.bytesAt 0 i).map (fun a => (bufByte buf a).1)))) }, s)

/-- The first address of a list in each 64 KiB page that it touches, with length 1: what a translation of the pages needs. -/
def pageFirsts (as : List Nat) : List (Nat × Nat) :=
  ((as.map (fun a => a / 65536)).eraseDups).map (fun p =>
    ((as.filter (fun a => a / 65536 == p)).foldl min (65536 * p + 65535), 1))

/-- Translate the pages of destination bytes `as` in space `sp` of core `c`'s context. -/
def translateBytes (s : State) (c sp : Nat) (acc : Access) (as : List Nat) : Except XFault Unit × State :=
  if sp ≠ 0 then (.ok (), s)
  else
    match translateRange s (cdOf c) (boundOf (coreOf s c)).ctx acc (pageFirsts as) with
    | (.ok _, s) => (.ok (), s)
    | (.error f, s) => (.error f, s)

/-- One row of a scatter-add (R242): every page of the destination row is translated first (R249), then source and destination
are read and each element added with one rounding. An add is a write of its own: what a granule that two rows share holds
between their adds is the new value of the first. -/
def addRow (s : State) (c : Nat) (x : Xfer) (i r : Nat) : ChunkEnd × State :=
  let a := x.ds.tens
  let b := x.dd.tens
  let cls := allocOf (optAlloc x.opts.toNat)
  let ps := List.range (b.size 0)
  let sa := ps.flatMap (a.bytesAt i)
  let da := ps.flatMap (b.bytesAt r)
  match readSource s c x sa with
  | (.error f, s) => (.fault f .read, s)
  | (.ok rd, s) =>
    match translateBytes s c b.space .readWrite da with
    | (.error f, s) => (.fault f .readWrite, s)
    | (.ok _, s) =>
      match readLines s c b.space cls (linesUsed da) [] with
      | (.error f, s) => (.fault f .readWrite, s)
      | (.ok old, s) =>
        if sa.any (fun d => (rd d).2) || da.any (fun d => (bufByte old d).2) then (.uncorrectable, s)
        else
          let ws := ps.flatMap (fun p =>
            let o := b.elemBits r p ((b.bytesAt r p).map (fun d => (bufByte old d).1))
            elemWrites b (b.bitAddr r p) (fadd (BitVec.ofNat 32 o) (BitVec.ofNat 32 (srcElem rd a i p).1)).toNat false)
          match commitWrites s c b.space cls ws with
          | (.error f, s) => (.fault f .readWrite, s)
          | (.ok _, s) => (.ok, s)

/-- One chunk of a transfer of Table 8.6 with its indices: how it ends, elements that vanished. -/
def chunkBody (s : State) (c : Nat) (x : Xfer) : ChunkEnd × Nat × State :=
  match (if x.prog = 0 then dmaHeader s c x else (.ok, s)) with
  | (.ok, s) =>
    if x.opc = 0x14 then
      match idxRow x x.prog with
      | some r =>
        let (e, s) := addRow s c x x.prog r
        (e, 0, s)
      | none => (.ok, 0, s)
    else moveItems s c x (chunkItems x x.prog) (laterItems x x.prog)
  | (e, s) => (e, 0, s)

/-- A chunk of a transfer of Table 8.6, the transfer after it with its faulting indices counted (R240), elements that vanished.
Phase W uses the translations of phase S, so it never faults (R247). -/
def plainChunk (s : State) (c : Nat) (x : Xfer) : ChunkEnd × Xfer × Nat × State :=
  match readIdx s c x with
  | (.error e, s) => (e, x, 0, s)
  | (.ok x, s) =>
    let die := cdOf c
    let old := xltOf s die
    let (e, van, s) := chunkBody (if x.phase = .w then setXlt s die (x.pins ++ old) else s) c x
    let s := if x.phase = .w then setXlt s die old else s
    let f := if isIndexed x.opc && (idxRow x x.prog).isNone && e == .ok then 1 else 0
    (e, { x with idxflt := min (x.idxflt + f) (2 ^ 32 - 1) }, van, s)

end Sys2Proof.Machine
end

