-- ==== Sys2Proof/Machine/Stack.lean ====
section
/-! DEFINITION. Machine/Stack.lean: the woodpile (R167 to R178), and the commands that carry DMA transfers forward (R237,
R246 to R251). -/

namespace Sys2Proof.Machine

/-! ### Streams (R167, R173) -/

def nStreams (s : State) (c : Nat) : Nat := getF s F.BWD_WP_CFG_NSTRM1 c + 1

/-- Bytes of a stream's partition, Q. -/
def streamSize (s : State) (c : Nat) : Nat := getF s F.BWD_WP_CFG_SLICE c / nStreams s c * 65536

/-- DVA of the first byte of stream `st`. -/
def streamBase (s : State) (c st : Nat) : Nat :=
  getPair s F.BWD_WP_BASE_LO_BASE_LO F.BWD_WP_BASE_HI_BASE_HI c + st * streamSize s c

/-- WP_SP of stream `st`. -/
def spFld (st : Nat) : Fld := ⟨.bwd, 0x140 + 4 * st, 31, 0, .rw, 0⟩

def spOf (s : State) (c st : Nat) : Nat := getF s (spFld st) c

/-- Segments of a stream's window part. -/
def winSegs (s : State) (c : Nat) : Nat := getF s F.BWD_WP_WIN_NSEG c / nStreams s c

/-- Bytes of a stream's window part. -/
def winSize (s : State) (c : Nat) : Nat := 65536 * winSegs s c

/-- Partition address that mirrors stream offset `o` (DESIGN CHOICE, notes/assumptions/16.md: the part is used as a ring). -/
def winAddr (s : State) (c st o : Nat) : Nat :=
  65536 * (getF s F.BWD_WP_WIN_SEG0 c + st * winSegs s c) + o % winSize s c

def winLoOf (s : State) (c st : Nat) : Nat := sget 0 (coreOf s c).winLo st

def setWinLo (s : State) (c st v : Nat) : State := modCore s c (fun k => { k with winLo := sset 0 k.winLo st v })

def spillsOf (s : State) (c st : Nat) : List (Nat × Nat) := sget [] (coreOf s c).spills st

def setSpills (s : State) (c st : Nat) (l : List (Nat × Nat)) : State :=
  modCore s c (fun k => { k with spills := sset [] k.spills st l })

/-- POPs of a stream that have read their trailer and not completed lower its top. -/
def stackTop (s : State) (c st : Nat) : Nat :=
  spOf s c st - (((xferList (coreOf s c)).filter (fun x => x.opc == 0x16 && x.stream == st && x.trailerRead)).map
    (fun x => x.size)).foldl (· + ·) 0

/-- A POP of the stream has not read its trailer (R171). -/
def popUnread (s : State) (c st : Nat) : Bool :=
  (xferList (coreOf s c)).any (fun x => x.opc == 0x16 && x.stream == st && !x.trailerRead)

/-! ### Options and entries (R168, R169) -/

def soStream (o : Nat) : Nat := bitsOf o 3 0
def soSlope (o : Nat) : Bool := bitAt o 4
def soDropOk (o : Nat) : Bool := bitAt o 5
def soSts (o : Nat) : Bool := bitAt o 6
def soLtag (o : Nat) : Nat := bitsOf o 23 8
def soStsAddr (o : Nat) : Nat := bitsOf o 47 24
def soMbseq (o : Nat) : Nat := bitsOf o 63 48

def pad64 (n : Nat) : Nat := 64 * cdiv n 64

def extentBytes (t : Tens) : Nat := t.extent.2 - t.extent.1

/-- Bytes of a tensor's scale header and block scales. -/
def scaleBytes (t : Tens) : Nat := if fmtScaled t.fmt then 16 + t.lanes * t.nb else 0

def entrySize (d sc sl : Nat) : Nat := pad64 d + pad64 sc + pad64 sl + 64

/-- Soft limit of a stream (R174). -/
def softLimit (s : State) (c : Nat) : Nat :=
  let v := getF s F.BWD_WP_SOFT_SOFT c
  if v = 0 then streamSize s c else 65536 * v

/-- A push of `size` bytes onto a stream whose top is `top` writes a marker (R174). -/
def pushMarker (s : State) (c top opts size : Nat) : Bool :=
  soDropOk opts && decide (softLimit s c < top + size)

/-- Size of the entry of a PUSH of `ds` with options `opts`. -/
def pushSize (ds : Tens) (opts : Nat) : Nat :=
  entrySize (extentBytes ds) (scaleBytes ds) (if soSlope opts then ds.count else 0)

/-- Size of the entry that a PUSH writes on a stream whose top is `top`: a marker is a trailer alone. -/
def entryBytes (s : State) (c top : Nat) (ds : Tens) (opts : Nat) : Nat :=
  if pushMarker s c top opts (pushSize ds opts) then 64 else pushSize ds opts

/-- CONFIG case of Table 6.4. -/
def stackConfigBad (s : State) (c opts : Nat) : Bool :=
  decide (nStreams s c ≤ soStream opts) || getF s F.BWD_WP_CFG_SLICE c == 0 ||
    decide ((coreOf s c).partLen < getF s F.BWD_WP_WIN_SEG0 c + getF s F.BWD_WP_WIN_NSEG c ∧ 0 < getF s F.BWD_WP_WIN_NSEG c)

/-- Refusal of a PUSH at issue on a stream whose top is `top`. -/
def pushRefusal (s : State) (c top : Nat) (ds dd : Tens) (opts : Nat) : Nat :=
  lowest [codeIf (decide (streamSize s c < top + entryBytes s c top ds opts)) 1,
    codeIf (soSlope opts && (dd.count != ds.count || dd.fmt != 0)) 4, codeIf (stackConfigBad s c opts) 7]

/-- Refusal of a POP at issue on a stream whose top is `top`. -/
def popRefusal (s : State) (c top opts : Nat) : Nat :=
  lowest [codeIf (top == 0) 2,
    codeIf (soSts opts && (soStsAddr opts % 8 != 0 || !inPart (coreOf s c) (soStsAddr opts) 8)) 6,
    codeIf (stackConfigBad s c opts) 7]

/-- Record a stack refusal (R175). -/
def stackRefuse (s : State) (c code opc stream : Nat) : State :=
  let s := setF s F.BWD_WP_STS_CAUSE c code
  let s := setF s F.BWD_WP_STS_OP c (opc - 0x15)
  inc (setF s F.BWD_WP_STS_STREAM c stream) F.BWD_WP_CNT1_REFUSE_CNT c

/-- The 64 bytes of a trailer (Table 6.3). -/
def trailerBytes (x : Xfer) : List Byte :=
  leBytes 4 x.dbytes ++ leBytes 4 x.scbytes ++ leBytes 4 x.sbytes ++ leBytes 2 (soLtag x.opts.toNat) ++
    leBytes 2 (soMbseq x.opts.toNat) ++
    leBytes 1 ((if x.marker then 1 else 0) + (if x.slope then 2 else 0)) ++ leBytes 1 x.ds.tens.fmt ++ leBytes 6 0 ++
    leBytes 8 x.ft ++ leBytes 32 0

/-! ### Reading and writing the stack -/

/-- Byte writes of `bs` from address `a` on. -/
def byteWrites (a : Nat) (bs : List (Byte × Bool)) : List BWrite := bs.mapIdx (fun i b => ⟨a + i, 255, b.1.toNat, b.2⟩)

/-- Write bytes into an SRAM granule by granule, each with the poison of its bytes. -/
def sramPutRuns (m : Sram) (l : List (Nat × List Byte × Bool)) : Sram := l.foldl (fun m r => sramWrite m r.1 r.2.1 r.2.2) m

/-- Bytes enter the window at stream offset `o`. They lie in the window segments of the partition; the window keeps what it
mirrors beside them, for no access to those segments changes the stack (R173; notes/assumptions/16.md). -/
def winPut (s : State) (c st o : Nat) (bs : List (Byte × Bool)) : State :=
  let runs := runsOf (bs.mapIdx (fun i b => (partAddr (coreOf s c) (winAddr s c st (o + i)), b)))
  modCore s c (fun k => { k with spm := sramPutRuns k.spm runs, win := sramPutRuns k.win runs })

/-- Bytes that the window holds at stream offset `o`. -/
def winGet (s : State) (c st o n : Nat) : List (Byte × Bool) :=
  (List.range n).map (fun i => sramReadB (coreOf s c).win (partAddr (coreOf s c) (winAddr s c st (o + i))))

/-- Write bytes with poison at stream offset `o`: into the window, to be spilled, or straight to device memory. -/
def stackWrite (s : State) (c st o : Nat) (bs : List (Byte × Bool)) : Except XFault Unit × State :=
  if bs.isEmpty then (.ok (), s)
  else if winLoOf s c st ≤ o ∧ 0 < winSize s c then
    (.ok (), setSpills (winPut s c st o bs) c st (spillsOf s c st ++ [(o, o + bs.length)]))
  else commitWrites s c 0 .normal (byteWrites (streamBase s c st + o) bs)

/-- Read `n` bytes at `a` of a space by lines. -/
def readBytes (s : State) (c sp a n : Nat) : Except XFault (List (Byte × Bool)) × State :=
  if n = 0 then (.ok [], s)
  else
    match readLines s c sp .normal ((List.range ((a + n - 1) / 64 - a / 64 + 1)).map (fun i => a / 64 + i)) [] with
    | (.ok buf, s) => (.ok ((List.range n).map (fun i => bufByte buf (a + i))), s)
    | (.error f, s) => (.error f, s)

/-- Read `n` bytes at stream offset `o` from the window, or from device memory line by line. -/
def stackRead (s : State) (c st o n : Nat) (win : Bool) : Except XFault (List (Byte × Bool)) × State :=
  if win then (.ok (winGet s c st o n), s) else readBytes s c 0 (streamBase s c st + o) n

/-- Pad with zero bytes to a multiple of 64. -/
def padBytes (l : List (Byte × Bool)) : List (Byte × Bool) := l ++ List.replicate (pad64 l.length - l.length) (0, false)

/-- A slope code as stored, and whether it is bad (R178). -/
def slopeByte (w : Word32) : Nat × Bool :=
  match (List.range 256).find? (fun n => FV.eq (f32 w) (.fin false n 0)) with
  | some n => (n, false)
  | none => (255, true)

/-- FP32 elements of a tensor in element order. -/
def readWords (s : State) (c : Nat) (t : Tens) : Except XFault (List (Word32 × Bool)) × State :=
  let es := (List.range t.lanes).flatMap (fun l => (List.range (t.size 0)).map (fun p => (l, p)))
  let as := es.flatMap (fun e => t.bytesAt e.1 e.2)
  match readLines s c t.space .normal (linesUsed as) [] with
  | (.ok buf, s) =>
    (.ok (es.map (fun e =>
      let bs := (t.bytesAt e.1 e.2).map (bufByte buf)
      (BitVec.ofNat 32 (t.elemBits e.1 e.2 (bs.map (fun b => b.1))), bs.any (fun b => b.2)))), s)
  | (.error f, s) => (.error f, s)

/-! ### PUSH and POP chunks -/

/-- A transfer of the stream issued before this one is outstanding (R172). -/
def streamBehind (s : State) (c : Nat) (x : Xfer) : Bool :=
  (xferList (coreOf s c)).any (fun y => decide (0x15 ≤ y.opc) && y.stream == x.stream && decide (y.id < x.id))

/-- Make room in the window for an entry: nothing when bytes that must leave are not spilled yet (R173). -/
def windowRoom (s : State) (c : Nat) (x : Xfer) : Option State :=
  let top := x.entry + x.size
  let need := if x.size ≤ winSize s c then top - winSize s c else top
  if (spillsOf s c x.stream).any (fun r => decide (r.1 < need)) then none
  else if need ≤ winLoOf s c x.stream then some s
  else some (setWinLo s c x.stream need)

/-- Offset of part `n` of an entry. -/
def partOffset (x : Xfer) (n : Nat) : Nat :=
  match n with
  | 0 => x.entry
  | 1 => x.entry + pad64 x.dbytes
  | 2 => x.entry + pad64 x.dbytes + pad64 x.scbytes
  | _ => x.entry + x.size - 64

/-- What a chunk of a stack transfer does: nothing when it waits. -/
def pushChunk (s : State) (c : Nat) (x : Xfer) : Option (ChunkEnd × State) :=
  if streamBehind s c x then none
  else
    match (if x.prog = 0 then windowRoom s c x else some s) with
    | none => none
    | some s =>
      let t := x.ds.tens
      let put (s : State) (bs : List (Byte × Bool)) : Option (ChunkEnd × State) :=
        match stackWrite s c x.stream (partOffset x x.prog) bs with
        | (.ok _, s) => some (.ok, s)
        | (.error f, s) => some (.fault f .write, s)
      if x.prog = 3 then put s ((trailerBytes x).map (fun b => (b, false)))
      else if x.marker then some (.ok, s)
      else
        match x.prog with
        | 0 =>
          match readBytes s c t.space t.extent.1 x.dbytes with
          | (.ok bs, s) => put s (padBytes bs)
          | (.error f, s) => some (.fault f .read, s)
        | 1 =>
          match readBytes s c t.space t.scaleBase (if x.scbytes = 0 then 0 else 16) with
          | (.error f, s) => some (.fault f .read, s)
          | (.ok h, s) =>
            match readBytes s c t.space (t.scaleAddr 0 0) (x.scbytes - 16) with
            | (.ok bs, s) => put s (padBytes (h ++ bs))
            | (.error f, s) => some (.fault f .read, s)
        | _ =>
          if x.slope then
            match readWords s c x.dd.tens with
            | (.ok ws, s) =>
              let bad := (ws.filter (fun w => (slopeByte w.1).2)).length
              match put s (padBytes (ws.map (fun w => (BitVec.ofNat 8 (slopeByte w.1).1, w.2)))) with
              | some (.ok, s) => some (.ok, incBy s F.BWD_WP_CNT_SLOPE_BAD_CNT c bad)
              | r => r
            | (.error f, s) => some (.fault f .read, s)
          else some (.ok, s)

/-- The POP `x` with what its trailer `b` says. -/
def popTrailer (x : Xfer) (top lo wsz : Nat) (b : List Byte) : Xfer :=
  let d := fieldLE b 0 3
  let sc := fieldLE b 4 7
  let sl := fieldLE b 8 11
  let size := entrySize d sc sl
  { x with dbytes := d, scbytes := sc, sbytes := sl, marker := bitAt (fieldLE b 16 16) 0, slope := bitAt (fieldLE b 16 16) 1,
           size := size, entry := top - size, trailerRead := true, fromWin := decide (lo ≤ top - size ∧ 0 < wsz) }

/-- Run refusal of a POP (Table 6.4). -/
def popRunRefusal (x : Xfer) (b : List Byte) : Nat :=
  let o := x.opts.toNat
  let t := x.dd.tens
  lowest [codeIf (soLtag o != 0xFFFF && soLtag o != fieldLE b 12 13) 3,
    codeIf (!x.marker && (extentBytes t != x.dbytes || t.fmt != fieldLE b 17 17 || decide (scaleBytes t < x.scbytes))) 4,
    codeIf (!x.marker && soSlope o != x.slope) 5]

/-- A chunk of a POP, with the transfer as it stands after it. -/
def popChunk (s : State) (c : Nat) (x : Xfer) : Option (ChunkEnd × Xfer × State) :=
  if streamBehind s c x then none
  else
    let st := x.stream
    let lo := winLoOf s c st
    let wsz := winSize s c
    let top := stackTop s c st
    let t := x.dd.tens
    let put (s : State) (sp a : Nat) (bs : List (Byte × Bool)) : Option (ChunkEnd × Xfer × State) :=
      match commitWrites s c sp .normal (byteWrites a bs) with
      | (.ok _, s) => some (.ok, x, s)
      | (.error f, s) => some (.fault f .write, x, s)
    let waits := !x.fromWin && (spillsOf s c st).any (fun r => decide (x.entry < r.2))
    match x.prog with
    | 0 =>
      let win := decide (lo ≤ top - 64 ∧ 0 < wsz)
      if !win && (spillsOf s c st).any (fun r => decide (top - 64 < r.2)) then none
      else
        match stackRead s c st (top - 64) 64 win with
        | (.error f, s) => some (.fault f .read, x, s)
        | (.ok bs, s) =>
          if bs.any (fun b => b.2) then some (.uncorrectable, x, s)
          else
            let b := bs.map (fun v => v.1)
            let y := popTrailer x top lo wsz b
            let code := popRunRefusal y b
            if code = 0 then some (.ok, y, s) else some (.refused code, x, s)
    | 1 =>
      if x.marker then some (.ok, x, s)
      else if waits then none
      else
        match stackRead s c st x.entry x.dbytes x.fromWin with
        | (.ok bs, s) => put s t.space t.extent.1 bs
        | (.error f, s) => some (.fault f .read, x, s)
    | 2 =>
      if x.marker ∨ x.scbytes = 0 then some (.ok, x, s)
      else if waits then none
      else
        match stackRead s c st (partOffset x 1) x.scbytes x.fromWin with
        | (.error f, s) => some (.fault f .read, x, s)
        | (.ok bs, s) =>
          match put s t.space t.scaleBase (bs.take 16) with
          | some (.ok, _, s) => put s t.space (t.scaleAddr 0 0) (bs.drop 16)
          | r => r
    | _ =>
      if x.marker ∨ !x.slope then some (.ok, x, s)
      else if waits then none
      else
        let d := x.ds.tens
        match stackRead s c st (partOffset x 2) x.sbytes x.fromWin with
        | (.error f, s) => some (.fault f .read, x, s)
        | (.ok bs, s) =>
          let es := (List.range d.lanes).flatMap (fun l => (List.range (d.size 0)).map (fun p => (l, p)))
          let ws := (es.zip bs).flatMap (fun e =>
            elemWrites d (d.bitAddr e.1.1 e.1.2) (slopeDec e.2.1.toNat).toNat e.2.2)
          match commitWrites s c d.space .normal ws with
          | (.ok _, s) => some (.ok, x, s)
          | (.error f, s) => some (.fault f .write, x, s)

/-! ### Ends of chunks -/

/-- A staging user gives back its units and slices and asks for none (R247). -/
def releaseUser (s : State) (u : StgUser) : State :=
  stgRelease u { s with stgHeld := s.stgHeld.filter (fun h => h.1 != u), stgQ := s.stgQ.filter (fun h => h.1 != u) }

/-- Every staging user that `p` picks gives back what it has (R247, R251). -/
def releaseUsers (s : State) (p : StgUser → Bool) : State :=
  (((s.stgHeld.map (fun h => h.1)) ++ s.stgQ.map (fun h => h.1)).filter p).foldl releaseUser s

/-- Transfer `x` of core `c` gives back its staging units and slices. -/
def releaseStaging (s : State) (c : Nat) (x : Xfer) : State := releaseUser s (stgUser s c x)

/-- Report a stop cause to the scalar processor of core `c` (R77). -/
def report (s : State) (c code : Nat) : State := modCore s c (fun k => { k with reports := k.reports ++ [⟨code, 0⟩] })

/-- A translation fault of a transfer: that transfer is suspended, the core stops with XLATE_FAULT (R251, R264). -/
def suspendXfer (s : State) (c i : Nat) (x : Xfer) (f : XFault) (acc : Access) : State :=
  let b := boundOf (coreOf s c)
  let s := setXfer s c i (some { x with state := 1, fva := f.va })
  report (raiseFault s b.ctx 0 c f acc (.xfer b.ctx b.vcore x.id)) c 5

/-- Record a run refusal. -/
def runRefuse (s : State) (c code : Nat) (x : Xfer) : State :=
  if x.opc ≤ 0x14 then dmaRefuse s c code x.opc x.tag else stackRefuse s c code x.opc x.stream

/-- The state after a chunk. -/
def endChunk (s : State) (c i : Nat) (x : Xfer) (e : ChunkEnd) : State :=
  match e with
  | .ok => setXfer s c i (some { x with prog := x.prog + 1 })
  | .fault f acc => suspendXfer s c i x f acc
  | .uncorrectable => report (releaseStaging (setXfer s c i none) c x) c 6
  | .refused code => report (runRefuse (releaseStaging (setXfer s c i none) c x) c code x) c 2

/-- DMA_CHUNK: a running transfer moves one chunk (R249); a staged one only in phase W. -/
def dmaChunk (s : State) (c i : Nat) : State :=
  match xferOf (coreOf s c) i with
  | none => s
  | some x =>
    if x.state ≠ 0 ∨ xferChunks x ≤ x.prog ∨ x.phase = .wait ∨ x.phase = .s then s
    else if x.opc = 0x15 then
      match pushChunk s c x with
      | some (e, s) => endChunk s c i x e
      | none => s
    else if x.opc = 0x16 then
      match popChunk s c x with
      | some (e, y, s) => endChunk s c i y e
      | none => s
    else
      let (e, y, v, s) := plainChunk s c x
      endChunk (incBy (incBy s F.DMA_CNT0_IDX_FAULT_CNT c (y.idxflt - x.idxflt)) F.DMA_CNT3_XP_VAN_CNT c v) c i y e

def execDmaChunk (c : CoreId) (x : Fin 16) (s : State) : Host.Outcome State Fault Refusal := .next (dmaChunk s c x)

/-- The status word of a POP (R171). -/
def popStatus (x : Xfer) : Nat := 1 + (if x.marker then 2 else 0) + (if x.fromWin then 4 else 0) + x.dbytes * 2 ^ 32

/-- A POP completes: SP lowered, the window and what waits for its spill cut at the popped entry, its status word written. What
a PUSH issued since puts above the entry's first byte is written later, into the window where the cut leaves it one. -/
def popDone (s : State) (c : Nat) (x : Xfer) : State :=
  let s := setF s (spFld x.stream) c (spOf s c x.stream - x.size)
  let s := if x.entry < winLoOf s c x.stream then setWinLo s c x.stream x.entry else s
  let s := setSpills s c x.stream ((spillsOf s c x.stream).filterMap (fun r =>
    if r.1 < x.entry then some (r.1, min r.2 x.entry) else none))
  let s := if x.fromWin then inc s F.BWD_WP_CNT1_WIN_POP_CNT c else s
  if soSts x.opts.toNat then
    modCore s c (fun k => spmWrite k (soStsAddr x.opts.toNat) (leBytes 8 (popStatus x)) false)
  else s

/-- DMA_TRANSFER_COMPLETE: every chunk is written; the status record, then the tag (R237, R243). -/
def dmaComplete (s : State) (c i : Nat) : State :=
  match xferOf (coreOf s c) i with
  | none => s
  | some x =>
    if x.state ≠ 0 ∨ x.prog < xferChunks x then s
    else
      let s :=
        if x.opc = 0x16 then popDone s c x
        else if x.opc = 0x15 then s
        else
          let s := if 0 < x.idxflt then inc s F.DMA_CNT0_PARTIAL_CNT c else s
          if optSts x.opts.toNat then
            let rec_ := leBytes 1 (if 0 < x.idxflt then 1 else 0) ++ leBytes 1 x.opc ++ leBytes 1 x.tag ++ leBytes 1 0 ++
              leBytes 4 x.idxflt ++ leBytes 8 (ftNow s)
            modCore s c (fun k => spmWrite k (optStsAddr x.opts.toNat) rec_ false)
          else s
      setXfer (releaseStaging s c x) c i none

/-! ### Staging (R246, R247) -/

/-- Staging units in use. -/
def stgUsed (s : State) : Nat := (s.stgHeld.map (fun h => h.2.length)).foldl (· + ·) 0

/-- Staging units that nobody holds, lowest first. -/
def freeUnits (s : State) : List Nat := (List.range 512).filter (fun n => !s.stgHeld.any (fun h => h.2.contains n))

/-- Home MDs of the overlap bytes of a source in device memory, as its pages translate now. -/
def overlapMds (s : State) (c : Nat) (x : Xfer) : List Nat :=
  let k := (boundOf (coreOf s c)).ctx
  if x.ds.tens.space ≠ 0 then []
  else
    ((overlapOf x).flatMap (fun r => (vaPieces (r.2 - r.1 + 1) r.1 (r.2 - r.1)).flatMap (fun p =>
      match (translate s (cdOf c) k p.1 .read).1 with
      | .ok d => (List.range (min 48 (p.2 / 1024 + 2))).map (fun i => dpaMd (min (d + 1024 * i) (d + p.2 - 1)))
      | .fault _ _ _ => []))).eraseDups

/-- The transfer of core `c` with serial number `id`, and its place. -/
def xferById (k : CoreSt) (id : Nat) : Option (Nat × Xfer) :=
  k.xfers.findSome? (fun e => match e.2 with | some x => if x.id = id then some (e.1, x) else none | none => none)

/-- A transfer in phase S asks for a pool slice on every home MD of its overlap on which it has none and waits for none. -/
def askSlices (s : State) (c : Nat) (x : Xfer) : State :=
  (overlapMds s c x).foldl (fun s m => stgRequest m (stgUser s c x) s) s

/-- Grant the units of a request: phase S begins and its slices are asked for (R34, R247). A request of a virtual core that is
not resident has been withdrawn. -/
def grantUnits (s : State) (u : StgUser) (n : Nat) : State :=
  match coreAt s u.ctx u.vcore with
  | none => s
  | some c =>
    match xferById (coreOf s c) u.xfer with
    | none => s
    | some (i, x) =>
      let s := { s with stgHeld := s.stgHeld ++ [(u, (freeUnits s).take n)] }
      let x := { x with phase := DmaPhase.s }
      askSlices (setXfer s c i (some x)) c x

/-- A request to the arbiter: granted at once, or it waits and is counted. -/
def requestUnits (s : State) (c : Nat) (x : Xfer) : State :=
  let u := stgUser s c x
  if s.stgQ.isEmpty ∧ stgUsed s + x.units ≤ 512 then grantUnits s u x.units
  else inc { s with stgQ := s.stgQ ++ [(u, x.units)] } F.DMA_CNT2_STG_WAIT_CNT c

/-- STAGING_GRANT: the first request in arrival order, whole. -/
def stagingGrant (s : State) : State :=
  match s.stgQ with
  | (u, n) :: t => if stgUsed s + n ≤ 512 then grantUnits { s with stgQ := t } u n else s
  | [] => s

def execStagingGrant (s : State) : Host.Outcome State Fault Refusal := .next (stagingGrant s)

/-- A page translated for an access, its fault otherwise, and what translations of the context the die then holds. -/
def translateAll (s : State) (c : Nat) : List (Nat × Access × List Nat) → Except (XFault × Access) Unit × State
  | [] => (.ok (), s)
  | (sp, acc, as) :: t =>
    match translateBytes s c sp acc as with
    | (.ok _, s) => translateAll s c t
    | (.error f, s) => (.error (f, acc), s)

/-- What phase W will touch, by space and access: source bytes outside the overlap, headers, destination bytes. -/
def phaseWBytes (x : Xfer) : List (Nat × Access × List Nat) :=
  let a := x.ds.tens
  let b := x.dd.tens
  let ov := overlapOf x
  let items := if x.opc = 0x14 then [] else (List.range (xferChunks x - x.prog)).flatMap (fun j => chunkItems x (x.prog + j))
  let rows := if x.opc = 0x14 then
      (List.range (xferChunks x - x.prog)).filterMap (fun j => (idxRow x (x.prog + j)).map (fun r => (x.prog + j, r)))
    else []
  let ps := List.range (b.size 0)
  let hdr := fmtScaled a.fmt && x.opc != 0x14 && x.prog == 0
  let src := items.flatMap (itemSrc a b) ++ rows.flatMap (fun e => ps.flatMap (a.bytesAt e.1))
  let dst := items.flatMap (itemDest b) ++ rows.flatMap (fun e => ps.flatMap (b.bytesAt e.2))
  [(a.space, .read, src.filter (fun d => !inRanges ov d)),
   (a.space, .read, if hdr then [a.scaleBase] else []),
   (b.space, if x.opc = 0x14 then .readWrite else .write, dst),
   (b.space, .write, if hdr then [b.scaleBase] else [])]

/-- The translations of the context that a die holds for the pages of these accesses: what phase W uses. -/
def pinsOf (s : State) (c : Nat) (l : List (Nat × Access × List Nat)) : List XltEntry :=
  let k := (boundOf (coreOf s c)).ctx
  let pages := ((l.filter (fun e => e.1 == 0)).flatMap (fun e => e.2.2.map (fun a => a / 65536))).eraseDups
  ((xltOf s (cdOf c)).filter (fun e => pages.any (xltHit e k (ctxOf s k).gen))).map (fun e => { e with locked := true })

/-- Overlap bytes on their way to the staging units: a line of device memory passes through the transfer's pool slice of its
home MD. The line at address `a` of the source lies at DPA `d`. -/
def throughSlice (s : State) (u : StgUser) (d : Nat) (bs : List (Byte × Bool)) : List (Byte × Bool) × State :=
  let m := dpaMd d
  match (mdOf s m).stgOvl.find? (fun h => h.1 == u) with
  | none => (bs, s)
  | some (_, n) =>
    let off := d / 64 * 64
    let s := (runsOf (bs.mapIdx (fun i b => (i, b)))).foldl (fun s r => stgPut s m n (off + r.1) r.2.1 r.2.2) s
    ((List.range bs.length).map (fun i => let r := stgGet s m n (off + i) 1; (r.1.headD 0, r.2)), s)

/-- Read lines of the overlap (R247): their bytes as they reach the staging units. -/
def stageLines (s : State) (c : Nat) (x : Xfer) : List Nat → LineBuf → Except XFault LineBuf × State
  | [], buf => (.ok buf, s)
  | l :: t, buf =>
    let sp := x.ds.tens.space
    match spRead s c sp (64 * l) 64 (allocOf (optAlloc x.opts.toNat)) with
    | (.error e, s) => (.error e, s)
    | (.ok bs, s) =>
      let d := match (translate s (cdOf c) (boundOf (coreOf s c)).ctx (64 * l) .read).1 with | .ok d => d | .fault _ _ _ => 0
      let (bs, s) := if sp = 0 then throughSlice s (stgUser s c x) d bs else (bs, s)
      stageLines s c x t ((l, bs.toArray) :: buf)

/-- Store bytes in staging units, in order. -/
def unitsPut (s : State) (us : List Nat) (bs : List (Byte × Bool)) : State :=
  (runsOf (bs.mapIdx (fun i b => (i, b)))).foldl (fun s r =>
    let (cd, d) := unitAddr us r.1
    setDsm s cd (sramWrite (dsmOf s cd) d r.2.1 r.2.2)) s

/-- PHASE_S_END: every overlap byte read into the staging units; every page that phase W will touch translated, its indices
read, so that phase W never faults (R247). It waits for the slices that it needs, and asks for those of pages mapped since. -/
def phaseSEnd (s : State) (c i : Nat) : State :=
  match xferOf (coreOf s c) i with
  | none => s
  | some x =>
    if x.phase ≠ .s ∨ x.state ≠ 0 then s
    else
      let s := askSlices s c x
      let u := stgUser s c x
      if (List.range 8).any (fun m => (mdOf s m).stgWait.any (fun h => h.1 == u)) then s
      else
        let as := (overlapOf x).flatMap (fun r => (List.range (r.2 - r.1)).map (fun j => r.1 + j))
        match readIdx s c x with
        | (.error e, s) => endChunk s c i x e
        | (.ok x, s) =>
          match stageLines s c x (linesUsed as) [] with
          | (.error f, s) => suspendXfer s c i x f .read
          | (.ok buf, s) =>
            let s := unitsPut s (unitsOf s u) (as.map (bufByte buf))
            match translateAll s c (phaseWBytes x) with
            | (.error (f, acc), s) => suspendXfer s c i x f acc
            | (.ok _, s) => setXfer s c i (some { x with phase := .w, pins := pinsOf s c (phaseWBytes x) })

def execPhaseSEnd (c : CoreId) (x : Fin 16) (s : State) : Host.Outcome State Fault Refusal := .next (phaseSEnd s c x)

/-! ### Window traffic (R173) -/

/-- A fault suspends the spill or the refill of stream `st` alone, and the core stops with XLATE_FAULT (R251, R264). -/
def windowFault (s : State) (c st : Nat) (f : XFault) (acc : Access) : State :=
  let b := boundOf (coreOf s c)
  let s := modCore s c (fun k => { k with winFault := sset none k.winFault st (some f.va) })
  report (raiseFault s b.ctx 0 c f acc (.window b.ctx b.vcore st)) c 5

/-- A fault suspends the window traffic of stream `st`. -/
def windowHeld (s : State) (c st : Nat) : Bool := (sget none (coreOf s c).winFault st).isSome

/-- WINDOW_SPILL: the oldest pushed bytes that wait go to device memory. -/
def windowSpill (s : State) (c st : Nat) : State :=
  match spillsOf s c st with
  | [] => s
  | (a, b) :: t =>
    if windowHeld s c st then s
    else
      match commitWrites s c 0 .normal (byteWrites (streamBase s c st + a) (winGet s c st a (b - a))) with
      | (.ok _, s) => setSpills s c st t
      | (.error f, s) => windowFault s c st f .write

def execWindowSpill (c : CoreId) (st : Fin 16) (s : State) : Host.Outcome State Fault Refusal := .next (windowSpill s c st)

/-- WINDOW_REFILL: up to 4 KiB below lo_s enter the window, while it has room, no pushed bytes of the stream wait for their
spill and no PUSH or POP of the stream runs, all of which go first (R173). -/
def windowRefill (s : State) (c st : Nat) : State :=
  let lo := winLoOf s c st
  let sp := spOf s c st
  let n := min 4096 (min lo (winSize s c - (sp - lo)))
  if n = 0 ∨ winSize s c < sp - lo ∨ windowHeld s c st ∨ spillsOf s c st ≠ [] ∨
      (xferList (coreOf s c)).any (fun x => decide (0x15 ≤ x.opc) && x.stream == st) then s
  else
    match readBytes s c 0 (streamBase s c st + lo - n) n with
    | (.error f, s) => windowFault s c st f .read
    | (.ok bs, s) => setWinLo (winPut s c st (lo - n) bs) c st (lo - n)

def execWindowRefill (c : CoreId) (st : Fin 16) (s : State) : Host.Outcome State Fault Refusal := .next (windowRefill s c st)

end Sys2Proof.Machine
end

