-- ==== Sys2Proof/Machine/Units.lean ====
section
/-! DEFINITION. Machine/Units.lean: the operations that syllables hand to the units and the DMA engine: what they compute at
issue, the refusals found there, and their effects when they finish (R57 to R61, R86 to R110, R121 to R185). -/

namespace Sys2Proof.Machine

/-! ### Unit queues -/

def unitOps (k : CoreSt) (u : Nat) : List UnitOp := sget [] k.units u

def setUnitOps (k : CoreSt) (u : Nat) (l : List UnitOp) : CoreSt := { k with units := sset [] k.units u l }

/-- Operations of array `a` that are queued or running: of its own queue and of its drain path. -/
def arrayOps (k : CoreSt) (a : Nat) : List UnitOp := unitOps k a ++ unitOps k (8 + a)

/-- The place in the issue order of its array of an operation issued now. -/
def nextNum (k : CoreSt) (a : Nat) : Nat := 1 + ((arrayOps k a).map (fun o => o.num)).foldl max 0

/-- Queue the steps of one operation; `u` is a unit, or 8 + a for the drain path of array a. -/
def pushOps (s : State) (c u : Nat) (l : List UnitOp) : State :=
  modCore s c (fun k =>
    let n := nextNum k (if u < 8 then u else u - 8)
    setUnitOps k u (unitOps k u ++ l.map (fun o => { o with num := n })))

def releasesOf (k : CoreSt) (a : Nat) : List Nat := sget [] k.releases a

def setReleases (k : CoreSt) (a : Nat) (l : List Nat) : CoreSt := { k with releases := sset [] k.releases a l }

/-- An operation that changes no bank. -/
def plainOp (reads writes : List RegName) (effs : List Eff) : UnitOp :=
  { reads := reads, writes := writes, effs := effs, abft := none, bank := none, last := true, gated := false, num := 0,
    mac := false }

/-- Operations outstanding in a queue; the steps of one count once. -/
def opCount (l : List UnitOp) : Nat := (l.filter (fun o => o.last)).length

/-- The oldest operation of array `a`'s queue has started: of the drains issued before it, only one that runs is left
(R57). -/
def arrayRuns (k : CoreSt) (a : Nat) : Bool :=
  match unitOps k a with
  | [] => false
  | o :: _ => decide (((unitOps k (8 + a)).filter (fun d => decide (d.num < o.num))).length ≤ 1)

/-- The oldest ADRAIN or AFILL of array `a` has started: nothing issued before it is left but an AMM or ADIST that runs, which
the interlocks keep to other banks (R57). -/
def drainRuns (k : CoreSt) (a : Nat) : Bool :=
  match unitOps k (8 + a) with
  | [] => false
  | d :: _ =>
    let before := (unitOps k a).filter (fun o => decide (o.num < d.num))
    before.all (fun o => o.mac && (before.head?.map (fun h => h.num)) == some o.num)

/-- Operations of queue `u` that run: the oldest, once it has started. -/
def runningOps (k : CoreSt) (u : Nat) : Nat :=
  let runs := if u < 3 then arrayRuns k u else if u < 8 then !(unitOps k u).isEmpty else drainRuns k (u - 8)
  if runs then 1 else 0

/-- Entries of a unit's operation queue in use; an array counts its drain path with it. An operation that runs has left the
queue, so four may wait behind it (DESIGN CHOICE, notes/assumptions/40.md: R57 does not say). -/
def waitingOps (k : CoreSt) (u : Nat) : Nat :=
  (opCount (unitOps k u) - runningOps k u) + (if u < 3 then opCount (unitOps k (8 + u)) - runningOps k (8 + u) else 0)

/-- The unit has nothing queued or running. -/
def unitIdle (k : CoreSt) (u : Nat) : Bool :=
  (unitOps k u).isEmpty && (decide (3 ≤ u) || ((unitOps k (8 + u)).isEmpty && (releasesOf k u).isEmpty))

/-- FA, BA0, BA1, both vector halves, X, K and Q are idle. -/
def allIdle (k : CoreSt) : Bool := (List.range 8).all (unitIdle k)

/-- Unit of a syllable that has one. -/
def sylUnit : Syl → Option Nat
  | .a arr _ _ => some arr.val
  | .v half _ _ => some (3 + half.val)
  | .x _ _ => some 5
  | .k _ _ => some 6
  | .q _ _ => some 7
  | _ => none

/-! ### Reports and poison -/

/-- The work item of a core has met an ABFT event or an escape: its completion bears POISON (Table 10.6). -/
def markPoison (s : State) (c : Nat) : State :=
  match (coreOf s c).item with
  | some (q, i) =>
    match entryOf s q i with
    | some e => setEntry s q i (some { e with poison := true })
    | none => s
  | none => s

/-- Record an array refusal (R86) and report it (R77). -/
def arrayRefuse (s : State) (c a code : Nat) : State :=
  let s := setF (setF s F.ARR_STS_REFUSE c code) F.ARR_STS_REF_ARR c a
  report (inc s F.ARR_CNT1_REFUSE_CNT c) c 2

/-- Poison escapes from slot `slot` (R164). -/
def poisonEscape (s : State) (c slot : Nat) : State :=
  let b := boundOf (coreOf s c)
  let s := inc (setF s F.VEC_STS_ESCAPE c 1) F.VEC_CNT1_ESC_CNT c
  let s := markPoison (modCore s c (fun k => { k with pz := true, pzArmed := true })) c
  notify s (cdOf c) ⟨1, c, b.ctx, b.gen, slot, 0, 0, ftNow s⟩

/-! ### Effects -/

/-- A tile or bank with `cells` written. -/
def putCells (t : Tile) (cells : List (Nat × Word32)) : Tile :=
  let a := cells.foldl (fun a e => a.setIfInBounds e.1 e.2) (tileArr t)
  sofFn 0 4096 (fun i => a.getD i 0)

/-- One effect of a finished operation of core `c`. -/
def applyEff (c : Nat) (s : State) (e : Eff) : State :=
  match e with
  | .tile t cells => modCore s c (fun k => setTile k t (putCells (getTile k t) cells))
  | .tag t v => modCore s c (fun k => { k with tags := sset 0 k.tags t v })
  | .tpoison t v => setTilePoison s c t v
  | .tpor t v => if v then setTilePoison s c t true else s
  | .bank b cells => modCore s c (fun k => setBank k b (putCells (getBank k b) cells))
  | .bpoison b v => setBankPoison s c b v
  | .gpr n v => modCore s c (fun k => setG k n v)
  | .pred n v => modCore s c (fun k => setP k n v)
  | .station a v => modCore s c (fun k => { k with station := sset Station.reset k.station a v })
  | .count f n => incBy s f c n
  | .num key n => modCore s c (fun k => { k with numCnt := sset 0 k.numCnt key (min (sget 0 k.numCnt key + n) (2 ^ 64 - 1)) })
  | .escape slot => poisonEscape s c slot

def applyEffs (c : Nat) (s : State) (l : List Eff) : State := l.foldl (applyEff c) s

/-! ### Arrays -/

/-- Per-tensor scale of descriptor register `n`. -/
def scaleOf (k : CoreSt) (n : Nat) : Word32 := sget 0 k.tscale n

/-- The stationary register that an operation issued now finds: the last pending ALOAD's, or the present one. -/
def stationOf (k : CoreSt) (a : Nat) : Station :=
  ((unitOps k a).reverse.findSome? (fun o => o.effs.findSome? (fun e => match e with
    | .station b v => if b = a then some v else none
    | _ => none))).getD (sget Station.reset k.station a)

/-- Stationary contents from tensor `t` (R92). -/
def loadStation (k : CoreSt) (t : Tens) (ts : Word32) (dfl : Nat) : Station × Bool :=
  let lanes := min 64 t.lanes
  let size := min 64 (t.size 0)
  let b := fmtBlock t.fmt
  let elem (i : Nat) : Nat × Bool := if i / 64 < lanes ∧ i % 64 < size then spmElem k t (i / 64) (i % 64) else (0, false)
  let scl (i : Nat) : Nat × Bool :=
    if b ≠ 0 ∧ i / 4 < lanes ∧ i % 4 * b < size then spmScale k t (i / 4) (t.blockOf (i % 4 * b)) else (0, false)
  let (rtag, rbad) := spmRtag k t
  ({ dfl := dfl
     fmt := t.fmt
     cells := sofFn 0 4096 (fun i => (elem i).1)
     scales := sofFn 0 256 (fun i => (scl i).1)
     rtag := rtag
     tscale := ts
     lanes := lanes
     size := size
     valid := true },
   rbad || (List.range 4096).any (fun i => (elem i).2) || (List.range 256).any (fun i => (scl i).2))

/-- Steps of an AMM or ADIST (R90). -/
def aSteps (k : CoreSt) (y : ASyl) : Nat :=
  if y.ksteps ≠ 0 then y.ksteps.toNat
  else if y.dfl = 1 then cdiv ((getD k y.da.toNat).tens.size 0) 64
  else min 4 (cdiv (getD k y.db.toNat).tens.lanes 64)

/-- A-role and B-role operands of step `i` (Table 3.3). -/
def aOperands (k : CoreSt) (a : Nat) (y : ASyl) (n i : Nat) : Opnd × Opnd :=
  let tb := (getD k y.db.toNat).tens
  if y.dfl = 1 then
    (readOpnd k (getD k y.da.toNat).tens (scaleOf k y.da.toNat) 0 (64 * n), readOpnd k tb (scaleOf k y.db.toNat) 0 (64 * n))
  else
    let m := readOpnd k tb (scaleOf k y.db.toNat) (64 * i) 64
    let st := stationOpnd (stationOf k a) m
    if y.dfl = 0 then (m, st) else (st, m)

/-- Operand tensors that an AMM or ADIST reads from SPM. -/
def aTens (k : CoreSt) (y : ASyl) : List Tens :=
  let tb := (getD k y.db.toNat).tens
  if y.dfl = 1 then [(getD k y.da.toNat).tens, tb] else [tb]

/-- The operation multiplies and accumulates. -/
def isMac (o : AOp) (y : ASyl) : Bool := o == .amm || y.cell == 0

/-- Refusal code of an AMM or ADIST (R86). -/
def macRefusal (c a : Nat) (k : CoreSt) (o : AOp) (y : ASyl) (p q : Opnd) : Nat :=
  let st := stationOf k a
  let t2 := (p.fmt == 9 || q.fmt == 9) && !isMac o y
  let stat := y.dfl != 1 && st.valid && st.dfl != y.dfl.toNat
  let rot := if y.rot then p.rtag != q.rtag || p.rtag == 0 else p.rtag != 0 || q.rtag != 0
  lowest ((aTens k y).map (opndRefusal c) ++ [codeIf t2 2, codeIf stat 5, codeIf rot 6])

/-- A per-tensor scale that R129 counts for an array operation. -/
def arrayScaleBad (o : AOp) (y : ASyl) (p q : Opnd) : Bool :=
  if isMac o y then badScale (sigmaOf p q) else badScale p.tscale || badScale q.tscale

/-- Step `i` of an AMM or ADIST as an operation of its unit. -/
def stepOp (s : State) (c : Nat) (k : CoreSt) (a : ArrId) (o : AOp) (y : ASyl) (n i : Nat) (inj : Bool) : UnitOp :=
  let b := 4 * a.val + (if y.dfl = 1 then y.acc.toNat else (y.acc.toNat + i) % 4)
  let (p, q) := aOperands k a.val y n i
  let old := getBank k b
  let r := if isMac o y then macTile p q old y.accum (if y.dfl = 1 then 64 * n else 64) (getF s F.ARR_CFG_TOL_SHIFT c) inj
    else distTile p q old y.accum y.cell.toNat
  let last := decide (y.dfl = 1 ∨ i + 1 = n)
  { reads := []
    writes := [.bank b]
    effs := [.bank b r.cells] ++
      (if last && arrayScaleBad o y p q then [.count F.NUM_CNT_TSC_BAD_CNT 1] else []) ++
      (if last && !isMac o y then [.count F.ARR_CNT1_UNCHECKED_CNT 1] else []) ++
      (if !isMac o y && !y.accum then [.bpoison b false] else [])
    abft := r.abft
    bank := some b
    last := last
    gated := false
    num := 0
    mac := true }

/-- AMM and ADIST: refused, stopped by data it cannot correct, or queued step by step. -/
def macEffect (c : Nat) (k0 : CoreSt) (a : ArrId) (o : AOp) (y : ASyl) (s : State) : State :=
  let n := aSteps k0 y
  let steps := if y.dfl = 1 then 1 else n
  let (p, q) := aOperands k0 a.val y n 0
  let code := macRefusal c a.val k0 o y p q
  if code ≠ 0 then arrayRefuse s c a.val code
  else
    let par := sget false k0.injPar a.val
    let s := modCore s c (fun k => { k with injPar := sset false k.injPar a.val false })
    let bad := (List.range steps).any (fun i => let (p, q) := aOperands k0 a.val y n i; p.bad || q.bad)
    if par || bad then report s c 6
    else
      let inj := isMac o y && sget false k0.injCell a.val
      let s := if inj then modCore s c (fun k => { k with injCell := sset false k.injCell a.val false }) else s
      pushOps s c a.val ((List.range steps).map (fun i => stepOp s c k0 a o y n i (inj && i == 0)))

/-- ALOAD (R92). -/
def aloadEffect (c : Nat) (k0 : CoreSt) (a : ArrId) (y : ASyl) (s : State) : State :=
  let t := (getD k0 y.da.toNat).tens
  let code := opndRefusal c t
  if code ≠ 0 then arrayRefuse s c a.val code
  else
    let par := sget false k0.injPar a.val
    let s := modCore s c (fun k => { k with injPar := sset false k.injPar a.val false })
    let (st, bad) := loadStation k0 t (scaleOf k0 y.da.toNat) y.dfl.toNat
    if par || bad then report s c 6 else pushOps s c a.val [plainOp [] [] [.station a.val st]]

/-- The cells of a whole tile. -/
def allCells (t : Tile) : List (Nat × Word32) := (tileArr t).toList.mapIdx (fun i w => (i, w))

/-- What an acting array syllable does. A parity error on the drain path stops the context (R110); no command of the table
brings one about, so `drainPar` says which arrays meet one (notes/assumptions/40.md). -/
def arrayEffect (c : Nat) (k0 : CoreSt) (a : ArrId) (o : AOp) (y : ASyl) (s : State) : State :=
  let b := 4 * a.val + y.acc.toNat
  let t := y.td.toNat
  let par := sget false k0.drainPar a.val
  let drain (s : State) (op : UnitOp) : State :=
    if par then report (modCore s c (fun k => { k with drainPar := sset false k.drainPar a.val false })) c 6
    else pushOps s c (8 + a.val) [op]
  match o with
  | .aload => aloadEffect c k0 a y s
  | .amm | .adist => macEffect c k0 a o y s
  | .adrain =>
    let cells := allCells (getBank k0 b)
    let nf := (cells.filter (fun x => !isFin32 x.2)).length
    drain s (plainOp [.bank b] [.tile t]
      [.tile t cells, .tag t 0, .tpoison t (bankPoison s c b), .count F.VEC_CNT_ANF_ANF_CNT nf])
  | .afill =>
    drain s (plainOp [.tile t] [.bank b] [.bank b (allCells (getTile k0 t)), .bpoison b (tilePoison s c t)])
  | .aclr =>
    pushOps s c a.val [{ plainOp [] [.bank b] [.bank b (gridCells (fun _ _ => 0)), .bpoison b false] with bank := some b }]

/-! ### Vector, reduction, conversion, scale units -/

def regsOf (l : List RegUse) : List RegName := (l.map (fun x => x.reg)).filter (fun r => match r with
  | .tile _ | .bank _ => true
  | _ => false)

/-- The core as its registers stood before the bundle, with the SPM as earlier slots of the bundle left it. R58 orders the SPM
accesses of bundles; within one bundle loads, DESC.LD, VLD, KUNP and the operands of arrays find SPM as it stood before the
bundle, and stores act in slot order (DESIGN CHOICE, notes/assumptions/40.md). -/
def withSpm (k0 k : CoreSt) : CoreSt := { k0 with spm := k.spm }

/-- What a vector syllable does; one with every lane masked off only occupies its half (R150). -/
def vectorEffect (c : Nat) (k0 : CoreSt) (half : Fin 2) (o : VOp) (y : VSyl) (s : State) : State :=
  let queue (s : State) (effs : List Eff) : State :=
    pushOps s c (3 + half.val) [plainOp (regsOf (vRegReads o y)) ((vRegWrites o y).map (fun x => x.reg)) effs]
  match o with
  | .vcmplt | .vcmpeq => queue s (vCompare s c k0 half.val o y)
  | .vld =>
    let (effs, bad) := vLoad k0 y
    if bad then report s c 6 else queue s effs
  | .vst =>
    let (k, effs) := vStore s c (withSpm k0 (coreOf s c)) half.val y
    queue (modCore s c (fun x => { x with spm := k.spm })) effs
  | _ => queue s (vArith s c k0 o y)

/-- What an acting X syllable does. -/
def reduceEffect (c : Nat) (k0 : CoreSt) (o : XOp) (y : XSyl) (s : State) : State :=
  let w := if y.axis = 2 then RegName.g y.gd.toNat else .tile y.td.toNat
  pushOps s c 5 [plainOp [.tile y.ta.toNat] [w] (xOperate s c k0 o y)]

/-- What an acting K syllable does; a gated one in SKIP writes nothing (R185). -/
def convertEffect (c : Nat) (k0 : CoreSt) (o : KOp) (y : KSyl) (s : State) : State :=
  let t := y.ts.toNat
  match o with
  | .kunp =>
    let (effs, bad) := kunpOperate k0 y
    if bad then report s c 6 else pushOps s c 6 [plainOp [] [.tile t] effs]
  | .kcvt =>
    if gated y && gateState s c == 3 then
      pushOps (inc s F.BWD_GATE_CNT_GATE_SKIP_CNT c) c 6 [{ plainOp [.tile t] [] [] with gated := true }]
    else
      let (k, effs, bad) := kcvtOperate s c (withSpm k0 (coreOf s c)) y
      let s := if y.rnd = 2 then { s with freshIdx := s.freshIdx + 4096 } else s
      if bad then report s c 6
      else pushOps (modCore s c (fun x => { x with spm := k.spm })) c 6 [{ plainOp [.tile t] [] effs with gated := gated y }]

/-- QTSC or QSEED on `d` ends a match of the scale buffer (R123). -/
def breakScales (k : CoreSt) (d : Nat) : CoreSt :=
  if k.scaleBuf.dn = d then { k with scaleBuf := { k.scaleBuf with valid := false } } else k

/-- What an acting Q syllable does. -/
def scaleEffect (c : Nat) (k0 : CoreSt) (o : QOp) (y : QSyl) (s : State) : State :=
  let dn := y.dn.toNat
  let g := getG k0 y.gs.toNat
  match o with
  | .qamax =>
    let b : ScaleBuf := ⟨true, y.ts.toNat, dn, y.kind.toNat, qamaxScales k0 y⟩
    pushOps (modCore s c (fun k => { k with scaleBuf := b })) c 7 [plainOp [.tile y.ts.toNat] [] []]
  | .qseed =>
    let sd : Word16 := g.setWidth 16
    pushOps (modCore s c (fun k =>
      breakScales { k with seeds := sset 0 k.seeds dn sd, curVec := if sd = 0 then none else some dn } dn)) c 7 [plainOp [] [] []]
  | .qrot => pushOps s c 7 [plainOp [] [.tile y.ts.toNat] (qrotOperate k0 y)]
  | .qtsc =>
    pushOps (modCore s c (fun k => breakScales { k with tscale := sset 0 k.tscale dn (g.setWidth 32) } dn)) c 7
      [plainOp [] [] []]

/-! ### DMA and stack syllables (R59, R170, R171, R231, R246) -/

def dCode (o : DOp) : Nat := codeOf dOps o

/-- The transfer that a syllable starts, before its staging. -/
def newXfer (s : State) (c : Nat) (k0 : CoreSt) (o : DOp) (y : DSyl) : Xfer :=
  let opts := getG k0 y.rm.toNat
  let ds := getD k0 y.ds.toNat
  let dd := getD k0 y.dd.toNat
  let op := opts.toNat
  let st := soStream op
  let size := pushSize ds.tens op
  let mk := o == .push && pushMarker s c (stackTop s c st) op size
  let len (n : Nat) : Nat := if o == .push && !mk then n else 0
  { id := (coreOf s c).xferSeq
    opc := dCode o
    tag := y.tag.toNat
    opts := opts
    ds := ds
    dd := dd
    di := if isIndexed (dCode o) then getD k0 y.di.toNat else DescReg.none
    prog := 0
    idxflt := 0
    state := 0
    fva := 0
    phase := .plain
    units := 0
    idx := []
    idxAt := 0
    pins := []
    stream := if o == .push || o == .pop then st else 0
    entry := if o == .push then stackTop s c st else 0
    dbytes := len (extentBytes ds.tens)
    scbytes := len (scaleBytes ds.tens)
    sbytes := len (if soSlope op then ds.tens.count else 0)
    marker := mk
    slope := o == .push && !mk && soSlope op
    ft := ftNow s
    trailerRead := false
    fromWin := false
    size := if o == .push then (if mk then 64 else size) else 0 }

/-- What an acting DMA or stack syllable does. -/
def dmaEffect (c : Nat) (k0 : CoreSt) (o : DOp) (y : DSyl) (s : State) : State :=
  match freeXfer (coreOf s c) with
  | none => s
  | some i =>
    let x := newXfer s c k0 o y
    let s := modCore s c (fun k => { k with xferSeq := k.xferSeq + 1 })
    match o with
    | .push =>
      let s := setF s (spFld x.stream) c (spOf s c x.stream + x.size)
      let s := if x.marker then inc s F.BWD_WP_CNT_MARKER_CNT c else s
      setXfer s c i (some x)
    | .pop => setXfer s c i (some x)
    | _ =>
      let n := rangeBytes (meetRanges x.ds.tens x.dd.tens)
      if n = 0 then setXfer s c i (some x)
      else
        let x := { x with phase := DmaPhase.wait, units := cdiv n 65536 }
        requestUnits (setXfer s c i (some x)) c x

/-! ### Refusals found at issue -/

/-- Record a vector refusal (R162). -/
def vecRefuse (s : State) (c half code : Nat) : State :=
  inc (setF (setF s F.VEC_STS_REFUSE c code) F.VEC_STS_REF_HALF c half) F.VEC_CNT1_REFUSE_CNT c

/-- Record a K or Q refusal (R130); `u` is 0 for K, 1 for Q. -/
def numRefuse (s : State) (c u code : Nat) : State :=
  inc (setF (setF s F.NUM_STS_REFUSE c code) F.NUM_STS_REF_UNIT c u) F.NUM_CNT_REFUSE_CNT c

/-- Code of a refusal that a unit or the DMA engine finds at issue, valid descriptors given; 0 for none. A stack syllable finds
its stream raised by `ahead` bytes, those of PUSHes that act before it in its bundle. -/
def issueRefusal (s : State) (c : Nat) (k0 : CoreSt) (ahead : Nat) (y : Syl) : Nat :=
  match y with
  | .d o y =>
    let opts := (getG k0 y.rm.toNat).toNat
    let ds := getD k0 y.ds.toNat
    let dd := getD k0 y.dd.toNat
    match o with
    | .push => pushRefusal s c (stackTop s c (soStream opts) + ahead) ds.tens dd.tens opts
    | .pop => popRefusal s c (stackTop s c (soStream opts) + ahead) opts
    | _ => dmaRefusal k0 (dCode o) ds dd (if isIndexed (dCode o) then getD k0 y.di.toNat else DescReg.none) opts
  | .v _ .vld y => vMemRefusal (getD k0 y.dn.toNat).tens true
  | .v _ .vst y => vMemRefusal (getD k0 y.dn.toNat).tens false
  | .k .kcvt y => kcvtRefusal k0 y
  | .k .kunp y => kunpRefusal k0 y
  | .q .qamax y => qamaxRefusal k0 y
  | .q .qrot y => qrotRefusal k0 y
  | _ => 0

/-- Record such a refusal in its status register. -/
def recordRefusal (s : State) (c : Nat) (k0 : CoreSt) (y : Syl) (code : Nat) : State :=
  match y with
  | .d o y =>
    if o = .push ∨ o = .pop then stackRefuse s c code (dCode o) (soStream (getG k0 y.rm.toNat).toNat)
    else dmaRefuse s c code (dCode o) y.tag.toNat
  | .v half _ _ => vecRefuse s c half.val code
  | .k _ _ => numRefuse s c 0 code
  | .q _ _ => numRefuse s c 1 code
  | _ => s

end Sys2Proof.Machine
end

