-- ==== Sys2Proof/Machine/Issue.lean ====
section
/-! DEFINITION. Machine/Issue.lean: how a core fetches, holds, issues and stops (R46 to R66, R76 to R80), and the commands
that carry its syllables and finish its operations. -/

namespace Sys2Proof.Machine

/-! ### Home dies and signals (R65, R66, R289, R299) -/

/-- Set bits of an 8-bit mask, lowest first. -/
def maskBits (m : Nat) : List Nat := (List.range 8).filter (bitAt m)

/-- Home CD of virtual core `v` of context `k` (R289). -/
def homeCd (s : State) (k v : Nat) : Nat :=
  let l := maskBits (ctxOf s k).cdmask
  l.getD (v % l.length) 0

/-- First byte of the ember area of a context. -/
def emberOf (s : State) (k : Nat) : Nat := (ctxOf s k).emberBase

/-- DVA of the pending token counter `n` of virtual core `v` (Table 10.11). -/
def pendTokenVa (s : State) (k v n : Nat) : Nat := emberOf s k + 0x1000 + 64 * v + 2 * n

/-- DVA of slot `v` of an ember area (R298). -/
def slotVa (s : State) (k v : Nat) : Nat := emberOf s k + 0x10000 + v * 0x480000

/-- Read bytes of an ember area through the locked translations of die `die`. -/
def emberRead (s : State) (die k va n : Nat) : List Byte × Bool × State :=
  match dvaRead s die k va n .normal with
  | (.ok (b, p), s) => (b, p, s)
  | (.error _, s) => (List.replicate n 0, true, s)

def emberWrite (s : State) (die k va : Nat) (bs : List Byte) : State := (dvaWrite s die k va bs false .normal).2

/-- A token counter of a core. -/
def tokenOf (k : CoreSt) (n : Nat) : Nat := (sget 0 k.tokens n).toNat

def setToken (k : CoreSt) (n v : Nat) : CoreSt := { k with tokens := sset 0 k.tokens n (BitVec.ofNat 16 v) }

/-- A SIG takes effect at its target's die, or is dropped and reported to its sender (R66, R299); a sender of 128 is the
collective engine, which has no counter. -/
def deliverSig (s : State) (m : SigMsg) : State :=
  let drop (s : State) : State := if m.src < 128 then inc s F.CORE_CNT_SIG_DROP_CNT m.src else s
  let x := ctxOf s m.ctx
  let vc := vcOf s m.ctx m.target
  if x.gen ≠ m.gen ∨ x.ncore ≤ m.target then drop s
  else if vc.dir = 1 then
    let n := tokenOf (coreOf s vc.core) m.ctr
    if 65535 ≤ n then drop s else modCore s vc.core (fun k => setToken k m.ctr (n + 1))
  else
    let die := if m.src < 128 then cdOf m.src else homeCd s m.ctx m.target
    let (pb, _, s) := emberRead s die m.ctx (pendTokenVa s m.ctx m.target m.ctr) 2
    let (sb, _, s) := if vc.dir = 0 then ([], false, s)
      else emberRead s die m.ctx (slotVa s m.ctx m.target + 48 + 2 * m.ctr) 2
    if 65535 ≤ leNat pb + leNat sb then drop s
    else emberWrite s die m.ctx (pendTokenVa s m.ctx m.target m.ctr) (leBytes 2 (leNat pb + 1))

/-- SIG_ARRIVAL: the oldest SIG on its way to die `cd`. -/
def sigArrival (s : State) (cd : Nat) : State :=
  match sget [] s.sigs cd with
  | [] => s
  | m :: t => deliverSig { s with sigs := sset [] s.sigs cd t } m

def execSigArrival (cd : CdId) (s : State) : Host.Outcome State Fault Refusal := .next (sigArrival s cd)

/-- SIG: on its way to the target's home die. -/
def sigEffect (c : Nat) (k0 : CoreSt) (y : YSyl) (s : State) : State :=
  let b := boundOf k0
  let t := (getG k0 y.ra.toNat).toNat
  let cd := if (ctxOf s b.ctx).ncore ≤ t then cdOf c else homeCd s b.ctx t
  { s with sigs := sset [] s.sigs cd (sget [] s.sigs cd ++ [⟨c, b.ctx, b.gen, t, y.imm.toNat % 32⟩]) }

/-! ### QPOST (R180, R184, R287) -/

/-- The entry that a QPOST posts, with the PZ bit of a gate contribution written. -/
def postEntry (k0 : CoreSt) (gate : Bool) (e : List Byte) : List Byte :=
  if gate then splice e 28 [BitVec.ofNat 8 ((leNat (e.drop 28 |>.take 1)) / 2 * 2 + (if k0.pz then 1 else 0))] else e

/-- The core's gate is armed for step `st` (R184). -/
def armGate (s : State) (c st : Nat) : State :=
  let s := modCore s c (fun k => { k with gateStep := BitVec.ofNat 32 st, pzArmed := false })
  setF (setF s F.BWD_GATE_STS_STATE c 1) F.BWD_GATE_STS_STEP c (st % 2 ^ 24)

/-- QPOST. A dropped entry has no effect, so it arms nothing. -/
def qpostEffect (c : Nat) (k0 : CoreSt) (y : YSyl) (s : State) : State :=
  let b := boundOf k0
  let e := (spmRead k0 (getG k0 y.ra.toNat).toNat 64).1
  let q := (getG k0 y.rb.toNat).toNat % 65536
  let gate := decide (entOp e = 0x11) && qClass (queueOf s q).desc == 2
  match takePost s q b.ctx b.gen b.vcore (postEntry k0 gate e) with
  | (true, s) => if gate then armGate s c (fieldLE e 16 19) else s
  | (false, s) => s

/-- What an acting Y syllable does once its condition holds. -/
def queueEffect (c : Nat) (k0 : CoreSt) (o : YOp) (y : YSyl) (s : State) : State :=
  match o with
  | .tokw =>
    let n := y.imm.toNat % 32
    modCore s c (fun k => setToken k n (tokenOf k n - 1))
  | .sig => sigEffect c k0 y s
  | .qpost => qpostEffect c k0 y s
  | _ => s

/-- The condition of a Y-slot wait (Table 2.8). -/
def yHolds (s : State) (k0 : CoreSt) (o : YOp) (y : YSyl) : Bool :=
  match o with
  | .wdma => !tagBusy k0 (y.imm.toNat % 16)
  | .weng => (List.range 8).all (fun u => !bitAt y.imm.toNat u || unitIdle k0 u)
  | .tokw => decide (0 < tokenOf k0 (y.imm.toNat % 32))
  | .twait => decide ((getG k0 y.ra.toNat).toNat ≤ ftNow s)
  | .fence => (xferList k0).isEmpty
  | _ => true

/-! ### Interlocks (R56, R57) -/

/-- Registers that queued and running operations have still to write, and to read. -/
def busyWrites (k : CoreSt) : List RegName :=
  k.units.flatMap (fun u => u.2.flatMap (fun o => o.writes)) ++ (k.releases.flatMap (fun r => r.2)).map RegName.bank

def busyReads (k : CoreSt) : List RegName := k.units.flatMap (fun u => u.2.flatMap (fun o => o.reads))

/-- A syllable meets a register that an earlier one has not finished with. -/
def interlocked (k : CoreSt) (y : Syl) : Bool :=
  let w := busyWrites k
  let r := busyReads k
  (sylReads y).any (fun x => w.contains x.reg) || (sylWrites y).any (fun x => w.contains x.reg || r.contains x.reg)

/-- A syllable's unit has a full queue. -/
def queueFull (k : CoreSt) (y : Syl) : Bool :=
  match sylUnit y with
  | some u => decide (4 ≤ waitingOps k u)
  | none => false

def isDma : Syl → Bool
  | .d _ _ => true
  | _ => false

/-- A PUSH or POP waits until an earlier POP of its stream has read its trailer (R171). -/
def stackWaits (s : State) (c : Nat) (k : CoreSt) (y : Syl) : Bool :=
  match y with
  | .d o y => (o == .push || o == .pop) && popUnread s c (soStream (getG k y.rm.toNat).toNat)
  | _ => false

/-- The bundle waits for registers, unit queues or the DMA command queue of sixteen. -/
def mustWait (s : State) (c : Nat) (k : CoreSt) (l acting : List Syl) : Bool :=
  l.any (fun y => interlocked k y || queueFull k y) ||
    decide (16 < (xferList k).length + (acting.filter isDma).length) || acting.any (stackWaits s c k)

/-- An acting gated operation waits in ARMED (R184). -/
def gateWaits (s : State) (c : Nat) (acting : List Syl) : Bool :=
  gateState s c == 1 && acting.any (fun y => match y with | .k .kcvt y => gated y | _ => false)

/-- An acting Y-slot wait whose condition does not hold. -/
def yWaits (s : State) (k : CoreSt) (acting : List Syl) : Bool :=
  acting.any (fun y => match y with | .y o y => !yHolds s k o y | _ => false)

/-! ### Stops (R76 to R79) -/

/-- The order of R78. -/
def causeOrder : List Nat := [6, 5, 1, 2, 4, 3, 7]

/-- The recorded cause of several. -/
def firstCause (l : List Nat) : Nat := (causeOrder.find? (fun c => l.contains c)).getD 0

/-- A stop answers the bank request of core `c` (R79): it is withdrawn, and no virtual core stays placed on the core. -/
def answerRequest (s : State) (c : Nat) : State :=
  let x := schedOf s (cdOf c)
  let s := setF (setSched s (cdOf c) { x with bankReq := sset none x.bankReq (c % 16) none }) F.CORE_STS_BANK_REQ c 0
  { s with vcs := s.vcs.foldl (fun m e =>
      if e.2.placed = some c then sset VcSt.reset m e.1 { e.2 with placed := none } else m) s.vcs }

/-- The core leaves its instruction stream at bundle `pc` for the causes `l`: a stop, or a suspension for XLATE_FAULT
(R264); either answers a bank request (R79). MULTI is set by several causes, two of one code too, such as two refused syllables
(DESIGN CHOICE, notes/assumptions/40.md: R78 does not say whether these are several). -/
def stopCore (s : State) (c : Nat) (l : List Nat) (sw : Nat) (pc : Word64) : State :=
  let code := firstCause l
  let s := setF (setF s F.CORE_STOP_CODE c code) F.CORE_STOP_MULTI c (if 1 < l.length then 1 else 0)
  let s := setF s F.CORE_STOP_SWCODE c (if code = 7 then sw else 0)
  let s := setF (setF s F.CORE_STOP_PC_LO_PC_LO c (pc.toNat % 2 ^ 32)) F.CORE_STOP_PC_HI_PC_HI c (pc.toNat / 2 ^ 32 % 2 ^ 16)
  let s := setF s F.CORE_STS_STATE c (if code = 5 then 5 else 4)
  let s := latchErr s (pageBase .core c) 1 (boundOf (coreOf s c)).ctx code
  let s := answerRequest (modCore s c (fun k => { k with pc := pc, fetched := none, reports := [] })) c
  if code = 5 then s
  else
    let x := ctxOf s (boundOf (coreOf s c)).ctx
    setCtx s (boundOf (coreOf s c)).ctx { x with stops := x.stops ++ [c] }

/-- Address of the first bundle not yet issued. -/
def nextBundle (k : CoreSt) : Word64 := match k.fetched with | some b => b.addr | none => k.pc

/-- CONTEXT_STOP: reports of the units and the DMA engine reach the scalar processor (R77). A core already suspended stops
when a report other than XLATE_FAULT comes. -/
def contextStop (s : State) (c : Nat) : State :=
  let k := coreOf s c
  let l := k.reports.map (fun r => r.code)
  let drop := modCore s c (fun k => { k with reports := [] })
  if l = [] then s
  else
    match coreState s c with
    | 1 | 2 | 3 => stopCore s c l 0 (nextBundle k)
    | 5 => if l.all (fun x => x == 5) then drop else stopCore s c (5 :: l) 0 (nextBundle k)
    | _ => drop

def execContextStop (c : CoreId) (s : State) : Host.Outcome State Fault Refusal := .next (contextStop s c)

/-! ### Causes found at issue -/

/-- Descriptor registers named in fields that a syllable uses. -/
def usedDescs (k0 : CoreSt) (y : Syl) : List Nat :=
  match y with
  | .d o y => dDescs o y (soSlope (getG k0 y.rm.toNat).toNat)
  | .a _ o y => aDescs o y
  | .v _ .vld y => [y.dn.toNat]
  | .v _ .vst y => [y.dn.toNat]
  | .k _ y => [y.dd.toNat]
  | .q .qrot _ => []
  | .q _ y => [y.dn.toNat]
  | _ => []

/-- Bytes by which the PUSHes among `l` raise stream `st`, one after another, after `n` more. -/
def pushedBytes (s : State) (c : Nat) (k0 : CoreSt) (st : Nat) : List Syl → Nat → Nat
  | [], n => n
  | .d .push y :: t, n =>
    let o := (getG k0 y.rm.toNat).toNat
    pushedBytes s c k0 st t
      (if soStream o = st then n + entryBytes s c (stackTop s c st + n) (getD k0 y.ds.toNat).tens o else n)
  | _ :: t, n => pushedBytes s c k0 st t n

/-- The refusal of syllable `y` found at issue, behind the syllables `before` of its bundle. -/
def refusalOf (s : State) (c : Nat) (k0 : CoreSt) (before : List Syl) (y : Syl) : Nat :=
  issueRefusal s c k0 (match y with
    | .d _ d => pushedBytes s c k0 (soStream (getG k0 d.rm.toNat).toNat) before 0
    | _ => 0) y

/-- The stop causes of an acting syllable behind the syllables `before` of its bundle. -/
def sylCauses (s : State) (c : Nat) (k0 : CoreSt) (hdr : Word64) (before : List Syl) (y : Syl) : List Nat :=
  let cause (b : Bool) (n : Nat) : List Nat := if b then [n] else []
  if (usedDescs k0 y).any (fun d => !(getD k0 d).valid) then [2]
  else
    match y with
    | .c .brr y => cause ((getG k0 y.ra.toNat).toNat % 8 != 0) 1
    | .c .ret _ => cause ((getG k0 63).toNat % 8 != 0) 1
    | .c .loop y => cause (loopBad k0 hdr y) 3
    | .c .stop _ => [7]
    | .m o y =>
      if !mReaches o then []
      else if spmBad k0 (mAddr k0 y) (mSize o y) then [4]
      else cause (mLoads o && (spmRead k0 (mAddr k0 y) (mSize o y)).2) 6
    | .y .qpost y =>
      let a := (getG k0 y.ra.toNat).toNat
      if spmBad k0 a 64 then [4] else cause (spmRead k0 a 64).2 6
    | _ => cause (refusalOf s c k0 before y != 0) 2

/-- The syllables of a bundle in the order in which they act: by slot, but a POP after every other. Syllables of one bundle
issue together, so R172 does not order a POP and a PUSH of one stream in it; here the POP finds the entry of that PUSH
(DESIGN CHOICE, notes/assumptions/40.md). -/
def actOrder (l : List Syl) : List Syl :=
  let pop (y : Syl) : Bool := match y with | .d .pop _ => true | _ => false
  l.filter (fun y => !pop y) ++ l.filter pop

/-- Each element of a list with those before it. -/
def withBefore {α : Type} : List α → List α → List (List α × α)
  | _, [] => []
  | pre, a :: t => (pre, a) :: withBefore (pre ++ [a]) t

/-- The stop causes of the acting syllables of a bundle. -/
def bundleCauses (s : State) (c : Nat) (k0 : CoreSt) (hdr : Word64) (acting : List Syl) : List Nat :=
  (withBefore [] (actOrder acting)).flatMap (fun e => sylCauses s c k0 hdr e.1 e.2)

/-- Record the refusals of a bundle's syllables. -/
def recordRefusals (c : Nat) (k0 : CoreSt) (acting : List Syl) (s : State) : State :=
  (withBefore [] (actOrder acting)).foldl (fun s e =>
    if (usedDescs k0 e.2).any (fun d => !(getD k0 d).valid) then s
    else
      let n := refusalOf s c k0 e.1 e.2
      if n = 0 then s else recordRefusal s c k0 e.2 n) s

/-- Software code of an acting STOP. -/
def swCode (k0 : CoreSt) (acting : List Syl) : Nat :=
  (acting.findSome? (fun y => match y with
    | .c .stop y => some ((getG k0 y.ra.toNat).toNat % 65536)
    | _ => none)).getD 0

/-! ### Issue (R54, R55) -/

/-- What a syllable other than one of slot C does. -/
def sylEffect (c : Nat) (k0 : CoreSt) (s : State) (y : Syl) : State :=
  match y with
  | .s o y => scalarEffect c k0 o y s
  | .c _ _ => s
  | .m o y => memEffect c k0 o y s
  | .d o y => dmaEffect c k0 o y s
  | .a arr o y => arrayEffect c k0 arr o y s
  | .v half o y => vectorEffect c k0 half o y s
  | .x o y => reduceEffect c k0 o y s
  | .y o y => queueEffect c k0 o y s
  | .k o y => convertEffect c k0 o y s
  | .q o y => scaleEffect c k0 o y s

/-- A masked-off vector syllable still occupies its half. -/
def idleEffect (c : Nat) (s : State) (y : Syl) : State :=
  match y with
  | .v half o y => pushOps s c (3 + half.val) [plainOp [] ((vRegWrites o y).map (fun x => x.reg)) []]
  | _ => s

/-- The acting C syllable of a bundle. -/
def cSyl (acting : List Syl) : Option (COp × CSyl) := acting.findSome? (fun y => match y with | .c o y => some (o, y) | _ => none)

/-- A syllable of `acting` writes the tile of the scale buffer, which ends its match (R123). -/
def spoils (acting : List Syl) (k : CoreSt) : Bool :=
  acting.any (fun y => (sylWrites y).any (fun x => x.reg == .tile k.scaleBuf.ts))

/-- The core with that match ended. -/
def spoilScales (acting : List Syl) (k : CoreSt) : CoreSt :=
  if spoils acting k then { k with scaleBuf := { k.scaleBuf with valid := false } } else k

/-- The state with it ended on core `c`. -/
def spoilCore (s : State) (c : Nat) (acting : List Syl) : State :=
  if spoils acting (coreOf s c) then modCore s c (spoilScales acting) else s

/-- A YIELD bundle that is not a cheap point is counted (R72). -/
def countSkip (s : State) (c : Nat) (b : Bundle) : State :=
  if b.yld ∧ getF s F.CORE_LRM_CNT_COUNT c ≤ b.lrm then inc s F.CORE_CNT_YIELD_SKIP_CNT c else s

/-- All the effects of a bundle that issues. -/
def issueBundle (s : State) (c : Nat) (k0 : CoreSt) (b : Bundle) : State :=
  let acting := b.syls.filter (sylActs k0)
  let s := spoilCore (countSkip s c b) c acting
  let s := (actOrder b.syls).foldl (fun s y => if sylActs k0 y then sylEffect c k0 s y else idleEffect c s y) s
  let s := modCore s c (fun k => controlEffect k0 b.addr k0.pc (b.len != 0) (cSyl acting) { k with fetched := none, issued := k.issued + 1 })
  setF s F.CORE_STS_STATE c 1

/-- A HALT ends its work item once every unit is idle and every tag free (R80, R281). -/
def haltCheck (s : State) (c : Nat) : State :=
  let k := coreOf s c
  if k.halting ∧ coreState s c = 1 ∧ allIdle k ∧ (xferList k).isEmpty ∧ k.reports = [] then
    let b := boundOf k
    let s := modCore s c (fun k => { k with halting := false, item := none })
    match k.item with
    | some (q, i) =>
      let s := modItem s q i (fun w => { w with halted := w.halted ++ [b.vcore] })
      startNext (setVc s b.ctx b.vcore { vcOf s b.ctx b.vcore with cur := none }) b.ctx b.vcore
    | none => s
  else s

/-- The scheduler processor holds a bank request and the bundle is a cheap point: the core issues nothing more (R67). -/
def bankDue (s : State) (c : Nat) (b : Bundle) : Bool :=
  getF s F.CORE_STS_BANK_REQ c == 1 && b.yld && decide (b.lrm < getF s F.CORE_LRM_CNT_COUNT c)

/-- The descriptor that a PUSH or POP with SLOPE names beside its tensor meets a write of its bundle (R47, R168). -/
def slopeClash (k0 : CoreSt) (l : List Syl) : Bool :=
  l.any (fun y => match y with
    | .d _ d => soSlope (getG k0 d.rm.toNat).toNat && l.any (fun x => writesShared x (sylReadsAt true y))
    | _ => false)

/-- Try to issue bundle `b`: it is held, or stops the core, or issues. A stop cause comes before a bank request that meets it
at the bundle (R79); a core held for its bank reads STATE 3 (Table 10.14). -/
def tryIssue (s : State) (c : Nat) (b : Bundle) : State :=
  let k0 := coreOf s c
  let acting := b.syls.filter (sylActs k0)
  let due := bankDue s c b
  let more := k0.reports.map (fun r => r.code)
  let hold (st : Nat) : State :=
    setF (modCore s c (fun k => { k with fetched := some b })) F.CORE_STS_STATE c (if due then 3 else st)
  if mustWait s c k0 b.syls acting then hold 1
  else if slopeClash k0 b.syls then stopCore s c (1 :: more) 0 b.addr
  else if gateWaits s c acting then hold 1
  else if yWaits s k0 acting then hold 2
  else
    let causes := bundleCauses s c k0 b.addr acting
    if causes ≠ [] then stopCore (recordRefusals c k0 acting s) c (causes ++ more) (swCode k0 acting) b.addr
    else if due then hold 3
    else haltCheck (issueBundle s c k0 b) c

/-- One syllable issues as a bundle of its own on core `c`, which runs and holds no bundle: it is held, stops the core, or
issues; the program counter stays unless it transfers control. -/
def issueSyl (s : State) (c : Nat) (y : Syl) : State :=
  let k := coreOf s c
  if k.bound.isSome ∧ coreState s c = 1 ∧ k.fetched.isNone ∧ ¬k.halting ∧ frozen s = false then
    if sylLegal y then tryIssue s c ⟨k.hdr, false, 0, 0, [y]⟩
    else stopCore s c (1 :: k.reports.map (fun r => r.code)) 0 k.hdr
  else s

/-- Y_WAIT_SATISFIED: the held bundle of a core in a Y-slot wait is tried again (R73). -/
def yWaitSatisfied (s : State) (c : Nat) : State :=
  match (coreOf s c).fetched with
  | some b => if coreState s c = 2 ∧ frozen s = false then tryIssue s c b else s
  | none => s

def execYWaitSatisfied (c : CoreId) (s : State) : Host.Outcome State Fault Refusal := .next (yWaitSatisfied s c)

/-! ### Fetch (R46, R48) -/

/-- How a fetch ends. -/
inductive FetchRes where
  | ok (bs : List Byte)
  | poisoned
  | fault (f : XFault)
  deriving DecidableEq, Repr

/-- Read a line of a context's DVA space as a fetch. -/
def fetchRead (s : State) (die k va : Nat) : Except XFault (List Byte × Bool) × State :=
  match translateRange s die k .fetch [(va, 64)] with
  | (.ok ps, s) =>
    let (b, p, s) := readPieces s (cgOf s k) .normal ps
    (.ok (b, p), s)
  | (.error e, s) => (.error e, s)

/-- Lines of 64 bytes that `n` bytes at DVA `a` touch. -/
def fetchSpan (a n : Nat) : List Nat := (List.range ((a + n - 1) / 64 - a / 64 + 1)).map (fun i => a / 64 + i)

/-- Lines with their bytes, in order. -/
abbrev FetchBuf := List (Nat × List Byte)

/-- `n` bytes at DVA `a` from lines that start at line a / 64. -/
def bufAt (l : FetchBuf) (a n : Nat) : List Byte := ((l.flatMap (fun e => e.2)).drop (a % 64)).take n

/-- Bytes of the bundle whose header is `h`; of one that fails decode, its header. -/
def bundleLen (h : List Byte) : Nat :=
  match headerSlots (leNat h) with
  | some l => 8 * (1 + l.length)
  | none => 8

/-- Lines of the instruction cache; nothing when one is absent. -/
def cachedLines (k : CoreSt) : List Nat → Option FetchBuf
  | [] => some []
  | l :: t =>
    match sget [] k.icache l, cachedLines k t with
    | [], _ => none
    | bs, some r => some ((l, bs) :: r)
    | _, none => none

/-- Lines of memory, each translated and read as a fetch. -/
def memLines (s : State) (c : Nat) : List Nat → Except FetchRes FetchBuf × State
  | [] => (.ok [], s)
  | l :: t =>
    match fetchRead s (cdOf c) (boundOf (coreOf s c)).ctx (64 * l) with
    | (.error f, s) => (.error (.fault f), s)
    | (.ok (bs, p), s) =>
      if p then (.error .poisoned, s)
      else
        match memLines s c t with
        | (.ok r, s) => (.ok ((l, bs) :: r), s)
        | r => r

/-- The lines of the bundle at DVA `a`, or only of its header, from the instruction cache. -/
def oldForm (k : CoreSt) (a : Nat) (whole : Bool) : Option FetchBuf :=
  match cachedLines k (fetchSpan a 8) with
  | none => none
  | some h => if whole then cachedLines k (fetchSpan a (bundleLen (bufAt h a 8))) else some h

/-- The same lines from memory. -/
def newForm (s : State) (c a : Nat) (whole : Bool) : Except FetchRes FetchBuf × State :=
  match memLines s c (fetchSpan a 8) with
  | (.ok h, s) =>
    if whole then
      match memLines s c ((fetchSpan a (bundleLen (bufAt h a 8))).drop h.length) with
      | (.ok r, s) => (.ok (h ++ r), s)
      | r => r
    else (.ok h, s)
  | r => r

/-- Line `l` of memory differs from its bytes `bs` in the cache. -/
def staleLine (s : State) (c l : Nat) (bs : List Byte) : Bool :=
  match (memLines s c [l]).1 with
  | .ok r => r != [(l, bs)]
  | .error _ => true

/-- Lines enter the instruction cache, and each line within two of them that memory no longer holds leaves it, so that no
bundle is put together from an old line and a new one. -/
def cacheLines (s : State) (c : Nat) (r : FetchBuf) : State :=
  let near (l : Nat) : Bool := r.any (fun e => decide (l ≤ e.1 + 2 ∧ e.1 ≤ l + 2))
  let out := ((coreOf s c).icache.filter (fun e => near e.1 && staleLine s c e.1 e.2)).map (fun e => e.1)
  modCore s c (fun k =>
    { k with icache := r.foldl (fun m e => sset [] m e.1 e.2) (out.foldl (fun m l => sset [] m l []) k.icache) })

/-- Fetch the bundle at DVA `a`, or only its header, whole in its old form or in its new one: where the cache holds it and
memory holds another form, either may come (R48: a free choice; notes/assumptions/40.md). -/
def fetchForm (s : State) (c a : Nat) (whole : Bool) : FetchRes × State :=
  let cut (r : FetchBuf) : List Byte := bufAt r a (if whole then bundleLen (bufAt r a 8) else 8)
  match oldForm (coreOf s c) a whole with
  | none =>
    match newForm s c a whole with
    | (.ok r, s) => (.ok (cut r), cacheLines s c r)
    | (.error f, s) => (f, s)
  | some o =>
    match (newForm s c a whole).1 with
    | .ok n =>
      if cut n = cut o then (.ok (cut o), s)
      else
        let (b, s) := freshBits s
        if b.getLsbD 0 then (.ok (cut n), cacheLines s c n) else (.ok (cut o), s)
    | .error _ => (.ok (cut o), s)

/-- 64-bit words of a list of bytes. -/
def wordsOf : Nat → List Byte → List Word64
  | 0, _ => []
  | n + 1, bs => BitVec.ofNat 64 (leNat (bs.take 8)) :: wordsOf n (bs.drop 8)

/-- A fetch that fails stops or suspends the core (R48, R76). -/
def fetchFails (s : State) (c : Nat) (pc : Word64) (r : FetchRes) : State :=
  let k := coreOf s c
  let b := boundOf k
  let more := k.reports.map (fun r => r.code)
  match r with
  | .fault f => stopCore (raiseFault s b.ctx 0 c f .fetch (.core b.ctx b.vcore)) c (5 :: more) 0 pc
  | _ => stopCore s c (6 :: more) 0 pc

/-- Fetch, decode and try the bundle at the program counter; `n` bounds the end bundle that a skipped loop passes. -/
def fetchBundle (c : Nat) : Nat → State → State
  | 0, s => s
  | n + 1, s =>
    let k := coreOf s c
    let pc := k.pc
    match fetchForm s c (pc.toNat % 2 ^ 48) (!k.skip) with
    | (.ok bs, s) =>
      let nxt := pc + BitVec.ofNat 64 (8 * (1 + bitsOf (leNat (bs.take 8)) 29 26))
      if k.skip then fetchBundle c n (modCore s c (fun k => { k with pc := nxt, skip := false }))
      else
        match decodeBundle pc (wordsOf (bs.length / 8) bs) with
        | some b => tryIssue (modCore s c (fun k => { k with hdr := pc, pc := nxt })) c b
        | none => stopCore s c (1 :: k.reports.map (fun r => r.code)) 0 pc
    | (r, s) => fetchFails s c pc r

/-- BUNDLE_FETCH: a running core tries the bundle it holds, or fetches the next one. -/
def bundleFetch (s : State) (c : Nat) : State :=
  let k := coreOf s c
  if k.bound.isSome ∧ coreState s c = 1 ∧ ¬k.halting ∧ frozen s = false then
    match k.fetched with
    | some b => tryIssue s c b
    | none => if k.item.isSome then fetchBundle c 2 s else s
  else s

def execBundleFetch (c : CoreId) (s : State) : Host.Outcome State Fault Refusal := .next (bundleFetch s c)

/-! ### Operations that finish (R61, R93, R103, R108) -/

/-- RESULT_READY: the oldest operation of a unit finishes; a MAC tile, a distance step or ACLR ends by TILE_END. -/
def resultReady (s : State) (c u : Nat) : State :=
  match unitOps (coreOf s c) u with
  | [] => s
  | o :: t =>
    let runs := if u < 3 then arrayRuns (coreOf s c) u else u < 8 || drainRuns (coreOf s c) (u - 8)
    if o.bank.isSome || frozen s || !runs then s
    else haltCheck (applyEffs c (modCore s c (fun k => setUnitOps k u t)) o.effs) c

def execResultReady (c : CoreId) (u : UnitId) (s : State) : Host.Outcome State Fault Refusal := .next (resultReady s c u)

/-- TILE_END: the oldest step of an array ends: its bank is written and its checksums compared (R103); the bank is not yet
released (R93). -/
def tileEnd (s : State) (c a : Nat) : State :=
  match unitOps (coreOf s c) a with
  | [] => s
  | o :: t =>
    match (if frozen s || !arrayRuns (coreOf s c) a then none else o.bank) with
    | none => s
    | some b =>
      let s := applyEffs c (modCore s c (fun k => setReleases (setUnitOps k a t) a (releasesOf k a ++ [b]))) o.effs
      match o.abft with
      | some r =>
        let n := (coreOf s c).events.length
        let s := tileVerdict s c b r
        if (coreOf s c).events.length = n then s else markPoison s c
      | none => s

def execTileEnd (c : CoreId) (a : ArrId) (s : State) : Host.Outcome State Fault Refusal := .next (tileEnd s c a)

/-- BANK_RELEASE: the bank of the oldest ended step passes to the interlock. -/
def bankRelease (s : State) (c a : Nat) : State :=
  haltCheck (modCore s c (fun k => setReleases k a (releasesOf k a).tail)) c

def execBankRelease (c : CoreId) (a : ArrId) (s : State) : Host.Outcome State Fault Refusal := .next (bankRelease s c a)

/-- ABFT_EVENT: the oldest event of a core reaches its CD's scheduler processor. -/
def abftEvent (s : State) (c : Nat) : State :=
  match (coreOf s c).events with
  | [] => s
  | e :: t =>
    notify (modCore s c (fun k => { k with events := t })) (cdOf c) e

def execAbftEvent (c : CoreId) (s : State) : Host.Outcome State Fault Refusal := .next (abftEvent s c)

def execDmaTransferComplete (c : CoreId) (x : Fin 16) (s : State) : Host.Outcome State Fault Refusal :=
  .next (haltCheck (dmaComplete s c x) c)

/-! ### The syllable commands -/

/-- NOP (R53): Scalar syllable with no effect. -/
def execNop (c : CoreId) (y : SSyl) (s : State) : Host.Outcome State Fault Refusal :=
  .next (issueSyl s c (.s .nop y))

/-- ADD (R53): Scalar add modulo 2^64 into g[RD]. -/
def execAdd (c : CoreId) (y : SSyl) (s : State) : Host.Outcome State Fault Refusal :=
  .next (issueSyl s c (.s .add y))

/-- SUB (R53): Scalar subtract modulo 2^64 into g[RD]. -/
def execSub (c : CoreId) (y : SSyl) (s : State) : Host.Outcome State Fault Refusal :=
  .next (issueSyl s c (.s .sub y))

/-- MUL (R53): Low 64 bits of a scalar product into g[RD]. -/
def execMul (c : CoreId) (y : SSyl) (s : State) : Host.Outcome State Fault Refusal :=
  .next (issueSyl s c (.s .mul y))

/-- MULH (R53): High 64 bits of the signed 128-bit product into g[RD]. -/
def execMulh (c : CoreId) (y : SSyl) (s : State) : Host.Outcome State Fault Refusal :=
  .next (issueSyl s c (.s .mulh y))

/-- AND (R53): Bitwise AND into g[RD]. -/
def execAnd (c : CoreId) (y : SSyl) (s : State) : Host.Outcome State Fault Refusal :=
  .next (issueSyl s c (.s .and y))

/-- OR (R53): Bitwise OR into g[RD]. -/
def execOr (c : CoreId) (y : SSyl) (s : State) : Host.Outcome State Fault Refusal :=
  .next (issueSyl s c (.s .or y))

/-- XOR (R53): Bitwise exclusive-or into g[RD]. -/
def execXor (c : CoreId) (y : SSyl) (s : State) : Host.Outcome State Fault Refusal :=
  .next (issueSyl s c (.s .xor y))

/-- SHL (R53): Left shift by b[5:0]. -/
def execShl (c : CoreId) (y : SSyl) (s : State) : Host.Outcome State Fault Refusal :=
  .next (issueSyl s c (.s .shl y))

/-- SHR (R53): Logical right shift by b[5:0]. -/
def execShr (c : CoreId) (y : SSyl) (s : State) : Host.Outcome State Fault Refusal :=
  .next (issueSyl s c (.s .shr y))

/-- SAR (R53): Arithmetic right shift by b[5:0]. -/
def execSar (c : CoreId) (y : SSyl) (s : State) : Host.Outcome State Fault Refusal :=
  .next (issueSyl s c (.s .sar y))

/-- MIN (R53): Signed minimum into g[RD]. -/
def execMin (c : CoreId) (y : SSyl) (s : State) : Host.Outcome State Fault Refusal :=
  .next (issueSyl s c (.s .min y))

/-- MAX (R53): Signed maximum into g[RD]. -/
def execMax (c : CoreId) (y : SSyl) (s : State) : Host.Outcome State Fault Refusal :=
  .next (issueSyl s c (.s .max y))

/-- MOV (R53): g[RD] = b. -/
def execMov (c : CoreId) (y : SSyl) (s : State) : Host.Outcome State Fault Refusal :=
  .next (issueSyl s c (.s .mov y))

/-- MOVHI (R53): Writes IMM into g[RD][63:32]. -/
def execMovhi (c : CoreId) (y : SSyl) (s : State) : Host.Outcome State Fault Refusal :=
  .next (issueSyl s c (.s .movhi y))

/-- CMPEQ (R53): Sets all bits of p[RD] to equality of g[RA] and b. -/
def execCmpeq (c : CoreId) (y : SSyl) (s : State) : Host.Outcome State Fault Refusal :=
  .next (issueSyl s c (.s .cmpeq y))

/-- CMPNE (R53): Sets p[RD] to inequality of g[RA] and b. -/
def execCmpne (c : CoreId) (y : SSyl) (s : State) : Host.Outcome State Fault Refusal :=
  .next (issueSyl s c (.s .cmpne y))

/-- CMPLT (R53): Sets p[RD] to signed less-than. -/
def execCmplt (c : CoreId) (y : SSyl) (s : State) : Host.Outcome State Fault Refusal :=
  .next (issueSyl s c (.s .cmplt y))

/-- CMPLTU (R53): Sets p[RD] to unsigned less-than. -/
def execCmpltu (c : CoreId) (y : SSyl) (s : State) : Host.Outcome State Fault Refusal :=
  .next (issueSyl s c (.s .cmpltu y))

/-- CMPLE (R53): Sets p[RD] to signed less-or-equal. -/
def execCmple (c : CoreId) (y : SSyl) (s : State) : Host.Outcome State Fault Refusal :=
  .next (issueSyl s c (.s .cmple y))

/-- CMPLEU (R53): Sets p[RD] to unsigned less-or-equal. -/
def execCmpleu (c : CoreId) (y : SSyl) (s : State) : Host.Outcome State Fault Refusal :=
  .next (issueSyl s c (.s .cmpleu y))

/-- PAND (R53): Predicate AND. -/
def execPand (c : CoreId) (y : SSyl) (s : State) : Host.Outcome State Fault Refusal :=
  .next (issueSyl s c (.s .pand y))

/-- POR (R53): Predicate OR. -/
def execPor (c : CoreId) (y : SSyl) (s : State) : Host.Outcome State Fault Refusal :=
  .next (issueSyl s c (.s .por y))

/-- PXOR (R53): Predicate exclusive-or. -/
def execPxor (c : CoreId) (y : SSyl) (s : State) : Host.Outcome State Fault Refusal :=
  .next (issueSyl s c (.s .pxor y))

/-- PNOT (R53): Predicate NOT. -/
def execPnot (c : CoreId) (y : SSyl) (s : State) : Host.Outcome State Fault Refusal :=
  .next (issueSyl s c (.s .pnot y))

/-- PMOV (R53): p[RD] = b. -/
def execPmov (c : CoreId) (y : SSyl) (s : State) : Host.Outcome State Fault Refusal :=
  .next (issueSyl s c (.s .pmov y))

/-- PGET (R53): g[RD] = p[RA]. -/
def execPget (c : CoreId) (y : SSyl) (s : State) : Host.Outcome State Fault Refusal :=
  .next (issueSyl s c (.s .pget y))

/-- POPC (R53): Counts set bits of g[RA]. -/
def execPopc (c : CoreId) (y : SSyl) (s : State) : Host.Outcome State Fault Refusal :=
  .next (issueSyl s c (.s .popc y))

/-- CLZ (R53): Counts leading zero bits of g[RA]. -/
def execClz (c : CoreId) (y : SSyl) (s : State) : Host.Outcome State Fault Refusal :=
  .next (issueSyl s c (.s .clz y))

/-- RDSR (R42): Reads a special register into g[RD]. -/
def execRdsr (c : CoreId) (y : SSyl) (s : State) : Host.Outcome State Fault Refusal :=
  .next (issueSyl s c (.s .rdsr y))

/-- WRSR (R42): Writes g[RA] to an RW special register (LC0, LC1). -/
def execWrsr (c : CoreId) (y : SSyl) (s : State) : Host.Outcome State Fault Refusal :=
  .next (issueSyl s c (.s .wrsr y))

/-- BR (R53): Branches to this header + 8 × OFS. -/
def execBr (c : CoreId) (y : CSyl) (s : State) : Host.Outcome State Fault Refusal :=
  .next (issueSyl s c (.c .br y))

/-- BRR (R53): Branches to g[RA], closing the innermost loop level if the target is outside its body. -/
def execBrr (c : CoreId) (y : CSyl) (s : State) : Host.Outcome State Fault Refusal :=
  .next (issueSyl s c (.c .brr y))

/-- CALL (R53): Writes the return address to g63 and branches. -/
def execCall (c : CoreId) (y : CSyl) (s : State) : Host.Outcome State Fault Refusal :=
  .next (issueSyl s c (.c .call y))

/-- RET (R53): Branches to g63. -/
def execRet (c : CoreId) (y : CSyl) (s : State) : Host.Outcome State Fault Refusal :=
  .next (issueSyl s c (.c .ret y))

/-- LOOP (R62): Opens a hardware loop level of g[RA] passes, or skips the body. -/
def execLoop (c : CoreId) (y : CSyl) (s : State) : Host.Outcome State Fault Refusal :=
  .next (issueSyl s c (.c .loop y))

/-- HALT (R80): Ends the work item on the core once every unit and DMA tag is idle. -/
def execHalt (c : CoreId) (y : CSyl) (s : State) : Host.Outcome State Fault Refusal :=
  .next (issueSyl s c (.c .halt y))

/-- STOP (R76): Stops the context with SW_STOP and a software code. -/
def execStop (c : CoreId) (y : CSyl) (s : State) : Host.Outcome State Fault Refusal :=
  .next (issueSyl s c (.c .stop y))

/-- LD (R53): Zero-extending scalar load from SPM. -/
def execLd (c : CoreId) (y : MSyl) (s : State) : Host.Outcome State Fault Refusal :=
  .next (issueSyl s c (.m .ld y))

/-- LDS (R53): Sign-extending scalar load from SPM. -/
def execLds (c : CoreId) (y : MSyl) (s : State) : Host.Outcome State Fault Refusal :=
  .next (issueSyl s c (.m .lds y))

/-- ST (R53): Scalar store to SPM. -/
def execSt (c : CoreId) (y : MSyl) (s : State) : Host.Outcome State Fault Refusal :=
  .next (issueSyl s c (.m .st y))

/-- DESC_LD (R228): Loads and validates a descriptor into d[RT], writing p[PD]. -/
def execDescLd (c : CoreId) (y : MSyl) (s : State) : Host.Outcome State Fault Refusal :=
  .next (issueSyl s c (.m .descLd y))

/-- DESC_SV (R53): Stores a descriptor register to SPM. -/
def execDescSv (c : CoreId) (y : MSyl) (s : State) : Host.Outcome State Fault Refusal :=
  .next (issueSyl s c (.m .descSv y))

/-- DESC_ADV (R230): Advances a descriptor view and revalidates it. -/
def execDescAdv (c : CoreId) (y : MSyl) (s : State) : Host.Outcome State Fault Refusal :=
  .next (issueSyl s c (.m .descAdv y))

/-- DESC_STS (R53): Returns validity and last refusal code of a descriptor register. -/
def execDescSts (c : CoreId) (y : MSyl) (s : State) : Host.Outcome State Fault Refusal :=
  .next (issueSyl s c (.m .descSts y))

/-- DMA_CPY (R232): Issues a tensor copy under a tag. -/
def execDmaCpy (c : CoreId) (y : DSyl) (s : State) : Host.Outcome State Fault Refusal :=
  .next (issueSyl s c (.d .cpy y))

/-- DMA_XP (R235): Issues a transposing copy, re-blocking E8M0 scales. -/
def execDmaXp (c : CoreId) (y : DSyl) (s : State) : Host.Outcome State Fault Refusal :=
  .next (issueSyl s c (.d .xp y))

/-- DMA_GATH (R239): Issues an indexed row gather. -/
def execDmaGath (c : CoreId) (y : DSyl) (s : State) : Host.Outcome State Fault Refusal :=
  .next (issueSyl s c (.d .gath y))

/-- DMA_SCAT (R242): Issues an indexed row scatter. -/
def execDmaScat (c : CoreId) (y : DSyl) (s : State) : Host.Outcome State Fault Refusal :=
  .next (issueSyl s c (.d .scat y))

/-- DMA_SCADD (R242): Issues an indexed FP32 scatter-add. -/
def execDmaScadd (c : CoreId) (y : DSyl) (s : State) : Host.Outcome State Fault Refusal :=
  .next (issueSyl s c (.d .scadd y))

/-- PUSH (R170): Pushes a tensor entry onto a woodpile stream. -/
def execPush (c : CoreId) (y : DSyl) (s : State) : Host.Outcome State Fault Refusal :=
  .next (issueSyl s c (.d .push y))

/-- POP (R171): Pops the top entry of a woodpile stream into a tensor. -/
def execPop (c : CoreId) (y : DSyl) (s : State) : Host.Outcome State Fault Refusal :=
  .next (issueSyl s c (.d .pop y))

/-- ALOAD (R92): Loads an array's stationary register under WS or IS. -/
def execAload (c : CoreId) (a : ArrId) (y : ASyl) (s : State) : Host.Outcome State Fault Refusal :=
  .next (issueSyl s c (.a a .aload y))

/-- AMM (R87): Matrix multiply-accumulate into a bank over KSTEPS steps. -/
def execAmm (c : CoreId) (a : ArrId) (y : ASyl) (s : State) : Host.Outcome State Fault Refusal :=
  .next (issueSyl s c (.a a .amm y))

/-- ADIST (R99): Distance or comparison operation into a bank. -/
def execAdist (c : CoreId) (a : ArrId) (y : ASyl) (s : State) : Host.Outcome State Fault Refusal :=
  .next (issueSyl s c (.a a .adist y))

/-- ADRAIN (R94): Copies a bank into a tile buffer over the drain path. -/
def execAdrain (c : CoreId) (a : ArrId) (y : ASyl) (s : State) : Host.Outcome State Fault Refusal :=
  .next (issueSyl s c (.a a .adrain y))

/-- AFILL (R94): Copies a tile buffer into a bank over the drain path. -/
def execAfill (c : CoreId) (a : ArrId) (y : ASyl) (s : State) : Host.Outcome State Fault Refusal :=
  .next (issueSyl s c (.a a .afill y))

/-- ACLR (R53): Clears a bank and its poison bit. -/
def execAclr (c : CoreId) (a : ArrId) (y : ASyl) (s : State) : Host.Outcome State Fault Refusal :=
  .next (issueSyl s c (.a a .aclr y))

/-- VADD (R149): Vector add. -/
def execVadd (c : CoreId) (h : Fin 2) (y : VSyl) (s : State) : Host.Outcome State Fault Refusal :=
  .next (issueSyl s c (.v h .vadd y))

/-- VSUB (R149): Vector subtract. -/
def execVsub (c : CoreId) (h : Fin 2) (y : VSyl) (s : State) : Host.Outcome State Fault Refusal :=
  .next (issueSyl s c (.v h .vsub y))

/-- VMUL (R149): Vector multiply. -/
def execVmul (c : CoreId) (h : Fin 2) (y : VSyl) (s : State) : Host.Outcome State Fault Refusal :=
  .next (issueSyl s c (.v h .vmul y))

/-- VFMA (R152): Vector fused multiply-add with one rounding. -/
def execVfma (c : CoreId) (h : Fin 2) (y : VSyl) (s : State) : Host.Outcome State Fault Refusal :=
  .next (issueSyl s c (.v h .vfma y))

/-- VMAX (R152): Element-wise IEEE maximum. -/
def execVmax (c : CoreId) (h : Fin 2) (y : VSyl) (s : State) : Host.Outcome State Fault Refusal :=
  .next (issueSyl s c (.v h .vmax y))

/-- VMIN (R152): Element-wise IEEE minimum. -/
def execVmin (c : CoreId) (h : Fin 2) (y : VSyl) (s : State) : Host.Outcome State Fault Refusal :=
  .next (issueSyl s c (.v h .vmin y))

/-- VABS (R152): Absolute value by clearing the sign bit. -/
def execVabs (c : CoreId) (h : Fin 2) (y : VSyl) (s : State) : Host.Outcome State Fault Refusal :=
  .next (issueSyl s c (.v h .vabs y))

/-- VNEG (R152): Negation by flipping the sign bit. -/
def execVneg (c : CoreId) (h : Fin 2) (y : VSyl) (s : State) : Host.Outcome State Fault Refusal :=
  .next (issueSyl s c (.v h .vneg y))

/-- VMOV (R149): Vector move of B. -/
def execVmov (c : CoreId) (h : Fin 2) (y : VSyl) (s : State) : Host.Outcome State Fault Refusal :=
  .next (issueSyl s c (.v h .vmov y))

/-- VCMPLT (R151): Less-than compare of row ROW0 into p[PD]. -/
def execVcmplt (c : CoreId) (h : Fin 2) (y : VSyl) (s : State) : Host.Outcome State Fault Refusal :=
  .next (issueSyl s c (.v h .vcmplt y))

/-- VCMPEQ (R151): Equality compare of row ROW0 into p[PD]. -/
def execVcmpeq (c : CoreId) (h : Fin 2) (y : VSyl) (s : State) : Host.Outcome State Fault Refusal :=
  .next (issueSyl s c (.v h .vcmpeq y))

/-- VEXP (R155): Vector exponential. -/
def execVexp (c : CoreId) (h : Fin 2) (y : VSyl) (s : State) : Host.Outcome State Fault Refusal :=
  .next (issueSyl s c (.v h .vexp y))

/-- VLOG (R155): Vector natural logarithm. -/
def execVlog (c : CoreId) (h : Fin 2) (y : VSyl) (s : State) : Host.Outcome State Fault Refusal :=
  .next (issueSyl s c (.v h .vlog y))

/-- VRCP (R155): Vector reciprocal. -/
def execVrcp (c : CoreId) (h : Fin 2) (y : VSyl) (s : State) : Host.Outcome State Fault Refusal :=
  .next (issueSyl s c (.v h .vrcp y))

/-- VRSQ (R155): Vector reciprocal square root. -/
def execVrsq (c : CoreId) (h : Fin 2) (y : VSyl) (s : State) : Host.Outcome State Fault Refusal :=
  .next (issueSyl s c (.v h .vrsq y))

/-- VSQRT (R155): Vector square root, correctly rounded. -/
def execVsqrt (c : CoreId) (h : Fin 2) (y : VSyl) (s : State) : Host.Outcome State Fault Refusal :=
  .next (issueSyl s c (.v h .vsqrt y))

/-- VTANH (R155): Vector hyperbolic tangent. -/
def execVtanh (c : CoreId) (h : Fin 2) (y : VSyl) (s : State) : Host.Outcome State Fault Refusal :=
  .next (issueSyl s c (.v h .vtanh y))

/-- VSIG (R155): Vector logistic sigmoid. -/
def execVsig (c : CoreId) (h : Fin 2) (y : VSyl) (s : State) : Host.Outcome State Fault Refusal :=
  .next (issueSyl s c (.v h .vsig y))

/-- VGELU (R155): Vector GELU. -/
def execVgelu (c : CoreId) (h : Fin 2) (y : VSyl) (s : State) : Host.Outcome State Fault Refusal :=
  .next (issueSyl s c (.v h .vgelu y))

/-- VSILU (R155): Vector SiLU. -/
def execVsilu (c : CoreId) (h : Fin 2) (y : VSyl) (s : State) : Host.Outcome State Fault Refusal :=
  .next (issueSyl s c (.v h .vsilu y))

/-- VSLOPE (R177): Writes 8-bit slope codes of GELU or SiLU. -/
def execVslope (c : CoreId) (h : Fin 2) (y : VSyl) (s : State) : Host.Outcome State Fault Refusal :=
  .next (issueSyl s c (.v h .vslope y))

/-- VLD (R161): Loads tensor rows from SPM into a tile, widened to FP32. -/
def execVld (c : CoreId) (h : Fin 2) (y : VSyl) (s : State) : Host.Outcome State Fault Refusal :=
  .next (issueSyl s c (.v h .vld y))

/-- VST (R161): Stores tile rows to an FP32 or INT32 tensor in SPM. -/
def execVst (c : CoreId) (h : Fin 2) (y : VSyl) (s : State) : Host.Outcome State Fault Refusal :=
  .next (issueSyl s c (.v h .vst y))

/-- XSUM (R158): Reduction sum. -/
def execXsum (c : CoreId) (y : XSyl) (s : State) : Host.Outcome State Fault Refusal :=
  .next (issueSyl s c (.x .xsum y))

/-- XSUMSQ (R158): Reduction sum of squares. -/
def execXsumsq (c : CoreId) (y : XSyl) (s : State) : Host.Outcome State Fault Refusal :=
  .next (issueSyl s c (.x .xsumsq y))

/-- XMAX (R158): Reduction maximum. -/
def execXmax (c : CoreId) (y : XSyl) (s : State) : Host.Outcome State Fault Refusal :=
  .next (issueSyl s c (.x .xmax y))

/-- XMIN (R158): Reduction minimum. -/
def execXmin (c : CoreId) (y : XSyl) (s : State) : Host.Outcome State Fault Refusal :=
  .next (issueSyl s c (.x .xmin y))

/-- XAMAX (R158): Reduction maximum absolute value. -/
def execXamax (c : CoreId) (y : XSyl) (s : State) : Host.Outcome State Fault Refusal :=
  .next (issueSyl s c (.x .xamax y))

/-- XARGMAX (R158): Index of the maximum along the reduced axis. -/
def execXargmax (c : CoreId) (y : XSyl) (s : State) : Host.Outcome State Fault Refusal :=
  .next (issueSyl s c (.x .xargmax y))

/-- XNFIN (R158): Count of non-finite elements. -/
def execXnfin (c : CoreId) (y : XSyl) (s : State) : Host.Outcome State Fault Refusal :=
  .next (issueSyl s c (.x .xnfin y))

/-- WDMA (R53): Waits until a DMA tag has no transfer outstanding. -/
def execWdma (c : CoreId) (y : YSyl) (s : State) : Host.Outcome State Fault Refusal :=
  .next (issueSyl s c (.y .wdma y))

/-- WENG (R53): Waits until selected units are idle. -/
def execWeng (c : CoreId) (y : YSyl) (s : State) : Host.Outcome State Fault Refusal :=
  .next (issueSyl s c (.y .weng y))

/-- SIG (R65): Adds 1 to a token counter of a context core. -/
def execSig (c : CoreId) (y : YSyl) (s : State) : Host.Outcome State Fault Refusal :=
  .next (issueSyl s c (.y .sig y))

/-- TOKW (R53): Waits for a non-zero token counter and decrements it. -/
def execTokw (c : CoreId) (y : YSyl) (s : State) : Host.Outcome State Fault Refusal :=
  .next (issueSyl s c (.y .tokw y))

/-- TWAIT (R53): Waits until fabric time reaches g[RA]. -/
def execTwait (c : CoreId) (y : YSyl) (s : State) : Host.Outcome State Fault Refusal :=
  .next (issueSyl s c (.y .twait y))

/-- FENCE (R53): Orders later writes after earlier writes are visible. -/
def execFence (c : CoreId) (y : YSyl) (s : State) : Host.Outcome State Fault Refusal :=
  .next (issueSyl s c (.y .fence y))

/-- QPOST (R287): Posts a 64-byte SPM entry to an eligible queue or drops it. -/
def execQpost (c : CoreId) (y : YSyl) (s : State) : Host.Outcome State Fault Refusal :=
  .next (issueSyl s c (.y .qpost y))

/-- KCVT (R124): Converts a tile into a stored tensor under a recipe. -/
def execKcvt (c : CoreId) (y : KSyl) (s : State) : Host.Outcome State Fault Refusal :=
  .next (issueSyl s c (.k .kcvt y))

/-- KUNP (R128): Unpacks a stored tensor into a tile in FP32. -/
def execKunp (c : CoreId) (y : KSyl) (s : State) : Host.Outcome State Fault Refusal :=
  .next (issueSyl s c (.k .kunp y))

/-- QAMAX (R122): Computes block scales of a tile into the scale buffer. -/
def execQamax (c : CoreId) (y : QSyl) (s : State) : Host.Outcome State Fault Refusal :=
  .next (issueSyl s c (.q .qamax y))

/-- QSEED (R136): Seeds the rotation sign vector of a descriptor register. -/
def execQseed (c : CoreId) (y : QSyl) (s : State) : Host.Outcome State Fault Refusal :=
  .next (issueSyl s c (.q .qseed y))

/-- QROT (R137): Rotates a tile with the current sign vector. -/
def execQrot (c : CoreId) (y : QSyl) (s : State) : Host.Outcome State Fault Refusal :=
  .next (issueSyl s c (.q .qrot y))

/-- QTSC (R121): Sets the per-tensor scale of a descriptor register. -/
def execQtsc (c : CoreId) (y : QSyl) (s : State) : Host.Outcome State Fault Refusal :=
  .next (issueSyl s c (.q .qtsc y))

end Sys2Proof.Machine
end

