-- ==== Sys2Proof/Machine/Bank.lean ====
section
/-! DEFINITION. Machine/Bank.lean: banking a core's virtual core to its ember area and binding one to a core (R67 to R73,
R248, R250, R294 to R300). -/

namespace Sys2Proof.Machine

/-! ### Live state (R68) -/

/-- The live-range entry of a save, as masks. -/
structure Live where
  gMask : Nat
  dMask : Nat
  pMask : Nat
  banks : Nat
  stat : Nat
  tMask : Nat
  sMask : Nat
  deriving DecidableEq, Repr

/-- Decode a live-range entry (Table 2.10). -/
def liveOf (b : List Byte) : Live :=
  let w := leNat b
  ⟨bitsOf w 63 0, bitsOf w 95 64, bitsOf w 111 96, bitsOf w 123 112, bitsOf w 126 124, bitsOf w 135 128, bitsOf w 255 192⟩

/-- A forced save keeps everything (R297). -/
def liveAll : Live := ⟨2 ^ 64 - 1, 2 ^ 32 - 1, 65535, 4095, 7, 255, 2 ^ 64 - 1⟩

/-- The live part of a save: [] stands for a forced one. -/
def liveOr (b : List Byte) : Live := if b = [] then liveAll else liveOf b

/-- Numbers below `n` whose bit is set. -/
def setBits (n m : Nat) : List Nat := (List.range n).filter (bitAt m)

/-! ### The fixed record (Table 10.12) -/

/-- One loop level: LC, body start, end; a closed level has start and end 0 (DESIGN CHOICE, notes/assumptions/17.md). -/
def loopBytes (k : CoreSt) (i : Nat) : List Byte :=
  let l := k.loops.getD i ⟨0, 0⟩
  leBytes 4 (lcOf k i).toNat ++ leBytes 8 l.start.toNat ++ leBytes 8 l.stop.toNat

/-- Mask of transfers recorded. -/
def xferMask (k : CoreSt) : Nat := ((setBits 16 65535).filter (fun i => (xferOf k i).isSome)).foldl (fun m i => m + 2 ^ i) 0

/-- The fixed record of core `c` at live-range entry `lrm`. No gate result record is held at a save: one that comes while the
virtual core is banked goes to bytes 200 to 231 then (R183). -/
def fixedRecord (s : State) (c lrm : Nat) : List Byte :=
  let k := coreOf s c
  leBytes 8 k.pc.toNat ++ loopBytes k 0 ++ loopBytes k 1 ++ (List.range 32).flatMap (fun n => leBytes 2 (tokenOf k n)) ++
    leBytes 2 (xferMask k) ++ leBytes 2 lrm ++ leBytes 12 0 ++ (List.range 16).flatMap (fun n => leBytes 4 (spOf s c n)) ++
    leBytes 4 (bitsOf (rdWord s (fldAddr F.BWD_GATE_STS_STATE c)).toNat 6 0) ++ leBytes 4 k.gateStep.toNat ++ leBytes 32 0 ++
    leBytes 4 (((List.range 32).filter (fun i => (getD k i).valid)).foldl (fun m i => m + 2 ^ i) 0) ++
    (List.range 8).flatMap (fun n => leBytes 2 (sget 0 k.tags n).toNat) ++ leBytes 1 (getF s F.VEC_STS_TPOISON c) ++
    leBytes 1 (match k.curVec with | some n => n + 128 | none => 0) ++ leBytes 2 (getF s F.ARR_STS_POISON c)

/-- A DMA progress record (Table 8.11). -/
def progressBytes (x : Xfer) : List Byte :=
  leBytes 1 x.opc ++ leBytes 1 x.tag ++ leBytes 1 x.state ++ leBytes 1 0 ++ leBytes 4 x.idxflt ++ leBytes 8 x.prog ++
    leBytes 8 x.opts.toNat ++ leBytes 8 x.fva ++ leBytes 32 0 ++ leBytes 64 x.ds.raw.toNat ++ leBytes 64 x.dd.raw.toNat ++
    leBytes 64 x.di.raw.toNat

/-- The scale buffer as saved: 256 scale bytes, TS, DN, KIND and whether it holds anything (DESIGN CHOICE,
notes/assumptions/17.md). -/
def scaleBufBytes (b : ScaleBuf) : List Byte :=
  (List.range 256).flatMap (fun i => leBytes 1 (sget 0 b.scales i)) ++ leBytes 1 b.ts ++ leBytes 1 b.dn ++ leBytes 1 b.kind ++
    leBytes 1 (if b.valid then 1 else 0) ++ leBytes 4 0

/-- Bytes of a tile or bank. -/
def tileBytes (t : Tile) : List Byte := (tileArr t).toList.flatMap (fun w => leBytes 4 w.toNat)

/-- A stationary register as saved, 16 KiB each (the layout is a DESIGN CHOICE, notes/assumptions/17.md): element codes in two
bytes, scale bytes, per-tensor scale, rotation tag, dataflow, format, lanes, size, whether it holds an operand. -/
def stationBytes (v : Station) : List Byte :=
  (List.range 4096).flatMap (fun i => leBytes 2 (sget 0 v.cells i)) ++ (List.range 256).flatMap (fun i => leBytes 1 (sget 0 v.scales i)) ++
    leBytes 4 v.tscale.toNat ++ leBytes 2 v.rtag ++ leBytes 1 v.dfl ++ leBytes 1 v.fmt ++ leBytes 1 v.lanes ++ leBytes 1 v.size ++
    leBytes 1 (if v.valid then 1 else 0) ++ leBytes 7925 0

/-- The stationary register that such bytes hold. -/
def stationOfBytes (b : List Byte) : Station :=
  { dfl := fieldLE b 8454 8454
    fmt := fieldLE b 8455 8455
    cells := sofFn 0 4096 (fun i => fieldLE b (2 * i) (2 * i + 1))
    scales := sofFn 0 256 (fun i => fieldLE b (8192 + i) (8192 + i))
    rtag := fieldLE b 8452 8453
    tscale := BitVec.ofNat 32 (fieldLE b 8448 8451)
    lanes := fieldLE b 8456 8456
    size := fieldLE b 8457 8457
    valid := fieldLE b 8458 8458 == 1 }

/-- The parts of a slot that a save writes, by offset (Table 10.12); a forced save writes every part but the reserved ones. -/
def slotParts (s : State) (c lrm : Nat) (l : Live) (forced : Bool) : List (Nat × List Byte) :=
  let k := coreOf s c
  [(0, fixedRecord s c lrm)] ++ (setBits 64 l.gMask).map (fun n => (0x200 + 8 * n, leBytes 8 (getG k n).toNat)) ++
    (setBits 16 l.pMask).map (fun n => (0x400 + 8 * n, leBytes 8 (getP k n).toNat)) ++
    (setBits 32 l.dMask).flatMap (fun n => [(0x480 + 4 * n, leBytes 4 (scaleOf k n).toNat),
      (0x500 + 2 * n, leBytes 2 (seedOf k n)), (0x800 + 64 * n, leBytes 64 (getD k n).raw.toNat)]) ++
    (if forced then [(0x540, scaleBufBytes k.scaleBuf), (0x648, leBytes 440 0)] else []) ++
    (List.range 16).flatMap (fun i => match xferOf k i with
      | some x => [(0x1000 + 256 * i, progressBytes x)]
      | none => if forced then [(0x1000 + 256 * i, leBytes 256 0)] else []) ++
    (setBits 3 l.stat).map (fun n => (0x2000 + 16384 * n, stationBytes (sget Station.reset k.station n))) ++
    (setBits 8 l.tMask).map (fun n => (0xE000 + 16384 * n, tileBytes (getTile k n))) ++
    (setBits 12 l.banks).map (fun n => (0x2E000 + 16384 * n, tileBytes (getBank k n)))

/-- Write parts of a slot. -/
def writeParts (s : State) (die k v : Nat) (l : List (Nat × List Byte)) : State :=
  l.foldl (fun s p => emberWrite s die k (slotVa s k v + p.1) p.2) s

/-- The part for unit queues and checksum state, whose layout the spec does not give: its bytes are free, and the model keeps what
they stand for beside the slot (notes/assumptions/17.md). -/
def writeUnitPart (s : State) (die k v : Nat) : State :=
  (List.range 128).foldl (fun s i =>
    let (b, s) := freeBlock s
    emberWrite s die k (slotVa s k v + 0x5E000 + 64 * i) b) s

/-- Save SPM segment `n`, line by line with its poison. -/
def saveSegment (s : State) (c k v n : Nat) : State :=
  (List.range 1024).foldl (fun s i =>
    let a := 65536 * n + 64 * i
    let (b, u) := spmRead (coreOf s c) a 64
    (dvaWrite s (cdOf c) k (slotVa s k v + 0x80000 + a) b u .normal).2) s

/-- Restore SPM segment `n`. -/
def loadSegment (s : State) (c k v n : Nat) : State :=
  (List.range 1024).foldl (fun s i =>
    let a := 65536 * n + 64 * i
    let (b, p, s) := emberRead s (cdOf c) k (slotVa s k v + 0x80000 + a) 64
    modCore s c (fun x => spmWrite x a b p)) s

/-! ### Saving (R67, R297) -/

/-- Register writes held until the next bank take effect (R81, R191, R252). -/
def applyHeld (s : State) (c : Nat) : State :=
  let l := (coreOf s c).heldWr
  modCore (l.foldl (fun s w => wrWord s w.1 w.2) s) c (fun k => { k with heldWr := [] })

/-- A transfer in phase S, or that waits for units, meets a bank: units and slices released, to restart (R248). A suspended
one keeps what it holds (R251). -/
def abandonXfer (s : State) (c i : Nat) : State :=
  match xferOf (coreOf s c) i with
  | some x =>
    if x.state = 0 ∧ (x.phase = .s ∨ x.phase = .wait) then
      let s := if x.phase = .s then inc s F.DMA_CNT2_STG_ABANDON_CNT c else s
      setXfer (releaseStaging s c x) c i (some { x with state := 2, phase := .wait })
    else s
  | none => s

/-- Directory record and BANKSEQ of the ember header (Table 10.11). -/
def writeDirectory (s : State) (die k v dir kind core seq : Nat) : State :=
  let base := emberOf s k + 0x3000 + 32 * v
  emberWrite s die k base (leBytes 1 dir ++ leBytes 1 kind ++ leBytes 1 core ++ leBytes 5 0 ++ leBytes 8 seq ++
    leBytes 8 (ftNow s) ++ leBytes 8 0)

/-- Free a core: nothing bound, its bank request answered. -/
def freeCore (s : State) (c : Nat) (warm : Option (Nat × Nat × Nat)) : State :=
  let s := setF (setF (setF s F.CORE_STS_STATE c 0) F.CORE_STS_BANK_REQ c 0) F.CORE_STS_CTX c 0
  let x := schedOf s (cdOf c)
  let s := setSched s (cdOf c) { x with bankReq := sset none x.bankReq (c % 16) none }
  modCore s c (fun k => { k with bound := none, item := none, fetched := none, halting := false, skip := false, units := [],
                                 releases := [], reports := [], xfers := [], spills := [], winFault := [], warm := warm })

/-- The pushed bytes that have not left the windows are spilled before a save. -/
def spillAll (s : State) (c : Nat) : State :=
  (List.range 16).foldl (fun s st => (spillsOf s c st).foldl (fun s _ => windowSpill s c st) s) s

/-- The held bundle of a core waits in its Y slot or for the gate. -/
def heldWaits (s : State) (c : Nat) : Bool :=
  match (coreOf s c).fetched with
  | some b =>
    let acting := b.syls.filter (sylActs (coreOf s c))
    gateWaits s c acting || yWaits s (coreOf s c) acting
  | none => false

/-- Save core `c` and free it: `lrm` and `live` of a cheap save, [] for a forced one; `dir` the directory state after. -/
def saveCore (s : State) (c lrm : Nat) (live : List Byte) (dir : Nat) : State :=
  let b := boundOf (coreOf s c)
  let forced := live = []
  let l := liveOr live
  let waited := coreState s c == 2 || coreState s c == 5 || heldWaits s c
  let s := (List.range 16).foldl (fun s i => abandonXfer s c i) s
  let s := modCore s c (fun k => { k with pc := nextBundle k })
  let k := coreOf s c
  let seq := (ctxOf s b.ctx).bankseq + 1
  let s := writeParts s (cdOf c) b.ctx b.vcore (slotParts s c lrm l forced)
  let s := if forced then writeUnitPart s (cdOf c) b.ctx b.vcore else s
  let s := ((setBits 64 l.sMask).filter (fun n => decide (n < k.partLen))).foldl (fun s n => saveSegment s c b.ctx b.vcore n) s
  let s := emberWrite s (cdOf c) b.ctx (emberOf s b.ctx) (leBytes 8 seq)
  let s := setCtx s b.ctx { ctxOf s b.ctx with bankseq := seq }
  let s := writeDirectory s (cdOf c) b.ctx b.vcore dir (if forced then 1 else 0) c seq
  let vc := vcOf s b.ctx b.vcore
  let s := setVc s b.ctx b.vcore { vc with
    dir := dir
    kind := if forced then 1 else 0
    core := c
    seq := seq
    placed := none
    affSince := none
    retried := false
    savedLive := live
    savedUnits := if forced then k.units else []
    savedRel := if forced then k.releases else []
    savedD := k.d
    savedXfers := k.xfers
    savedSpills := k.spills
    savedWin := k.win
    savedWinFault := k.winFault
    savedPz := k.pz
    savedPzArmed := k.pzArmed
    blocked := waited
    savedHalting := k.halting
    savedSkip := k.skip }
  let s := inc s (if forced then F.SCH_CNT0_FORCED_BANK_CNT else F.SCH_CNT0_CHEAP_BANK_CNT) (cdOf c)
  freeCore s c (some (b.ctx, b.gen, seq))

/-- A transfer of the core is in phase W and runs to completion before a save (R248). -/
def phaseWRuns (k : CoreSt) : Bool := (xferList k).any (fun x => x.phase == .w && x.state == 0)

/-- CHEAP_POINT_BANK: the core stands at a cheap point with a bank request, its units idle and no stop reported (R67, R73,
R79); until then it waits there in STATE 3. The COUNT and BASE under which the core reached the point also select the live-range
entry of this save; register writes that wait for the bank take effect when it is done (R81, R191: DESIGN CHOICE,
notes/assumptions/17.md), and a spill that faults leaves them waiting with the core bound. -/
def cheapPointBank (s : State) (c : Nat) : State :=
  match (coreOf s c).fetched with
  | none => s
  | some b =>
    if bankDue s c b ∧ (coreState s c = 1 ∨ coreState s c = 2 ∨ coreState s c = 3) ∧ frozen s = false then
      let s := tryIssue s c b
      let k := coreOf s c
      if coreState s c ≠ 3 ∨ ¬allIdle k ∨ phaseWRuns k ∨ k.reports ≠ [] then s
      else
        let s := spillAll s c
        if (coreOf s c).reports ≠ [] then s
        else
          let base := getPair s F.CORE_LRM_BASE_LO_BASE_LO F.CORE_LRM_BASE_HI_BASE_HI c
          let (e, _, s) := emberRead s (cdOf c) (boundOf k).ctx (base + 32 * b.lrm) 32
          applyHeld (saveCore s c b.lrm e 2) c
    else s

def execCheapPointBank (c : CoreId) (s : State) : Host.Outcome State Fault Refusal := .next (cheapPointBank s c)

/-- FORCED_BANK: the wait of R297 is over, or the core is suspended (R268), or R303 banks it where it waits; its units keep
their operations. -/
def forcedBank (s : State) (c : Nat) : State :=
  let k := coreOf s c
  let st := coreState s c
  let due := match sget none (schedOf s (cdOf c)).bankReq (c % 16) with
    | some t => decide (t ≤ ftNow s)
    | none => false
  if k.bound.isSome ∧ getF s F.CORE_STS_BANK_REQ c = 1 ∧ (st = 5 ∨ ((st = 1 ∨ st = 2 ∨ (st = 4 ∧ k.item = none)) ∧ due = true)) ∧ ¬phaseWRuns k ∧
      k.reports = [] then
    let s := spillAll s c
    if st ≠ 5 ∧ (coreOf s c).reports ≠ [] then s
    else applyHeld (saveCore s c 0 [] (if st = 5 then 3 else 2)) c
  else s

def execForcedBank (c : CoreId) (s : State) : Host.Outcome State Fault Refusal := .next (forcedBank s c)

/-- A bank request to core `c`, forced from fabric time `t` on. -/
def requestBank (s : State) (c t : Nat) : State :=
  let x := schedOf s (cdOf c)
  setF (setSched s (cdOf c) { x with bankReq := sset none x.bankReq (c % 16) (some t) }) F.CORE_STS_BANK_REQ c 1

/-- A bank request made now. -/
def requestBankNow (s : State) (c : Nat) : State := requestBank s c (ftNow s + 1000 * (schedOf s (cdOf c)).cheapWait)

/-! ### Restoring (R70, R71, R300) -/

/-- Part of a saved slot. -/
def slotRead (s : State) (die k v off n : Nat) : List Byte × State :=
  let (b, _, s) := emberRead s die k (slotVa s k v + off) n
  (b, s)

/-- Fold over numbers, each reading part of the slot into the core. -/
def loadEach (s : State) (c k v : Nat) (l : List Nat) (off step n : Nat) (f : Nat → List Byte → CoreSt → CoreSt) : State :=
  l.foldl (fun s i =>
    let (b, s) := slotRead s (cdOf c) k v (off + step * i) n
    modCore s c (f i b)) s

/-- Cells of a saved tile or bank. -/
def cellsOf (b : List Byte) : Tile :=
  sofFn 0 4096 (fun i => BitVec.ofNat 32 (fieldLE b (4 * i) (4 * i + 3)))

/-- A loop level of the fixed record. -/
def loopOf (b : List Byte) (i : Nat) : Word32 × Option LoopLevel :=
  let o := 8 + 20 * i
  let st := fieldLE b (o + 4) (o + 11)
  let en := fieldLE b (o + 12) (o + 19)
  (BitVec.ofNat 32 (fieldLE b o (o + 3)), if st = 0 ∧ en = 0 then none else some ⟨BitVec.ofNat 64 st, BitVec.ofNat 64 en⟩)

/-- A transfer as its progress record and what the module kept give it (R250). Its indices are read again from PROG on, and a
POP finds its window empty (R176). -/
def restoredXfer (b : List Byte) (x : Xfer) : Xfer :=
  { x with
    idx := []
    idxAt := 0
    fromWin := false
    opc := fieldLE b 0 0
    tag := fieldLE b 1 1
    state := if fieldLE b 2 2 = 1 ∧ x.state = 1 then 1 else 0
    idxflt := fieldLE b 4 7
    prog := fieldLE b 8 15
    opts := BitVec.ofNat 64 (fieldLE b 16 23)
    fva := fieldLE b 24 31
    ds := { x.ds with raw := BitVec.ofNat 512 (fieldLE b 64 127) }
    dd := { x.dd with raw := BitVec.ofNat 512 (fieldLE b 128 191) }
    di := { x.di with raw := BitVec.ofNat 512 (fieldLE b 192 255) } }

/-- The core as the fixed record `b` and the kept state give it; what is not live is reset (R69, R70). -/
def restoreFixed (b : List Byte) (vc : VcSt) (l : Live) (forced : Bool) (k : CoreSt) : CoreSt :=
  let l0 := loopOf b 0
  let l1 := loopOf b 1
  let cur := fieldLE b 253 253
  let valid := fieldLE b 232 235
  { k with
    pc := BitVec.ofNat 64 (fieldLE b 0 7)
    hdr := BitVec.ofNat 64 (fieldLE b 0 7)
    lc0 := l0.1
    lc1 := l1.1
    loops := (match l0.2 with | some x => [x] | none => []) ++ (match l1.2 with | some x => [x] | none => [])
    tokens := sofFn 0 32 (fun n => BitVec.ofNat 16 (fieldLE b (48 + 2 * n) (49 + 2 * n)))
    gateStep := BitVec.ofNat 32 (fieldLE b 196 199)
    tags := sofFn 0 8 (fun n => if bitAt l.tMask n then BitVec.ofNat 16 (fieldLE b (236 + 2 * n) (237 + 2 * n)) else 0)
    curVec := if 128 ≤ cur ∧ (forced ∨ bitAt l.dMask (cur % 32)) then some (cur % 32) else none
    d := (vc.savedD.filter (fun e => bitAt l.dMask e.1)).map (fun e => (e.1, { e.2 with valid := bitAt valid e.1 }))
    station := []
    win := vc.savedWin
    winFault := vc.savedWinFault
    units := vc.savedUnits
    releases := vc.savedRel
    spills := vc.savedSpills
    pz := vc.savedPz
    pzArmed := vc.savedPzArmed
    halting := vc.savedHalting
    skip := vc.savedSkip }

/-- SPM segment `n` of the partition reads zero. -/
def zeroSegment (k : CoreSt) (n : Nat) : CoreSt :=
  let lo := 65536 * (k.partSeg + n)
  let hi := lo + 65536
  { k with spm := { bytes := k.spm.bytes.filter (fun e => !decide (lo ≤ e.1 ∧ e.1 < hi)),
                    chk := k.spm.chk.filter (fun e => !decide (lo ≤ 16 * e.1 ∧ 16 * e.1 < hi)) } }

/-- Restore the saved state of virtual core `v` into core `c`. A warm resume finds the live segments of a cheap save in place, and
the others read zero (R70, R300). -/
def restoreCore (s : State) (c k v : Nat) (warm : Bool) : State :=
  let vc := vcOf s k v
  let l := liveOr vc.savedLive
  let forced : Bool := vc.kind == 1
  let die := cdOf c
  let (fix, s) := slotRead s die k v 0 256
  let s := modCore s c (restoreFixed fix vc l forced)
  let s := loadEach s c k v (setBits 64 l.gMask) 0x200 8 8 (fun i b x => setG x i (BitVec.ofNat 64 (leNat b)))
  let s := loadEach s c k v (setBits 16 l.pMask) 0x400 8 8 (fun i b x => setP x i (BitVec.ofNat 64 (leNat b)))
  let s := loadEach s c k v (setBits 32 l.dMask) 0x480 4 4 (fun i b x => { x with tscale := sset 0 x.tscale i (BitVec.ofNat 32 (leNat b)) })
  let s := loadEach s c k v (setBits 32 l.dMask) 0x500 2 2 (fun i b x => { x with seeds := sset 0 x.seeds i (BitVec.ofNat 16 (leNat b)) })
  let s := loadEach s c k v (setBits 32 l.dMask) 0x800 64 64 (fun i b x => setD x i { getD x i with raw := BitVec.ofNat 512 (leNat b) })
  let s := loadEach s c k v (setBits 8 l.tMask) 0xE000 16384 16384 (fun i b x => setTile x i (cellsOf b))
  let s := loadEach s c k v (setBits 12 l.banks) 0x2E000 16384 16384 (fun i b x => setBank x i (cellsOf b))
  let s := loadEach s c k v (setBits 3 l.stat) 0x2000 16384 16384 (fun i b x =>
    { x with station := sset Station.reset x.station i (stationOfBytes b) })
  let s := loadEach s c k v (if forced then [0] else []) 0x540 0 264 (fun _ b x =>
    { x with scaleBuf := ⟨fieldLE b 259 259 == 1, fieldLE b 256 256, fieldLE b 257 257, fieldLE b 258 258,
                          sofFn 0 256 (fun i => fieldLE b i i)⟩ })
  let s := loadEach s c k v (setBits 16 (fieldLE fix 112 113)) 0x1000 256 256 (fun i b x =>
    match sget none vc.savedXfers i with
    | some y => { x with xfers := sset none x.xfers i (some (restoredXfer b y)) }
    | none => x)
  let s := modCore s c (fun x => { x with xferSeq := ((xferList x).map (fun y => y.id + 1)).foldl max x.xferSeq })
  let s := setF s F.VEC_STS_TPOISON c (fieldLE fix 252 252 &&& l.tMask)
  let s := setF s F.ARR_STS_POISON c (fieldLE fix 254 255 &&& l.banks)
  let gate := fieldLE fix 192 195
  let s := setF (setF s F.BWD_GATE_STS_STATE c (gate % 4)) F.BWD_GATE_STS_CAUSE c (gate / 4 % 32)
  let s := setF s F.BWD_GATE_STS_STEP c (fieldLE fix 196 199 % 2 ^ 24)
  let s := (List.range 16).foldl (fun s n =>
    let sp := fieldLE fix (128 + 4 * n) (131 + 4 * n)
    setWinLo (setF s (spFld n) c sp) c n sp) s
  if warm then
    inc (modCore s c (fun x => ((List.range x.partLen).filter (fun n => !bitAt l.sMask n)).foldl zeroSegment x))
      F.SCH_CNT1_WARM_RESUME_CNT die
  else ((setBits 64 l.sMask).filter (fun n => decide (n < (coreOf s c).partLen))).foldl (fun s n => loadSegment s c k v n) s

/-- Transfers that were abandoned in phase S, or waited, ask for their units again (R248). -/
def restartXfers (s : State) (c : Nat) : State :=
  (List.range 16).foldl (fun s i =>
    match xferOf (coreOf s c) i with
    | some x => if x.phase = .wait ∧ x.state = 0 then requestUnits s c x else s
    | none => s) s

/-! ### DSM allocations (R296) -/

/-- DVA of the DSM save area of CD `cd`. -/
def dsmSaveVa (s : State) (k cd : Nat) : Nat :=
  let x := ctxOf s k
  emberOf s k + 0x10000 + x.ncore * 0x480000 + ((maskBits x.cdmask).idxOf cd) * (x.dsmu * 65536)

/-- DSM units outside the reserve of R246 that no context holds, lowest first. -/
def dsmFree (s : State) (cd : Nat) : List Nat :=
  (List.range 448).filter (fun u => !(schedOf s cd).dsmAlloc.any (fun a => a.2.contains u))

/-- Zero or restore the units `us` of an allocation of context `k`. -/
def dsmFillUnits (s : State) (cd k : Nat) (us : List Nat) (restore : Bool) : State :=
  (List.range (us.length * 1024)).foldl (fun s i =>
    let (b, p, s) := if restore then emberRead s cd k (dsmSaveVa s k cd + 64 * i) 64 else (List.replicate 64 0, false, s)
    setDsm s cd (sramWrite (dsmOf s cd) (dsmAt us (64 * i)) b p)) s

/-- Write an allocation to its ember area and release it. -/
def dsmReclaim (s : State) (cd k : Nat) : State :=
  let us := dsmUnits s cd k
  let s := (List.range (us.length * 1024)).foldl (fun s i =>
    let (b, u) := sramRead (dsmOf s cd) (dsmAt us (64 * i)) 64
    (dvaWrite s cd k (dsmSaveVa s k cd + 64 * i) b u .normal).2) s
  let x := schedOf s cd
  inc (setSched s cd { x with dsmAlloc := x.dsmAlloc.filter (fun a => a.1 != k), reclaimed := k :: x.reclaimed })
    F.SCH_CNT2_DSM_RECLAIM_CNT cd

/-! ### Scores and blocked contexts (R292, R293, R303) -/

/-- Capacity of class `x` per µs (Table 10.10). -/
def classCap (x : Nat) : Nat := match x with | 0 => 48 | 1 => 32 | _ => 16

/-- Credit of a context in engine-ns. -/
def creditOf (s : State) (cd k x : Nat) : Int := sget 0 (schedOf s cd).credit (4 * k + x)

/-- Score in units of 1/96 ns: the least credit over its capacity. -/
def scoreOf (s : State) (cd k : Nat) : Int :=
  ([1, 2, 3].map (fun x => creditOf s cd k x * (96 / classCap x : Nat))).foldl min (creditOf s cd k 0 * 2)

def coresOf (cd : Nat) : List Nat := (List.range 16).map (fun i => 16 * cd + i)

/-- Cores of a CD bound to context `k`. -/
def residentCores (s : State) (cd k : Nat) : List Nat :=
  (coresOf cd).filter (fun c => match (coreOf s c).bound with | some b => b.ctx == k | none => false)

/-- Contexts with a bound core on a CD. -/
def residentCtxs (s : State) (cd : Nat) : List Nat :=
  ((coresOf cd).filterMap (fun c => (coreOf s c).bound.map (fun b => b.ctx))).eraseDups

/-- The core waits: a Y-slot wait, a gated wait in ARMED, or suspended. -/
def coreBlocked (s : State) (c : Nat) : Bool :=
  coreState s c == 2 || coreState s c == 5 || heldWaits s c

def ctxBlocked (s : State) (cd k : Nat) : Bool := (residentCores s cd k).all (coreBlocked s)

/-- The lowest of a list by a key, the first among equals. -/
def lowestBy {α : Type} (f : α → Int) : List α → Option α
  | [] => none
  | a :: t => match lowestBy f t with
    | some b => if f b < f a then some b else some a
    | none => some a

/-- Reclaim DSM until `n` units are free, from contexts without a resident core, lowest score first; a context that is ending
keeps its units until it is FREE, for nothing of it is written any more (R271). Whether enough are free in the end. -/
def dsmMakeRoom (cd n : Nat) : Nat → State → Bool × State
  | 0, s => (decide (n ≤ (dsmFree s cd).length), s)
  | f + 1, s =>
    if n ≤ (dsmFree s cd).length then (true, s)
    else
      let idle := ((schedOf s cd).dsmAlloc.map (fun a => a.1)).filter (fun k =>
        (residentCores s cd k).isEmpty && (ctxOf s k).state == 1)
      match lowestBy (scoreOf s cd) idle with
      | some k => dsmMakeRoom cd n f (dsmReclaim s cd k)
      | none => (false, s)

/-- The context's DSM on the CD before a bind; false when the bind must wait. -/
def dsmReady (s : State) (cd k : Nat) : Bool × State :=
  let n := (ctxOf s k).dsmu
  let x := schedOf s cd
  if n = 0 ∨ x.dsmAlloc.any (fun a => a.1 == k) then (true, s)
  else
    match dsmMakeRoom cd n 448 s with
    | (false, s) => (false, s)
    | (true, s) =>
      let back := (schedOf s cd).reclaimed.contains k
      let y := schedOf s cd
      let us := (dsmFree s cd).take n
      let s := setSched s cd { y with dsmAlloc := y.dsmAlloc ++ [(k, us)], reclaimed := y.reclaimed.filter (fun j => j != k) }
      (true, dsmFillUnits s cd k us back)

/-! ### Binding (R295) -/

/-- The fault records that cover a suspended thing and are not answered. -/
def coveredOpen (s : State) (x : Covered) : Bool :=
  (s.faults.waiting ++ s.faults.opened ++ s.faults.beyond).any (fun r => r.covers.contains x)

/-- The bind-template record of a virtual core (Table 10.9). -/
def templateOf (s : State) (k v : Nat) : List Byte × Bool × State := devRead s ((ctxOf s k).tmpl + 64 * v) 64

/-- Write the template values into the CORE, DMA and BWD registers, and clear what binding clears (R81, R111, R146, R165,
R191, R252). -/
def bindRegs (s : State) (c : Nat) (t : List Byte) : State :=
  let set (s : State) (f : Fld) (v : Nat) : State := setF s f c v
  let lrm := fieldLE t 0 7
  let reg := fieldLE t 16 23
  let wp := fieldLE t 24 31
  let s := set (set s F.CORE_LRM_BASE_LO_BASE_LO (lrm / 32 % 2 ^ 27)) F.CORE_LRM_BASE_HI_BASE_HI (lrm / 2 ^ 32 % 2 ^ 16)
  let s := set s F.CORE_LRM_CNT_COUNT (min (fieldLE t 8 9) 1024)
  let s := set (set s F.DMA_REG_BASE_LO_BASE_LO (reg / 16 % 2 ^ 28)) F.DMA_REG_BASE_HI_BASE_HI (reg / 2 ^ 32 % 2 ^ 16)
  let s := set s F.DMA_REG_CNT_COUNT (fieldLE t 10 11)
  let s := set (set s F.BWD_WP_BASE_LO_BASE_LO (wp / 65536 % 2 ^ 16)) F.BWD_WP_BASE_HI_BASE_HI (wp / 2 ^ 32 % 2 ^ 16)
  let s := set (set s F.BWD_WP_CFG_SLICE (fieldLE t 32 33)) F.BWD_WP_CFG_NSTRM1 (fieldLE t 13 13 % 16)
  let s := set s F.BWD_WP_SOFT_SOFT (fieldLE t 34 35)
  let s := set (set s F.BWD_WP_WIN_SEG0 (fieldLE t 14 14 % 64)) F.BWD_WP_WIN_NSEG (min (fieldLE t 15 15) 64)
  let clear := [F.CORE_STOP_CODE, F.CORE_STOP_MULTI, F.CORE_STOP_SWCODE, F.CORE_STOP_PC_LO_PC_LO, F.CORE_STOP_PC_HI_PC_HI,
    F.ARR_STS_REFUSE, F.ARR_STS_REF_ARR, F.ARR_ABFT_LOG0_VALID, F.ARR_ABFT_LOG0_LOST, F.ARR_ABFT_LOG0_ARRAY,
    F.ARR_ABFT_LOG0_BANK, F.ARR_ABFT_LOG0_INTPAIR, F.ARR_ABFT_LOG0_ROWS, F.ARR_ABFT_LOG0_COLS, F.ARR_ABFT_LOG1_FTIME_LO,
    F.ARR_ABFT_LOG2_FTIME_HI, F.ARR_ABFT_LOG3_CTX, F.ARR_ABFT_LOG3_GEN, F.NUM_STS_REFUSE, F.NUM_STS_REF_UNIT,
    F.VEC_STS_REFUSE, F.VEC_STS_REF_HALF, F.VEC_STS_ESCAPE, F.VEC_STS_TPOISON, F.ARR_STS_POISON, F.BWD_WP_STS_CAUSE,
    F.BWD_WP_STS_OP, F.BWD_WP_STS_STREAM, F.BWD_GATE_STS_STATE, F.BWD_GATE_STS_CAUSE, F.BWD_GATE_STS_STEP, F.DMA_STS_REFUSE,
    F.DMA_STS_OP, F.DMA_STS_TAG, F.BWD_SEAL_NUM_SEALNUM]
  let s := clear.foldl (fun s f => set s f 0) s
  (List.range 16).foldl (fun s n => set s (spFld n) 0) s

/-- Zero the segments of a partition. -/
def zeroPartition (k : CoreSt) : CoreSt :=
  let lo := 65536 * k.partSeg
  let hi := lo + partBytes k
  { k with spm := { bytes := k.spm.bytes.filter (fun e => !decide (lo ≤ e.1 ∧ e.1 < hi)),
                    chk := k.spm.chk.filter (fun e => !decide (lo ≤ 16 * e.1 ∧ 16 * e.1 < hi)) } }

/-- The core as a bind leaves it before its state is set: what stays is what no bind resets (counters, injections, SPM). -/
def bareCore (k : CoreSt) (b : Binding3) (seg : Nat) : CoreSt :=
  { CoreSt.reset with
    bound := some b
    spm := k.spm
    partLen := seg
    numCnt := k.numCnt
    numLatch := k.numLatch
    injCell := k.injCell
    injPar := k.injPar
    drainPar := k.drainPar
    beatHold := k.beatHold
    issued := k.issued
    xferSeq := k.xferSeq
    events := k.events }

/-- Pages that a bind checks and locks: the live-range table and the region table (R262). -/
def bindPages (t : List Byte) : List Nat :=
  (pagesOf (fieldLE t 0 7) (32 * min (fieldLE t 8 9) 1024) ++ pagesOf (fieldLE t 16 23) (16 * fieldLE t 10 11)).eraseDups

/-- Load the pending tokens of a virtual core into its counters and clear them (R299, R300). -/
def takePending (s : State) (c k v : Nat) : State :=
  let va := pendTokenVa s k v 0
  let (b, _, s) := emberRead s (cdOf c) k va 64
  let s := emberWrite s (cdOf c) k va (leBytes 64 0)
  modCore s c (fun x => (List.range 32).foldl (fun x n => setToken x n (min 65535 (tokenOf x n + fieldLE b (2 * n) (2 * n + 1)))) x)

/-- A bind that fails its pin check raises a record of cause PIN and UNIT 3. A bind whose translations do not fit in the store
names its first page, at level 0 (the spec names none; DESIGN CHOICE, notes/assumptions/8.md). -/
def bindFails (s : State) (c k v va lvl : Nat) : State :=
  let vc := vcOf s k v
  raiseFault (setVc s k v { vc with placed := none }) k 3 c ⟨va, 7, lvl, 0⟩ .read (.bind k v)

/-- BIND (R295): the placed virtual core is bound to its core. -/
def bindCore (s : State) (k v : Nat) : State :=
  let vc := vcOf s k v
  let x := ctxOf s k
  match vc.placed with
  | none => s
  | some c =>
    if coreState s c ≠ 0 ∨ x.state ≠ 1 ∨ x.ncore ≤ v ∨ coveredOpen s (.bind k v) then s
    else
      let (t, _, s) := templateOf s k v
      match pinCheck s k x.ptRoot x.gen false (bindPages t) with
      | (.error (pg, lvl), s) => bindFails s c k v (65536 * pg) lvl
      | (.ok l, s) =>
        if !locksFit s (cdOf c) l then bindFails s c k v (65536 * (bindPages t).headD 0) 0
        else
          match dsmReady (lockAll s (cdOf c) l) (cdOf c) k with
          | (false, s) => s
          | (true, s) =>
            let first := vc.dir == 0
            let warm := !first && (coreOf s c).warm == some (k, x.gen, vc.seq)
            let s := setF (bindRegs s c t) F.BWD_SEAL_NUM_SEALNUM c (sget 0 s.col.sealNum k)
            let s := modCore s c (fun y => bareCore y ⟨k, x.gen, v⟩ x.spmseg)
            let s := if warm then s else modCore s c zeroPartition
            let s := setF (setF s F.CORE_STS_CTX c k) F.CORE_STS_STATE c 1
            let s := if first then s else restoreCore s c k v warm
            let s := takePending s c k v
            let vc := vcOf s k v
            let s := vc.held.foldl (fun s h => modCore s c (fun y => spmWrite y h.1 h.2 false)) s
            let s := setVc s k v { vc with dir := 1, core := c, placed := none, affSince := none, retried := false, held := [],
                                           blocked := false }
            let s := writeDirectory s (cdOf c) k v 1 vc.kind c vc.seq
            let s := modCore s c (fun y => { y with item := vc.cur })
            haltCheck (startNext (restartXfers s c) k v) c

def execBind (k : CtxId) (v : VCoreId) (s : State) : Host.Outcome State Fault Refusal :=
  .next (if restarting s (9 + homeCd s k v) then s else bindCore s k v)

end Sys2Proof.Machine
end

