-- ==== Sys2Proof/Machine/Sched.lean ====
section
/-! DEFINITION. Machine/Sched.lean: the scheduler processor of a CD: credits, placement, bank requests, blocked contexts,
and the propagation of a stop (R285, R291 to R294, R302, R303). -/

namespace Sys2Proof.Machine

/-! ### SHARE and PRIO in force (R290) -/

/-- SHARE of context `k` in the accounting period of `cd`. -/
def shareOf (s : State) (cd k : Nat) : Nat :=
  match sget none (schedOf s cd).oldShare k with
  | some p => p.1
  | none => (ctxOf s k).share

/-- PRIO of context `k` in the accounting period of `cd`. -/
def prioOf (s : State) (cd k : Nat) : Nat :=
  match sget none (schedOf s cd).oldShare k with
  | some p => p.2
  | none => (ctxOf s k).prio

/-! ### Waiting virtual cores -/

/-- Virtual core `v` of context `k` waits for a core: it has work, is not resident, and nothing holds it back; one banked
while suspended waits only once its record was answered RETRY (R268). -/
def vcWaits (s : State) (k v : Nat) : Bool :=
  let x := ctxOf s k
  let c := vcOf s k v
  x.state == 1 && decide (v < x.ncore) && c.dir != 1 && (c.cur.isSome || !c.items.isEmpty) && (c.dir != 3 || c.retried) &&
    c.placed.isNone && !coveredOpen s (.bind k v)

/-- Virtual cores of context `k` homed on `cd`. -/
def homedOn (s : State) (cd k : Nat) : List Nat :=
  (List.range (ctxOf s k).ncore).filter (fun v => (ctxOf s k).cdmask != 0 && homeCd s k v == cd)

/-- Waiting virtual cores of context `k` on `cd`, lowest first. -/
def waitersOf (s : State) (cd k : Nat) : List Nat := (homedOn s cd k).filter (vcWaits s k)

/-- ACTIVE contexts. -/
def activeCtxs (s : State) : List Nat := (s.ctxs.filter (fun e => e.2.state == 1)).map (fun e => e.1)

/-- A waits before B in the order of R293: PRIO, then score, highest first, then context ID. -/
def servedBefore (s : State) (cd a b : Nat) : Bool :=
  let pa := prioOf s cd a
  let pb := prioOf s cd b
  if pa ≠ pb then decide (pb < pa)
  else
    let sa := scoreOf s cd a
    let sb := scoreOf s cd b
    if sa ≠ sb then decide (sb < sa) else decide (a ≤ b)

/-- Contexts with a waiting virtual core on `cd`, in the order of R293. -/
def waitingCtxs (s : State) (cd : Nat) : List Nat :=
  sortBy (servedBefore s cd) ((activeCtxs s).filter (fun k => !(waitersOf s cd k).isEmpty))

/-- Waiting virtual cores of a CD in the order of R293. -/
def waitOrder (s : State) (cd : Nat) : List (Nat × Nat) :=
  (waitingCtxs s cd).flatMap (fun k => (waitersOf s cd k).map (fun v => (k, v)))

/-! ### Placement (R294) -/

/-- SUSPECT bit of core `c` (R388). -/
def coreSuspect (s : State) (c : Nat) : Bool :=
  bitAt (rdWord s (fldAddr F.RAS_SUSPECT0_SUSPECT 0 + 4 * (c / 32))).toNat (c % 32)

/-- CCLASS admits core `c` (Table 10.9): 1 the broadcast cores, 2 the others. -/
def classAllows (cclass c : Nat) : Bool :=
  match cclass with
  | 0 => true
  | 1 => decide (c % 16 < 2)
  | _ => decide (2 ≤ c % 16)

/-- A virtual core is placed on core `c`. -/
def coreTaken (s : State) (c : Nat) : Bool := s.vcs.any (fun e => e.2.placed == some c)

/-- Core `c` is free for placement. -/
def coreFree (s : State) (c : Nat) : Bool := coreState s c == 0 && (coreOf s c).bound.isNone && !coreTaken s c

/-- Cores of a CD in the search order of R294. -/
def searchOrder (cd : Nat) : List Nat := ((List.range 14).map (fun i => 16 * cd + i + 2)) ++ [16 * cd, 16 * cd + 1]

/-- Cores that CCLASS and the SUSPECT bits leave to a virtual core. -/
def eligibleCores (s : State) (cd cclass : Nat) : List Nat :=
  (searchOrder cd).filter (fun c => classAllows cclass c && !coreSuspect s c)

/-- Place a virtual core on core `c`. -/
def placeOn (s : State) (k v c : Nat) : State := setVc s k v { vcOf s k v with placed := some c, affSince := none }

/-- The core holds the warm copy of the virtual core's last save (R300). -/
def warmFor (s : State) (k v c : Nat) : Bool :=
  (coreOf s c).warm == some (k, (ctxOf s k).gen, (vcOf s k v).seq)

/-- CCLASS of a virtual core. -/
def cclassOf (s : State) (k v : Nat) : Nat := fieldLE (templateOf s k v).1 12 12

/-- The virtual core waits for the core that holds its warm copy and is bound to another context, or may start to. -/
def affinityHolds (s : State) (k v : Nat) : Bool :=
  let cd := homeCd s k v
  prioOf s cd k == 0 && (schedOf s cd).affWin != 0 &&
    ((eligibleCores s cd (cclassOf s k v)).filter (warmFor s k v)).any (fun c => match (coreOf s c).bound with
      | some b => b.ctx != k
      | none => false)

/-- The core on which a waiting virtual core is placed now; `final`: its affinity window is over. -/
def placeTarget (s : State) (k v : Nat) (final : Bool) : Option Nat :=
  let x := vcOf s k v
  let cd := homeCd s k v
  let l := eligibleCores s cd (cclassOf s k v)
  if !vcWaits s k v then none
  else if final then l.find? (coreFree s)
  else
    match x.affSince with
    | some t =>
      match (l.filter (warmFor s k v)).find? (coreFree s) with
      | some c => some c
      | none => if t + 1000 * (schedOf s cd).affWin ≤ ftNow s then l.find? (coreFree s) else none
    | none => if affinityHolds s k v then none else l.find? (coreFree s)

/-- Place a waiting virtual core, or let its affinity window begin. A core that frees in time counts in AFF_WAIT_CNT. -/
def placeVc (s : State) (k v : Nat) (final : Bool) : State :=
  let x := vcOf s k v
  match placeTarget s k v final with
  | some c =>
    let s' := placeOn s k v c
    if !final && x.affSince.isSome && warmFor s k v c then inc s' F.SCH_CNT2_AFF_WAIT_CNT (homeCd s k v) else s'
  | none =>
    if vcWaits s k v && !final && x.affSince.isNone && affinityHolds s k v then
      setVc s k v { x with affSince := some (ftNow s) }
    else s

/-- No virtual core that is served before `v` of context `k` could be placed now (R293). -/
def placeTurn (s : State) (cd k v : Nat) : Bool :=
  ((waitOrder s cd).takeWhile (fun p => p != (k, v))).all (fun p => (placeTarget s p.1 p.2 false).isNone)

/-- PLACEMENT, when a core has become free or a virtual core waits: in the order of R293. -/
def placement (s : State) (k v : Nat) : State :=
  if placeTurn s (homeCd s k v) k v then placeVc s k v false else s

def execPlacement (k : CtxId) (v : VCoreId) (s : State) : Host.Outcome State Fault Refusal := .next (if restarting s (9 + homeCd s k v) then s else placement s k v)

/-- AFFINITY_WINDOW_EXPIRY: the virtual core takes the first free core at the end of its window. -/
def affinityExpiry (s : State) (k v : Nat) : State :=
  match (vcOf s k v).affSince with
  | some t => if t + 1000 * (schedOf s (homeCd s k v)).affWin ≤ ftNow s then placeVc s k v true else s
  | none => s

def execAffinityWindowExpiry (k : CtxId) (v : VCoreId) (s : State) : Host.Outcome State Fault Refusal :=
  .next (if restarting s (9 + homeCd s k v) then s else affinityExpiry s k v)

/-! ### Accounting (R291, R292) -/

/-- An admitted work item waits for a virtual core homed on `cd`. -/
def workWaits (s : State) (cd k : Nat) : Bool :=
  (homedOn s cd k).any (fun v => let c := vcOf s k v; !c.items.isEmpty || (c.cur.isSome && c.dir != 1))

/-- Contexts eligible for credit on a CD. -/
def eligibleCtxs (s : State) (cd : Nat) : List Nat :=
  (activeCtxs s).filter (fun k => !(homedOn s cd k).isEmpty && (!(residentCores s cd k).isEmpty || workWaits s cd k))

/-- The new credit of one class, in engine-ns: the share rounded down (DESIGN CHOICE, notes/assumptions/18.md), clamped to
100 periods either way. -/
def newCredit (old : Int) (p cap share total used : Nat) : Int :=
  let lim : Int := 100 * (p * 1000 * cap : Nat)
  max (-lim) (min lim (old + (p * 1000 * cap * share / total : Nat) - (used : Nat)))

/-- Update the credits of a CD; what was used in the period is counted afresh. -/
def updateCredits (s : State) (cd : Nat) : State :=
  let x := schedOf s cd
  let l := eligibleCtxs s cd
  let total := (l.map (fun k => shareOf s cd k)).foldl (· + ·) 0
  let credit := l.foldl (fun m k => (List.range 4).foldl (fun m c =>
    let key := 4 * k + c
    sset 0 m key (newCredit (sget 0 m key) x.period (classCap c) (shareOf s cd k) (max 1 total) (sget 0 x.used key))) m) x.credit
  setSched s cd { x with credit := credit, used := [], oldShare := [] }

/-! ### Bank requests (R293, R302, R303) -/

/-- Cores of context `k` on `cd` that hold no bank request, highest local index first. -/
def bankable (s : State) (cd k : Nat) : List Nat :=
  ((residentCores s cd k).filter (fun c => getF s F.CORE_STS_BANK_REQ c == 0 && (coreState s c != 4 || (coreOf s c).item.isNone))).reverse

/-- Step 2 of R293 for one waiting virtual core. -/
def periodRequest (s : State) (cd k : Nat) : State :=
  let low := (residentCtxs s cd).filter (fun j => prioOf s cd j == prioOf s cd k && !(bankable s cd j).isEmpty &&
    decide (scoreOf s cd j + 96000 * (schedOf s cd).margin < scoreOf s cd k))
  match lowestBy (scoreOf s cd) low with
  | some j => match bankable s cd j with
    | c :: _ => requestBankNow s c
    | [] => s
  | none => s

/-- A context that waits is known to be blocked: each virtual core it waits with was saved while it waited (R303). -/
def waiterBlocked (s : State) (cd k : Nat) : Bool := (waitersOf s cd k).all (fun v => (vcOf s k v).blocked)

/-- The SCH fields that software has written take effect (R310). -/
def loadSch (s : State) (cd : Nat) : State :=
  setSched s cd { schedOf s cd with
    period := getF s F.SCH_CFG_PERIOD_US cd
    dwell := getF s F.SCH_CFG_BLOCK_DWELL_US cd
    affWin := getF s F.SCH_TIMES_AFF_WIN_US cd
    cheapWait := getF s F.SCH_TIMES_CHEAP_WAIT_US cd
    margin := getF s F.SCH_MARGIN_MARGIN_US cd
    periodStart := ftNow s }

/-- A period that a restart of the scheduler processor spans is not accounted: no credit changes in it (R440). The next one
begins, with the SHARE and PRIO of the table (R290). -/
def skipPeriod (s : State) (cd : Nat) : State :=
  let s := setSched s cd { schedOf s cd with used := [], oldShare := [] }
  { s with aed := { s.aed with spanned := s.aed.spanned.filter (fun d => d != cd) } }

/-- PERIOD_END of a CD (R292, R293), once its period has passed. -/
def periodEnd (s : State) (cd : Nat) : State :=
  let x := schedOf s cd
  if getF s F.MOD_STS_CORES_REL 0 = 1 ∧ x.periodStart + 1000 * x.period ≤ ftNow s then
    let s := loadSch (if s.aed.spanned.contains cd then skipPeriod s cd else updateCredits s cd) cd
    let s := (waitOrder s cd).foldl (fun s p => placeVc s p.1 p.2 false) s
    (waitOrder s cd).foldl (fun s p =>
      if ctxBlocked s cd p.1 && !(residentCores s cd p.1).isEmpty || waiterBlocked s cd p.1 then s else periodRequest s cd p.1) s
  else s

def execPeriodEnd (cd : CdId) (s : State) : Host.Outcome State Fault Refusal := 
  .next (if restarting s (9 + cd) then s else periodEnd s cd)

/-- One request of R302, for virtual core `v` of HIGH context `k`: the NORMAL context with the lowest score, its core with the
highest local index. The core goes to the virtual core at once where CCLASS and the SUSPECT bits let it. -/
def highRequest (s : State) (cd k v : Nat) : State :=
  let low := (residentCtxs s cd).filter (fun j => prioOf s cd j == 0 && !(bankable s cd j).isEmpty)
  match lowestBy (scoreOf s cd) low with
  | some j => match bankable s cd j with
    | c :: _ =>
      let s := requestBankNow s c
      if classAllows (cclassOf s k v) c && !coreSuspect s c && !coreTaken s c then placeOn s k v c else s
    | [] => s
  | none => s

/-- Waiting virtual cores of HIGH contexts on a CD, in the order of R293. -/
def highWaiters (s : State) (cd : Nat) : List (Nat × Nat) := (waitOrder s cd).filter (fun p => prioOf s cd p.1 == 1)

/-- HIGH_ARRIVAL (R302): virtual cores of HIGH contexts are served on arrival; for each that finds no free eligible core, one
bank request. -/
def highArrival (s : State) (cd : Nat) : State :=
  let s := (highWaiters s cd).foldl (fun s p => placeVc s p.1 p.2 false) s
  (highWaiters s cd).foldl (fun s p => highRequest s cd p.1 p.2) s

def execHighArrival (cd : CdId) (s : State) : Host.Outcome State Fault Refusal := .next (if restarting s (9 + cd) then s else highArrival s cd)

/-- Contexts that R303 lets in: banked, waiting, and not known to be blocked. -/
def dwellWaiters (s : State) (cd : Nat) : List Nat :=
  (waitingCtxs s cd).filter (fun k => (residentCores s cd k).isEmpty && !waiterBlocked s cd k)

/-- The three conditions of R303. -/
def dwellHolds (s : State) (cd : Nat) : Bool :=
  match dwellWaiters s cd with
  | [] => false
  | k :: _ =>
    let v := (waitersOf s cd k).headD 0
    !(residentCtxs s cd).isEmpty && (residentCtxs s cd).all (ctxBlocked s cd) &&
      !(eligibleCores s cd (cclassOf s k v)).any (coreFree s)

/-- Bank one blocked core for virtual core `v`: a wait with YIELD banks cheaply, any other is forced at once. -/
def dwellBank (s : State) (c k v : Nat) : State :=
  let cheap := match (coreOf s c).fetched with
    | some b => b.yld && decide (b.lrm < getF s F.CORE_LRM_CNT_COUNT c)
    | none => false
  let s := if cheap then requestBankNow s c else requestBank s c (ftNow s)
  let s := inc s F.SCH_CNT1_BLOCKED_BANK_CNT (cdOf c)
  if classAllows (cclassOf s k v) c && !coreSuspect s c then placeOn s k v c else s

/-- BLOCK_DWELL_EXPIRY (R303). -/
def blockDwellExpiry (s : State) (cd : Nat) : State :=
  match (schedOf s cd).dwellSince, dwellWaiters s cd with
  | some t, k :: _ =>
    if dwellHolds s cd ∧ t + 1000 * (schedOf s cd).dwell ≤ ftNow s then
      let s := setSched s cd { schedOf s cd with dwellSince := none }
      match lowestBy (scoreOf s cd) (sortBy (fun a b => decide (a ≤ b)) (residentCtxs s cd)) with
      | some j => ((bankable s cd j).zip (waitersOf s cd k)).foldl (fun s p => dwellBank s p.1 k p.2) s
      | none => s
    else s
  | _, _ => s

def execBlockDwellExpiry (cd : CdId) (s : State) : Host.Outcome State Fault Refusal := .next (if restarting s (9 + cd) then s else blockDwellExpiry s cd)

/-! ### A stop reaches the context (R285) -/

/-- Stop core `c` without a save: it has no cause of its own unless it stopped or was suspended before. -/
def quietCore (s : State) (c : Nat) : State :=
  let st := coreState s c
  let s := if st = 4 ∨ st = 5 then s else
    [F.CORE_STOP_CODE, F.CORE_STOP_MULTI, F.CORE_STOP_SWCODE, F.CORE_STOP_PC_LO_PC_LO, F.CORE_STOP_PC_HI_PC_HI].foldl
      (fun s f => setF s f c 0) s
  let s := answerRequest (setF s F.CORE_STS_STATE c 4) c
  modCore s c (fun k => { k with fetched := none, halting := false, skip := false, reports := [], item := none })

/-- Cores of context `k`, on every CD. -/
def ctxCores (s : State) (k : Nat) : List Nat := (List.range 8).flatMap (fun cd => residentCores s cd k)

/-- Compute queues of context `k`. -/
def computeQueues (s : State) (k : Nat) : List Nat :=
  (s.queues.filter (fun e => e.2.state != 0 && e.2.state != 3 && qClass e.2.desc == 0 && qCtx e.2.desc == k)).map (fun e => e.1)

/-- Fetched entries that are not admitted go back to the ring: HEAD returns to the first of them
(DESIGN CHOICE, notes/assumptions/19.md). -/
def unfetch (s : State) (q : Nat) : State :=
  let x := queueOf s q
  let back := x.order.filter (fun i => match sget none x.entries i with | some e => decide (e.stage < 3) | none => false)
  match back with
  | [] => s
  | i :: _ =>
    let ph := match sget none x.entries i with | some e => e.phase | none => x.phase
    let s := back.foldl (fun s j => disarm s iodDie (.notBefore q j)) s
    putQueue s q { x with
      entries := back.foldl (fun m j => sset none m j none) x.entries
      order := x.order.filter (fun j => !back.contains j)
      head := i
      phase := ph }

/-- Queue `q` becomes HALTED. -/
def haltQueue (s : State) (q : Nat) : State :=
  let s := unfetch s q
  putQueue s q { queueOf s q with state := 2 }

/-- DETAIL of STOPPED for core `c` (Table 10.7). -/
def stopDetail (s : State) (c : Nat) : Nat :=
  let pc := getF s F.CORE_STOP_PC_LO_PC_LO c + getF s F.CORE_STOP_PC_HI_PC_HI c * 2 ^ 32
  getF s F.CORE_STOP_CODE c + c * 2 ^ 8 + getF s F.CORE_STOP_MULTI c * 2 ^ 15 + getF s F.CORE_STOP_SWCODE c * 2 ^ 16 +
    bitsOf pc 34 3 * 2 ^ 32

/-- The virtual cores of context `k` start nothing further. -/
def dropWork (s : State) (k : Nat) : State :=
  (List.range 128).foldl (fun s v => setVc s k v { vcOf s k v with items := [], cur := none, placed := none, affSince := none }) s

/-- Every admitted entry of a queue: (queue, entry). -/
def admittedOf (s : State) (q : Nat) : List (Nat × Nat) :=
  ((queueOf s q).order.filter (fun i => match entryOf s q i with | some e => decide (3 ≤ e.stage) | none => false)).map
    (fun i => (q, i))

/-- STOP_PROPAGATION (R285). -/
def stopPropagation (s : State) (k : Nat) : State :=
  let x := ctxOf s k
  match x.stops with
  | [] => s
  | c0 :: _ =>
    let own := x.stops.filterMap (fun c => (coreOf s c).item.map (fun p => (p, stopDetail s c)))
    let qs := computeQueues s k
    let s := setCtx s k { x with stops := [] }
    let s := (ctxCores s k).foldl quietCore s
    let s := dropWork s k
    let s := qs.foldl haltQueue s
    let l := qs.flatMap (admittedOf s)
    l.foldl (fun s p =>
      match own.find? (fun o => o.1 == p) with
      | some o => finishEntry s p.1 p.2 2 o.2
      | none => finishEntry s p.1 p.2 3 c0) s

def execStopPropagation (k : CtxId) (s : State) : Host.Outcome State Fault Refusal := .next (stopPropagation s k)

end Sys2Proof.Machine
end

