-- ==== Sys2Proof/Machine/Coll.lean ====
section
/-! DEFINITION. Machine/Coll.lean: groups, the messages of the collective engine, and how a sequenced command moves data and
ends (R344 to R354, R357, R358). -/

namespace Sys2Proof.Machine

/-! ### Group entries (Table 12.1) -/

def gN (g : List Byte) : Nat := fieldLE g 0 1
def gRank (g : List Byte) : Nat := fieldLE g 2 3
def gRadix (g : List Byte) : Nat := fieldLE g 4 4
def gFepoch (g : List Byte) : Nat := fieldLE g 6 7
def gCtx (g : List Byte) : Nat := fieldLE g 8 9 % 4096
def gHorizon (g : List Byte) : Nat := fieldLE g 12 15
def gMemb (g : List Byte) : Nat := fieldLE g 16 23
def gTokDpa (g : List Byte) : Nat := fieldLE g 24 31
def gTokLog (g : List Byte) : Nat := fieldLE g 32 32
def gClaimUs (g : List Byte) : Nat := fieldLE g 36 39
def gNextSeq (g : List Byte) : Nat := fieldLE g 40 41
def gState (g : List Byte) : Nat := fieldLE g 42 42

/-- DPA of group entry `gr`. -/
def groupAddr (s : State) (gr : Nat) : Nat := getPair s F.COL_GRP_BASE_LO_BASE_LO F.COL_GRP_BASE_HI_BASE_HI 0 + 64 * gr

def groupOf (s : State) (gr : Nat) : GroupSt := sget GroupSt.reset s.col.groups gr

def setGroup (s : State) (gr : Nat) (x : GroupSt) : State :=
  { s with col := { s.col with groups := sset GroupSt.reset s.col.groups gr x } }

/-- The group entry as it stands in device memory. -/
def readGroup (s : State) (gr : Nat) : List Byte × Bool × State := devRead s (groupAddr s gr) 64

/-- Write the module fields NEXTSEQ and GSTATE. -/
def putGroup (s : State) (gr seq st : Nat) : State := devWrite s (groupAddr s gr + 40) (leBytes 2 seq ++ leBytes 1 st)

/-- Module ID of a member, and whether the list entry was read poisoned. -/
def memberId (s : State) (g : List Byte) (rank : Nat) : Nat × Bool × State :=
  let (b, p, s) := devRead s (gMemb g + 2 * rank) 2
  (leNat b, p, s)

/-! ### Command bodies (Table 12.2) -/

def cSeqOf (e : List Byte) : Nat := fieldLE e 18 19
def cGroup (op : Nat) (e : List Byte) : Nat := (if op = 0x11 then fieldLE e 48 49 else fieldLE e 16 17) % 4096
def cDt (e : List Byte) : Nat := fieldLE e 20 20
def cRed (e : List Byte) : Nat := fieldLE e 21 21
def cAlg (e : List Byte) : Nat := fieldLE e 22 22
def cSrc (e : List Byte) : Nat := fieldLE e 24 31
def cDst (e : List Byte) : Nat := fieldLE e 32 39
def cCount (e : List Byte) : Nat := fieldLE e 40 47
def cRoot (e : List Byte) : Nat := fieldLE e 48 49

/-- Bytes of an element. -/
def dtSize (dt : Nat) : Nat := match dt with | 0 => 4 | 1 => 2 | _ => 1

/-- Bytes of a command's whole buffer. -/
def cTotal (e : List Byte) : Nat := cCount e * dtSize (cDt e)

/-- The sequenced opcodes. -/
def isSequenced (op : Nat) : Bool := decide (1 ≤ op ∧ op ≤ 6) || op == 9 || op == 0x10

/-- The command moves its data along a ring. -/
def isRing (op : Nat) (e : List Byte) : Bool := op == 2 || op == 3 || (op == 1 && cAlg e == 1)

/-- The refusals of R345. -/
def groupBad (s : State) (ctx op : Nat) (e g : List Byte) (poisoned : Bool) : Bool × State :=
  let reserved := (g.getD 5 0 != 0) || bitsOf (fieldLE g 8 9) 15 12 != 0 || fieldLE g 10 11 != 0 || fieldLE g 33 35 != 0 ||
    (g.drop 43).any (fun b => b != 0)
  if poisoned || reserved || decide (gN g ≤ gRank g) || gCtx g != ctx || decide (gRadix g < 2 ∨ 16 < gRadix g) ||
      (op == 4 && decide (gN g ≤ cRoot e)) then (true, s)
  else
    let (id, p, s) := memberId s g (gRank g)
    (p || id != getF s F.RTE_MODID_MOD_ID 0, s)

/-! ### Trees and rings (R346) -/

/-- Root of a command's tree. -/
def treeRoot (c : CollCmd) : Nat := if entOp c.ent = 4 then cRoot c.ent else 0

/-- Relative rank of this member. -/
def relRank (c : CollCmd) : Nat := (gRank c.grp + gN c.grp - treeRoot c % gN c.grp) % gN c.grp

def absRank (c : CollCmd) (r : Nat) : Nat := (r + treeRoot c) % gN c.grp

/-- Parent in the tree. -/
def treeParent (c : CollCmd) : Option Nat :=
  if relRank c = 0 then none else some (absRank c ((relRank c - 1) / gRadix c.grp))

/-- Children in the tree, in increasing relative rank. -/
def treeChildren (c : CollCmd) : List Nat :=
  ((List.range (gRadix c.grp)).map (fun j => gRadix c.grp * relRank c + 1 + j)).filter (fun r => decide (r < gN c.grp))
    |>.map (absRank c)

/-- Tree neighbours. -/
def treePeers (c : CollCmd) : List Nat := (match treeParent c with | some p => [p] | none => []) ++ treeChildren c

def ringNext (c : CollCmd) : Nat := (gRank c.grp + 1) % gN c.grp
def ringPrev (c : CollCmd) : Nat := (gRank c.grp + gN c.grp - 1) % gN c.grp

/-- Read the module IDs of partners: those read, and whether one was poisoned. -/
def readPartners (g : List Byte) : List Nat → State → List (Nat × Nat) × Bool × State
  | [], s => ([], false, s)
  | r :: t, s =>
    let (id, p, s) := memberId s g r
    let (l, q, s) := readPartners g t s
    (if p then l else (r, id) :: l, p || q, s)

/-- Ranks with which a command exchanges messages. -/
def commandPartners (c : CollCmd) : List Nat :=
  if entOp c.ent = 6 then []
  else if isRing (entOp c.ent) c.ent then ([ringPrev c, ringNext c].filter (fun r => r != gRank c.grp)).eraseDups
  else treePeers c

/-! ### Move lists (R357, R358) -/

/-- A move of SHARD_PERMUTE. -/
structure Move where
  src : Nat
  dst : Nat
  from_ : Nat
  dest : Nat
  len : Nat
  deriving DecidableEq, Repr

/-- The moves of a list, `n` of them. -/
def movesOf : Nat → List Byte → List Move
  | 0, _ => []
  | n + 1, b => ⟨fieldLE b 0 1, fieldLE b 2 3, fieldLE b 8 15, fieldLE b 16 23, fieldLE b 24 31⟩ :: movesOf n (b.drop 32)

def cMoves (c : CollCmd) (r : GroupRun) : List Move := movesOf (fieldLE c.ent 40 43) r.moves

/-- Reserved bytes of a move list are zero. -/
def movesReserved : Nat → List Byte → Bool
  | 0, _ => true
  | n + 1, b => fieldLE b 4 7 == 0 && movesReserved n (b.drop 32)

/-- Intervals (start, end) sorted and merged. -/
def mergeIv : List (Nat × Nat) → List (Nat × Nat)
  | [] => []
  | [a] => [a]
  | a :: b :: t =>
    match mergeIv (b :: t) with
    | [] => [a]
    | c :: r => if c.1 ≤ a.2 then (a.1, max a.2 c.2) :: r else a :: c :: r

def normIv (l : List (Nat × Nat)) : List (Nat × Nat) :=
  mergeIv (sortBy (fun a b => decide (a.1 < b.1 ∨ (a.1 = b.1 ∧ a.2 ≤ b.2))) (l.filter (fun i => decide (i.1 < i.2))))

/-- Common bytes of two sets of intervals. -/
def interIv (a b : List (Nat × Nat)) : List (Nat × Nat) :=
  normIv (a.flatMap (fun x => b.map (fun y => (max x.1 y.1, min x.2 y.2))))

/-- The overlap of member `m` (R358). -/
def collOverlap (l : List Move) (m : Nat) : List (Nat × Nat) :=
  interIv (normIv ((l.filter (fun x => x.src == m)).map (fun x => (x.from_, x.from_ + x.len))))
    (normIv ((l.filter (fun x => x.dst == m)).map (fun x => (x.dest, x.dest + x.len))))

def ivSize (l : List (Nat × Nat)) : Nat := (l.map (fun i => i.2 - i.1)).foldl (· + ·) 0

/-- Two destination ranges of one member overlap. -/
def dstClash : List Move → Bool
  | [] => false
  | m :: t => t.any (fun n => n.dst == m.dst && decide (m.dest < n.dest + n.len ∧ n.dest < m.dest + m.len)) || dstClash t

/-- Status and DETAIL of a list that every member refuses (R358). -/
def listRefusal (n stg64 : Nat) (reserved : Bool) (l : List Move) : Option (Nat × Nat) :=
  if reserved || l.any (fun m => decide (n ≤ m.src ∨ n ≤ m.dst ∨ m.len = 0 ∨ 2 ^ 40 < m.len)) || dstClash l then some (6, 24)
  else
    match (List.range n).find? (fun r => decide (65536 * stg64 < ivSize (collOverlap l r))) with
    | some r => some (0x59, r + cdiv (ivSize (collOverlap l r)) 65536 * 65536)
    | none => none

/-- Place of byte `va` in the staging area, which holds the overlap bytes in the order of their addresses
(DESIGN CHOICE, notes/assumptions/20.md). -/
def collStaged : List (Nat × Nat) → Nat → Option Nat
  | [], _ => none
  | i :: t, va =>
    if i.1 ≤ va ∧ va < i.2 then some (va - i.1) else (collStaged t va).map (fun o => o + (i.2 - i.1))

/-- Cut `n` bytes at `va` where they pass in or out of the overlap: (address read, bytes). -/
def stagedRuns (ov : List (Nat × Nat)) (stg : Nat) : Nat → Nat → Nat → List (Nat × Nat)
  | 0, _, _ => []
  | f + 1, va, n =>
    if n = 0 then []
    else
      let stop := ((ov.flatMap (fun i => [i.1, i.2])).filter (fun x => decide (va < x))).foldl min (va + n)
      let m := stop - va
      ((match collStaged ov va with | some o => stg + o | none => va), m) :: stagedRuns ov stg f (va + m) (n - m)

/-- Exclusive-or of the list's words, each rotated left by its index modulo 64 (R349). -/
def listDigest (b : List Byte) : Word64 :=
  ((List.range (b.length / 8)).map (fun i => (BitVec.ofNat 64 (fieldLE b (8 * i) (8 * i + 7))).rotateLeft (i % 64))).foldl
    (· ^^^ ·) 0

/-- Bytes from member `a` to member `b` in a list: the moves between them in list order. -/
def channelMoves (l : List Move) (a b : Nat) : List Move := l.filter (fun m => m.src == a && m.dst == b)

def channelBytes (l : List Move) (a b : Nat) : Nat := ((channelMoves l a b).map (fun m => m.len)).foldl (· + ·) 0

/-- The move that byte `pos` of a channel belongs to, with the byte's place in it. -/
def moveAt : List Move → Nat → Option (Move × Nat)
  | [], _ => none
  | m :: t, pos => if pos < m.len then some (m, pos) else moveAt t (pos - m.len)

/-! ### Messages (R350) -/

/-- A packet of the engine. -/
def collPacket (s : State) (c : CollCmd) (dst msg off hi token : Nat) (body : List Byte) : Packet :=
  { vl := if msg = 0 then 0 else 2
    dst := BitVec.ofNat 16 dst
    src := BitVec.ofNat 16 (getF s F.RTE_MODID_MOD_ID 0)
    ctxgen := ctxgenOf c.ctx c.gen
    fepoch := BitVec.ofNat 16 (gFepoch c.grp)
    op := 0x05
    hops := 0
    addr := BitVec.ofNat 64 (off % 2 ^ 44 + msg % 16 * 2 ^ 44 + hi % 2 ^ 16 * 2 ^ 48)
    token := BitVec.ofNat 32 token
    body := body }

/-- Send group traffic of command `c`, whose partners are `ps`, to rank `rank`, algorithm step `step`. -/
def sendTo (s : State) (c : CollCmd) (ps : List (Nat × Nat)) (rank msg off step : Nat) (body : List Byte) : State :=
  match ps.find? (fun p => p.1 == rank) with
  | some p =>
    originate s (collPacket s c p.2 msg off (cSeqOf c.ent) (cGroup (entOp c.ent) c.ent + step % 2 ^ 16 * 2 ^ 16) body)
  | none => s

/-- The same of the running command. -/
def sendGroup (s : State) (r : GroupRun) (rank msg off step : Nat) (body : List Byte) : State :=
  sendTo s r.cmd r.partners rank msg off step body

/-- Message code, offset and upper field of a packet. -/
def pMsg (p : Packet) : Nat := bitsOf p.addr.toNat 47 44
def pOff (p : Packet) : Nat := bitsOf p.addr.toNat 43 0
def pHi (p : Packet) : Nat := bitsOf p.addr.toNat 63 48
def pGroup (p : Packet) : Nat := p.token.toNat % 4096
def pStep (p : Packet) : Nat := bitsOf p.token.toNat 31 16

/-- Bytes of the first window. -/
def firstWindow (s : State) : Nat := 65536 * getF s F.COL_CFG_WIN 0

/-- What a READY says of its command (R349); the layout is a DESIGN CHOICE, notes/assumptions/20.md. -/
def readyBody (r : GroupRun) : List Byte :=
  let e := r.cmd.ent
  if entOp e = 6 then leBytes 4 6 ++ leBytes 8 (fieldLE e 40 47) ++ leBytes 4 0 ++ leBytes 8 (listDigest r.moves).toNat
  else if entOp e ≤ 4 then leBytes 1 (entOp e) ++ (e.drop 20).take 3 ++ leBytes 4 0 ++ leBytes 8 (cCount e)
  else leBytes 16 (entOp e)

/-- Grant `rank` the window that ends at `stop`. -/
def sendReady (s : State) (r : GroupRun) (rank stop : Nat) : State := sendGroup s r rank 1 stop 0 (readyBody r)

/-! ### Combining (R352) -/

/-- FP32 to BF16, to nearest even. -/
def toBf16 (w : Word32) : Nat :=
  let sign := w.toNat / 2 ^ 31 * 2 ^ 15
  if isNaN32 w then sign + 0x7F80 + nanFrac w 7
  else
    match f32 w with
    | .fin _ m e => sign + min 0x7F80 (roundMag .nearest 7 127 m e)
    | _ => sign + 0x7F80

/-- One combination in FP32. -/
def combine32 (red : Nat) (a b : Word32) : Word32 :=
  match red with
  | 0 => fadd a b
  | 1 => fmax a b
  | _ => fmin a b

/-- Combine two buffers element by element, `a` the first operand. -/
def combineBytes (dt red : Nat) (a b : List Byte) : List Byte :=
  let n := dtSize dt
  (List.range (min a.length b.length / n)).flatMap (fun i =>
    let x := fieldLE a (n * i) (n * i + n - 1)
    let y := fieldLE b (n * i) (n * i + n - 1)
    match dt with
    | 0 => leBytes 4 (combine32 red (BitVec.ofNat 32 x) (BitVec.ofNat 32 y)).toNat
    | 1 => leBytes 2 (toBf16 (combine32 red (BitVec.ofNat 32 (x * 65536)) (BitVec.ofNat 32 (y * 65536))))
    | _ => leBytes n x)

/-- A gate value as it travels (the layout is a DESIGN CHOICE, notes/assumptions/20.md). -/
def gateBytes (v : GateVal) : List Byte :=
  leBytes 4 v.ssq.toNat ++ leBytes 4 v.nf ++ leBytes 4 v.n ++ leBytes 4 ((if v.pz then 1 else 0) + (if v.mis then 2 else 0))

def gateOf (b : List Byte) : GateVal :=
  ⟨BitVec.ofNat 32 (fieldLE b 0 3), fieldLE b 4 7, fieldLE b 8 11, bitAt (fieldLE b 12 15) 0, bitAt (fieldLE b 12 15) 1⟩

/-- Combination of gate values across modules (R353). -/
def gateAdd (a b : GateVal) : GateVal :=
  ⟨fadd a.ssq b.ssq, min (2 ^ 32 - 1) (a.nf + b.nf), min (2 ^ 32 - 1) (a.n + b.n), a.pz || b.pz, a.mis || b.mis⟩

/-- Combine pieces of a command. -/
def combineFor (c : CollCmd) (a b : List Byte) : List Byte :=
  match entOp c.ent with
  | 0x10 => gateBytes (gateAdd (gateOf a) (gateOf b))
  | 5 => []
  | _ => combineBytes (cDt c.ent) (cRed c.ent) a b

/-! ### The running command -/

/-- Change the running command of a group. -/
def modRun (s : State) (gr : Nat) (f : GroupRun → GroupRun) : State :=
  let x := groupOf s gr
  setGroup s gr { x with run := x.run.map f }

/-- A local buffer faults: the command is suspended and its fault record raised (R264). -/
def collFault (s : State) (gr : Nat) (r : GroupRun) (f : XFault) (acc : Access) : State :=
  raiseFault (modRun s gr (fun r => { r with susp := true })) r.cmd.ctx 1 0xFFFF f acc (.coll r.cmd.q r.cmd.i)

/-- Read a local buffer; a fault suspends the command. -/
def bufRead (s : State) (gr : Nat) (r : GroupRun) (va n : Nat) : Option (List Byte) × State :=
  match dvaRead s iodDie r.cmd.ctx va n .normal with
  | (.ok (b, _), s) => (some b, s)
  | (.error f, s) => (none, collFault s gr r f .read)

/-- Write a local buffer; a fault suspends the command. -/
def bufWrite (s : State) (gr : Nat) (r : GroupRun) (va : Nat) (b : List Byte) : Bool × State :=
  match dvaWrite s iodDie r.cmd.ctx va b false .normal with
  | (.ok _, s) => (true, s)
  | (.error f, s) => (false, collFault s gr r f .write)

/-- Read runs of bytes one after another. -/
def bufReadRuns (s : State) (gr : Nat) (r : GroupRun) : List (Nat × Nat) → Option (List Byte) × State
  | [] => (some [], s)
  | (va, n) :: t =>
    match bufRead s gr r va n with
    | (some b, s) =>
      match bufReadRuns s gr r t with
      | (some c, s) => (some (b ++ c), s)
      | x => x
    | x => x

/-- The piece from `src` for step `step` at offset `off`. -/
def pieceOf (r : GroupRun) (src step off : Nat) : Option (List Byte) :=
  (r.rx.find? (fun p => p.src == src && p.step == step && p.off == off)).map (fun p => p.data)

def dropPiece (r : GroupRun) (src step off : Nat) : GroupRun :=
  { r with rx := r.rx.filter (fun p => !(p.src == src && p.step == step && p.off == off)) }

/-- Bytes from `src` have been written: the window moves on, and a READY goes with each whole 64 KiB, and with the end of
a stream of `total` bytes (R349). -/
def creditFrom (s : State) (gr src n total : Nat) : State :=
  match (groupOf s gr).run with
  | none => s
  | some r =>
    let was := sget 0 r.recv src
    let now := was + n
    let s := modRun s gr (fun r => { r with recv := sset 0 r.recv src now })
    if now = total then sendReady s r src (now + firstWindow s)
    else if was / 65536 < now / 65536 then sendReady s r src (now / 65536 * 65536 + firstWindow s)
    else s

/-- Length of the piece at offset `off` of a buffer whose part ends at `stop`. -/
def pieceLen (off stop : Nat) : Nat := min (4096 - off % 4096) (stop - off)

/-- A piece may go to `rank` now. -/
def windowOpen (r : GroupRun) (rank pos n : Nat) : Bool := decide (pos + n ≤ sget 0 r.grant rank)

def addSent (s : State) (gr rank n : Nat) : State :=
  modRun s gr (fun r => { r with sent := sset 0 r.sent rank (sget 0 r.sent rank + n) })

/-! ### Trees (R353, Table 12.4) -/

/-- The command passes one indivisible value instead of a buffer. -/
def isUnit (op : Nat) : Bool := op == 5 || op == 0x10

/-- Values go up the tree before they come down. -/
def goesUp (op : Nat) : Bool := op == 1 || isUnit op

/-- Positions of the tree's stream. -/
def treeTotal (c : CollCmd) : Nat := if isUnit (entOp c.ent) then 1 else cTotal c.ent

def treePiece (c : CollCmd) (pos : Nat) : Nat := if isUnit (entOp c.ent) then 1 else pieceLen pos (treeTotal c)

/-- This member's own value at `pos`: none while it is not known or its page faults. -/
def treeOwn (s : State) (gr : Nat) (r : GroupRun) (pos : Nat) : Option (List Byte) × State :=
  match entOp r.cmd.ent with
  | 5 => (some [], s)
  | 0x10 =>
    match r.lval with
    | some v => if cSrc r.cmd.ent ≤ ftNow s then (some (gateBytes v), s) else (none, s)
    | none => (none, s)
  | _ => bufRead s gr r (cSrc r.cmd.ent + pos) (treePiece r.cmd pos)

/-- Own value and each child's result in increasing relative rank. -/
def treeFold (s : State) (gr : Nat) (r : GroupRun) (pos : Nat) : Option (List Byte) × State :=
  let kids := treeChildren r.cmd
  if !goesUp (entOp r.cmd.ent) then treeOwn s gr r pos
  else if kids.all (fun c => (pieceOf r c 0 pos).isSome) then
    match treeOwn s gr r pos with
    | (some v, s) => (some (kids.foldl (fun v c => combineFor r.cmd v ((pieceOf r c 0 pos).getD [])) v), s)
    | x => x
  else (none, s)

/-- The children's pieces at `pos` are used up. -/
def treeUsed (s : State) (gr pos : Nat) : State :=
  match (groupOf s gr).run with
  | none => s
  | some r =>
    if !goesUp (entOp r.cmd.ent) then s
    else
      let s := modRun s gr (fun r => (treeChildren r.cmd).foldl (fun r c => dropPiece r c 0 pos) r)
      (treeChildren r.cmd).foldl (fun s c => creditFrom s gr c (treePiece r.cmd pos) (treeTotal r.cmd)) s

/-- Send the next piece to the parent. -/
def treeUp (s : State) (gr : Nat) (r : GroupRun) : Option State :=
  match treeParent r.cmd with
  | none => none
  | some p =>
    let pos := sget 0 r.sent p
    if !goesUp (entOp r.cmd.ent) || decide (treeTotal r.cmd ≤ pos) || !windowOpen r p pos (treePiece r.cmd pos) then none
    else
      match treeFold s gr r pos with
      | (some v, s) => some (treeUsed (addSent (sendGroup s r p 0 pos 0 v) gr p (treePiece r.cmd pos)) gr pos)
      | (none, s') => if s' = s then none else some s'

/-- Form or take the next piece of the result and write it. -/
def treeResult (s : State) (gr : Nat) (r : GroupRun) : Option State :=
  let pos := r.pos
  let n := treePiece r.cmd pos
  if treeTotal r.cmd ≤ pos then none
  else
    let (v, s') := match treeParent r.cmd with
      | none => treeFold s gr r pos
      | some p => (pieceOf r p 1 pos, s)
    match v with
    | none => if s' = s then none else some s'
    | some v =>
      let (ok, s') := if isUnit (entOp r.cmd.ent) then (true, s') else bufWrite s' gr r (cDst r.cmd.ent + pos) v
      if !ok then some s'
      else
        let s' := modRun s' gr (fun r => { r with pos := pos + n, gval := v })
        match treeParent r.cmd with
        | none => some (treeUsed s' gr pos)
        | some p => some (creditFrom (modRun s' gr (fun r => dropPiece r p 1 pos)) gr p n (treeTotal r.cmd))

/-- Send the next piece of the result to child `c`. -/
def treeDown (s : State) (gr : Nat) (r : GroupRun) (c : Nat) : Option State :=
  let pos := sget 0 r.sent c
  if r.pos ≤ pos || !windowOpen r c pos (treePiece r.cmd pos) then none
  else
    let (v, s') := if isUnit (entOp r.cmd.ent) then (some r.gval, s)
      else bufRead s gr r (cDst r.cmd.ent + pos) (treePiece r.cmd pos)
    match v with
    | some v => some (addSent (sendGroup s' r c 0 pos 1 v) gr c (treePiece r.cmd pos))
    | none => some s'

/-- The first of several actions that is possible. -/
def firstAct : List (Unit → Option State) → Option State
  | [] => none
  | f :: t => match f () with | some s => some s | none => firstAct t

/-- One action of a tree command. -/
def treeAct (s : State) (gr : Nat) (r : GroupRun) : Option State :=
  firstAct ([fun _ => treeUp s gr r, fun _ => treeResult s gr r] ++ (treeChildren r.cmd).map (fun c _ => treeDown s gr r c))

/-- The tree command has nothing more to do on this member. -/
def treeDone (r : GroupRun) : Bool :=
  let t := treeTotal r.cmd
  decide (t ≤ r.pos) && (treeChildren r.cmd).all (fun c => decide (t ≤ sget 0 r.sent c)) &&
    (match treeParent r.cmd with | some p => !goesUp (entOp r.cmd.ent) || decide (t ≤ sget 0 r.sent p) | none => true)

/-! ### Rings -/

/-- Steps that reduce, and steps that distribute. -/
def ringReduces (c : CollCmd) : Nat := if entOp c.ent = 3 then 0 else gN c.grp - 1
def ringGathers (c : CollCmd) : Nat := if entOp c.ent = 2 then 0 else gN c.grp - 1

/-- Bytes of a chunk. -/
def ringChunk (c : CollCmd) : Nat := cTotal c.ent / gN c.grp

/-- Bytes that pass a member in each direction. -/
def ringTotal (c : CollCmd) : Nat := (ringReduces c + ringGathers c) * ringChunk c

/-- Chunk that rank `rank` sends at step `t`. -/
def ringSends (c : CollCmd) (rank t : Nat) : Nat :=
  let n := gN c.grp
  if t < ringReduces c then (rank + 2 * n - 1 - t) % n else (rank + n - (t - ringReduces c)) % n

/-- Step, offset in the buffer and length of the piece at position `pos` of the stream that rank `rank` sends. -/
def ringPiece (c : CollCmd) (rank pos : Nat) : Nat × Nat × Nat :=
  let ch := max 1 (ringChunk c)
  let t := pos / ch
  let base := ringSends c rank t * ch
  (t, base + pos % ch, pieceLen (base + pos % ch) (base + ch))

/-- DVA in DST of offset `off` of the whole buffer. -/
def ringDst (c : CollCmd) (off : Nat) : Nat :=
  if entOp c.ent = 2 then cDst c.ent + (off - gRank c.grp * ringChunk c) else cDst c.ent + off

/-- DVA in SRC of offset `off` of the whole buffer. -/
def ringSrc (c : CollCmd) (off : Nat) : Nat :=
  if entOp c.ent = 3 then cSrc c.ent + (off - gRank c.grp * ringChunk c) else cSrc c.ent + off

/-- Take the next piece from the predecessor. -/
def ringTake (s : State) (gr : Nat) (r : GroupRun) : Option State :=
  let c := r.cmd
  let prev := ringPrev c
  if ringTotal c ≤ r.pos then none
  else
    let (t, off, n) := ringPiece c prev r.pos
    match pieceOf r prev t off with
    | none => none
    | some d =>
      let reduces := t < ringReduces c
      let last := t + 1 = ringReduces c + ringGathers c
      let final := !decide reduces || t + 1 = ringReduces c
      let (v, s') := if reduces then
          match bufRead s gr r (ringSrc c off) n with
          | (some own, s) => (some (combineFor c d own), s)
          | x => x
        else (some d, s)
      match v with
      | none => some s'
      | some v =>
        let (ok, s') := if final then bufWrite s' gr r (ringDst c off) v else (true, s')
        if !ok then some s'
        else
          let s' := modRun s' gr (fun r => { dropPiece r prev t off with
            pos := r.pos + n
            acc := if last then r.acc else r.acc ++ [⟨prev, t + 1, off, v⟩] })
          some (creditFrom s' gr prev n (ringTotal c))

/-- Send the next piece to the successor. -/
def ringGive (s : State) (gr : Nat) (r : GroupRun) : Option State :=
  let c := r.cmd
  let next := ringNext c
  let pos := sget 0 r.sent next
  if ringTotal c ≤ pos then none
  else
    let (t, off, n) := ringPiece c (gRank c.grp) pos
    if !windowOpen r next pos n then none
    else if t = 0 then
      match bufRead s gr r (ringSrc c off) n with
      | (some v, s) => some (addSent (sendGroup s r next 0 off t v) gr next n)
      | (none, s) => some s
    else
      match r.acc.find? (fun p => p.step == t && p.off == off) with
      | some p => some (addSent (sendGroup (modRun s gr (fun r => { r with acc := r.acc.erase p })) r next 0 off t p.data) gr next n)
      | none => none

/-- Bytes that a member copies from its own SRC: its chunk of an ALLGATHER, everything when it is alone. -/
def ringSelf (c : CollCmd) : Nat := if entOp c.ent = 3 then ringChunk c else if gN c.grp = 1 then cTotal c.ent else 0

/-- Copy the next own piece. -/
def ringCopy (s : State) (gr : Nat) (r : GroupRun) : Option State :=
  let c := r.cmd
  if ringSelf c ≤ r.self then none
  else
    let off := gRank c.grp * ringChunk c + r.self
    let n := pieceLen off (gRank c.grp * ringChunk c + ringSelf c)
    match bufRead s gr r (ringSrc c off) n with
    | (some v, s) =>
      match bufWrite s gr r (ringDst c off) v with
      | (true, s) => some (modRun s gr (fun r => { r with self := r.self + n }))
      | (false, s) => some s
    | (none, s) => some s

def ringAct (s : State) (gr : Nat) (r : GroupRun) : Option State :=
  firstAct [fun _ => ringTake s gr r, fun _ => ringGive s gr r, fun _ => ringCopy s gr r]

def ringDone (r : GroupRun) : Bool :=
  decide (ringTotal r.cmd ≤ r.pos) && decide (ringTotal r.cmd ≤ sget 0 r.sent (ringNext r.cmd)) && decide (ringSelf r.cmd ≤ r.self)

/-! ### SHARD_PERMUTE (R358) -/

def permRank (r : GroupRun) : Nat := gRank r.cmd.grp

/-- Phase S: copy the next overlap bytes to staging. -/
def permStage (s : State) (gr : Nat) (r : GroupRun) : Option State :=
  let ov := collOverlap (cMoves r.cmd r) (permRank r)
  if ivSize ov ≤ r.stg then none
  else
    match ov.foldl (fun (x : Nat × Option (Nat × Nat)) i =>
        if x.2.isSome then x
        else if x.1 < i.2 - i.1 then (0, some (i.1 + x.1, i.2)) else (x.1 - (i.2 - i.1), none)) (r.stg, none) with
    | (_, some (va, stop)) =>
      let n := pieceLen va stop
      match bufRead s gr r va n with
      | (some b, s) =>
        match bufWrite s gr r (cDst r.cmd.ent + r.stg) b with
        | (true, s) => some (modRun s gr (fun r => { r with stg := r.stg + n }))
        | (false, s) => some s
      | (none, s) => some s
    | (_, none) => none

/-- Phase S has ended: READY to each sending partner. -/
def permReady (s : State) (gr : Nat) (r : GroupRun) : Option State :=
  if r.began then none
  else
    let l := cMoves r.cmd r
    let s := modRun s gr (fun r => { r with began := true })
    some (r.partners.foldl (fun s p => if channelBytes l p.1 (permRank r) = 0 then s else sendReady s r p.1 (firstWindow s)) s)

/-- Read `n` bytes of a move at `o`, overlap bytes from staging. -/
def permRead (s : State) (gr : Nat) (r : GroupRun) (m : Move) (o n : Nat) : Option (List Byte) × State :=
  let ov := collOverlap (cMoves r.cmd r) (permRank r)
  bufReadRuns s gr r (stagedRuns ov (cDst r.cmd.ent) (2 * ov.length + 2) (m.from_ + o) n)

/-- Phase W: the next piece to partner `p`. -/
def permGive (s : State) (gr : Nat) (r : GroupRun) (p : Nat) : Option State :=
  let pos := sget 0 r.sent p
  match moveAt (channelMoves (cMoves r.cmd r) (permRank r) p) pos with
  | none => none
  | some (m, o) =>
    let n := min (4096 - pos % 4096) (m.len - o)
    if !windowOpen r p pos n then none
    else
      match permRead s gr r m o n with
      | (some v, s) => some (addSent (sendGroup s r p 0 pos 0 v) gr p n)
      | (none, s) => some s

/-- Phase W: write the next piece from partner `p`. -/
def permTake (s : State) (gr : Nat) (r : GroupRun) (p : Nat) : Option State :=
  let l := cMoves r.cmd r
  let pos := sget 0 r.recv p
  match pieceOf r p 0 pos, moveAt (channelMoves l p (permRank r)) pos with
  | some d, some (m, o) =>
    match bufWrite s gr r (m.dest + o) d with
    | (true, s) => some (creditFrom (modRun s gr (fun r => dropPiece r p 0 pos)) gr p d.length (channelBytes l p (permRank r)))
    | (false, s) => some s
  | _, _ => none

/-- Phase W: the next local copy. -/
def permCopy (s : State) (gr : Nat) (r : GroupRun) : Option State :=
  match moveAt (channelMoves (cMoves r.cmd r) (permRank r) (permRank r)) r.self with
  | none => none
  | some (m, o) =>
    let n := min 4096 (m.len - o)
    match permRead s gr r m o n with
    | (some v, s) =>
      match bufWrite s gr r (m.dest + o) v with
      | (true, s) => some (modRun s gr (fun r => { r with self := r.self + n }))
      | (false, s) => some s
    | (none, s) => some s

def permAct (s : State) (gr : Nat) (r : GroupRun) : Option State :=
  let ps := r.partners.map (fun p => p.1)
  firstAct ([fun _ => permStage s gr r, fun _ => permReady s gr r, fun _ => permCopy s gr r] ++
    ps.map (fun p _ => permTake s gr r p) ++ ps.map (fun p _ => permGive s gr r p))

/-- Everything is sent and acknowledged, and everything due is written: the READY that ends a stream acknowledges it
(DESIGN CHOICE, notes/assumptions/20.md). -/
def permDone (r : GroupRun) : Bool :=
  let l := cMoves r.cmd r
  let me := permRank r
  r.began && decide (channelBytes l me me ≤ r.self) && r.partners.all (fun p =>
    let out := channelBytes l me p.1
    decide (channelBytes l p.1 me ≤ sget 0 r.recv p.1) &&
      (out == 0 || decide (out ≤ sget 0 r.sent p.1 ∧ out + sget 0 r.grant0 p.1 ≤ sget 0 r.grant p.1)))

/-! ### How commands end (R354) -/

/-- Send ABORT to a partner module. -/
def sendAbort (s : State) (c : CollCmd) (m : Nat) : State :=
  originate s { collPacket s c m 1 0 (cSeqOf c.ent) (cGroup (entOp c.ent) c.ent) [] with
    op := 0x06
    addr := BitVec.ofNat 64 (cSeqOf c.ent * 2 ^ 48) }

/-- ABORT to every partner but module `but`. -/
def abortTo (s : State) (c : CollCmd) (ps : List (Nat × Nat)) (but : Option Nat) : State :=
  (ps.filter (fun p => some p.2 != but)).foldl (fun s p => sendAbort s c p.2) s

/-- The admitted TEVENT of a group with CSEQ `n`. -/
def tevOf (s : State) (gr n : Nat) : Option TevSt := (groupOf s gr).tevs.find? (fun t => cSeqOf t.cmd.ent == n)

/-- A TEVENT leaves the engine: its events are disarmed. -/
def dropTev (s : State) (gr n : Nat) : State :=
  let s := disarm (disarm s iodDie (.tevent gr n)) iodDie (.teventEnd gr n)
  let x := groupOf s gr
  setGroup s gr { x with tevs := x.tevs.filter (fun t => cSeqOf t.cmd.ent != n), arrivals := sset 0 x.arrivals n 0 }

/-- The running command leaves the engine: NEXTSEQ advances, and GSTATE becomes `st`. -/
def stopRun (s : State) (gr st : Nat) : State :=
  match (groupOf s gr).run with
  | none => s
  | some r =>
    let s := dropTev (disarm s iodDie (.gateDeadline gr)) gr (cSeqOf r.cmd.ent)
    putGroup (setGroup s gr { groupOf s gr with run := none }) gr ((cSeqOf r.cmd.ent + 1) % 65536) st

/-- The running command leaves the engine, the group IDLE or BROKEN; a command that did not end OK sends ABORT to every partner
but module `but`. -/
def leaveRun (s : State) (gr : Nat) (ok : Bool) (but : Option Nat) : State :=
  match (groupOf s gr).run with
  | none => s
  | some r => if ok then stopRun s gr 0 else abortTo (stopRun s gr 2) r.cmd r.partners but

/-- The running command ends with a status. -/
def collEnd (s : State) (gr status detail : Nat) (but : Option Nat) : State :=
  match (groupOf s gr).run with
  | none => s
  | some r =>
    let s := leaveRun s gr (status == 0) but
    let s := if status = 0x51 then inc s F.COL_CNT0_LINK_LOST_CNT 0 else s
    finishEntry s r.cmd.q r.cmd.i status detail

/-- One action of the running command, if any is possible. -/
def collAct (s : State) (gr : Nat) (r : GroupRun) : Option State :=
  if r.susp then none
  else if entOp r.cmd.ent = 6 then permAct s gr r
  else if entOp r.cmd.ent = 9 then none
  else if isRing (entOp r.cmd.ent) r.cmd.ent then ringAct s gr r
  else treeAct s gr r

/-- The running command has done all it has to do; a GATE and a TEVENT end by steps of their own. -/
def collDone (r : GroupRun) : Bool :=
  if r.susp || entOp r.cmd.ent == 9 || entOp r.cmd.ent == 0x10 then false
  else if entOp r.cmd.ent = 6 then permDone r
  else if isRing (entOp r.cmd.ent) r.cmd.ent then ringDone r
  else treeDone r

/-- Everything that the running command can do now, and its end when it has done all. -/
def collPump (gr : Nat) : Nat → State → State
  | 0, s => s
  | n + 1, s =>
    match (groupOf s gr).run with
    | none => s
    | some r =>
      match collAct s gr r with
      | some s => collPump gr n s
      | none => if collDone r then collEnd s gr 0 0 none else s

/-- A bound on the actions that are possible at once: one for each byte granted, received, staged or copied. -/
def pumpFuel (s : State) (gr : Nat) : Nat :=
  match (groupOf s gr).run with
  | none => 0
  | some r =>
    let perm := if entOp r.cmd.ent = 6 then ((cMoves r.cmd r).map (fun m => 3 * m.len)).foldl (· + ·) 0 else 0
    8 + 4 * r.rx.length + 4 * cTotal r.cmd.ent + perm + (r.grant.map (fun e => 4 * e.2)).foldl (· + ·) 0

def collGo (s : State) (gr : Nat) : State := collPump gr (pumpFuel s gr) s

end Sys2Proof.Machine
end

