-- ==== Sys2Proof/Machine/Gate.lean ====
section
/-! DEFINITION. Machine/Gate.lean: the update gate and step seals (R179 to R189, R355, R356). -/

namespace Sys2Proof.Machine

/-! ### Result records (R183, Table 6.9) -/

/-- The 32 bytes of a gate result record. -/
def resultBytes (step verdict cause : Nat) (ssq norm : Word32) (nf n ft : Nat) : List Byte :=
  leBytes 4 step ++ leBytes 1 verdict ++ leBytes 1 cause ++ leBytes 2 0 ++ leBytes 4 ssq.toNat ++ leBytes 4 norm.toNat ++
    leBytes 4 nf ++ leBytes 4 n ++ leBytes 8 ft

/-- A result record without a verdict's sums: the spec states no value for them, so they are free
(DESIGN CHOICE, notes/assumptions/21.md). -/
def skipRecord (s : State) (step cause : Nat) : List Byte × State :=
  let (a, s) := freshBits s
  let (b, s) := freshBits s
  (resultBytes step 1 cause (a.setWidth 32) ((a >>> 32).setWidth 32) (b.toNat % 2 ^ 32) (b.toNat / 2 ^ 32) (ftNow s), s)

/-- The armed step of a virtual core that is not resident, from its saved record (Table 10.12). -/
def savedStep (s : State) (k v : Nat) : Nat :=
  leNat (emberRead s (homeCd s k v) k (slotVa s k v + 196) 4).1

/-- A result record reaches the virtual core that contributed: written into its partition, or kept with its saved state; its
token and gate follow. A record for another step than the armed one is discarded (R183, R184, R186). -/
def deliverVerdict (s : State) (c : Contrib) (b : List Byte) : State :=
  let b := if c.late then splice b 5 [BitVec.ofNat 8 (fieldLE b 5 5 ||| 16)] else b
  let x := ctxOf s c.ctx
  let vc := vcOf s c.ctx c.vcore
  let step := fieldLE b 0 3
  let gate := 2 + fieldLE b 4 4 + fieldLE b 5 5 * 4
  let s :=
    if x.state ≠ 1 ∨ x.gen ≠ c.gen ∨ x.ncore ≤ c.vcore then s
    else if vc.dir = 1 then
      if (coreOf s vc.core).gateStep.toNat ≠ step then inc s F.BWD_GATE_CNT_GATE_STALE_CNT vc.core
      else
        let s := modCore s vc.core (fun k => spmWrite k c.resaddr b false)
        let s := setF (setF s F.BWD_GATE_STS_STATE vc.core (gate % 4)) F.BWD_GATE_STS_CAUSE vc.core (gate / 4)
        deliverSig s ⟨128, c.ctx, c.gen, c.vcore, c.token⟩
    else if vc.dir = 0 ∨ savedStep s c.ctx c.vcore ≠ step then inc s F.BWD_GATE_CNT_GATE_STALE_CNT vc.core
    else
      let cd := homeCd s c.ctx c.vcore
      let slot := slotVa s c.ctx c.vcore
      let s := setVc s c.ctx c.vcore { vc with held := vc.held ++ [(c.resaddr, b)] }
      let s := emberWrite (emberWrite s cd c.ctx (slot + 192) (leBytes 4 gate)) cd c.ctx (slot + 200) b
      deliverSig s ⟨128, c.ctx, c.gen, c.vcore, c.token⟩
  finishEntry (disarm s iodDie (.contribHold c.q c.i)) c.q c.i 0 0

/-- A contribution answered alone with SKIP (R355). -/
def answerAlone (s : State) (c : Contrib) (cause : Nat) : State :=
  let (b, s) := skipRecord s c.step cause
  deliverVerdict s c b

/-! ### Contributions (R180, R181, R355) -/

/-- Contribution of an entry. -/
def contribOf (s : State) (q i v : Nat) (e : List Byte) : Contrib :=
  let k := qCtx (queueOf s q).desc
  { q := q
    i := i
    ctx := k
    gen := (ctxOf s k).gen
    vcore := v
    step := fieldLE e 16 19
    ssq := BitVec.ofNat 32 (fieldLE e 20 23)
    nf := fieldLE e 24 27
    pz := bitAt (fieldLE e 28 28) 0
    token := fieldLE e 29 29 % 32
    resaddr := fieldLE e 32 35
    late := false }

/-- NLOCAL of a GATE. -/
def gNlocal (c : CollCmd) : Nat := fieldLE c.ent 36 37

/-- The running command is a GATE that still takes contributions. -/
def gateOpen (r : GroupRun) : Bool := entOp r.cmd.ent == 0x10 && decide (r.contribs.length < gNlocal r.cmd)

/-- A contribution joins the running GATE of its group, or is held ahead of the next, or is answered (R355). -/
def takeContrib (s : State) (gr : Nat) (c : Contrib) : State :=
  let x := groupOf s gr
  match x.run with
  | some r =>
    if gateOpen r then modRun s gr (fun r => { r with contribs := r.contribs ++ [c] })
    else if 256 ≤ x.held.length then answerAlone s c 4
    else armTimeout (setGroup s gr { x with held := x.held ++ [c] }) iodDie
      (ftNow s + 1000000 * getF s F.COL_CFG_HOLD_MS 0) (.contribHold c.q c.i)
  | none =>
    if 256 ≤ x.held.length then answerAlone s c 4
    else armTimeout (setGroup s gr { x with held := x.held ++ [c] }) iodDie
      (ftNow s + 1000000 * getF s F.COL_CFG_HOLD_MS 0) (.contribHold c.q c.i)

/-- A GATE that starts takes the contributions held ahead of it, in order of arrival. -/
def takeHeld (s : State) (gr : Nat) : State :=
  match (groupOf s gr).run with
  | none => s
  | some r =>
    let x := groupOf s gr
    let n := gNlocal r.cmd
    (x.held.take n).foldl (fun s c =>
      let (late, s) := completeInTime s iodDie (.contribHold c.q c.i)
      modRun s gr (fun r => { r with contribs := r.contribs ++ [{ c with late := late }] }))
      (setGroup s gr { x with held := x.held.drop n })

/-- CONTRIB_HOLD_TIMEOUT (R355): no GATE took the contribution within HOLD_MS. -/
def contribHoldTimeout (s : State) (q i : Nat) : State :=
  if !hasFired s iodDie (.contribHold q i) then s
  else
    let s := takeFired s iodDie (.contribHold q i)
    match s.col.groups.findSome? (fun g => (g.2.held.find? (fun c => c.q == q && c.i == i)).map (fun c => (g.1, c))) with
    | some (gr, c) =>
      let x := groupOf s gr
      answerAlone (setGroup s gr { x with held := x.held.filter (fun d => !(d.q == q && d.i == i)) }) c 8
    | none => s

def execContribHoldTimeout (q : QueueId) (i : EntryIdx) (s : State) : Host.Outcome State Fault Refusal :=
  .next (contribHoldTimeout s q i)

/-- The local value of a GATE: contributions in increasing order of context core index (R181). -/
def localValue (step : Nat) (l : List Contrib) : GateVal :=
  let l := sortBy (fun (a b : Contrib) => decide (a.vcore ≤ b.vcore)) l
  { ssq := match l with | [] => 0 | c :: t => t.foldl (fun x d => fadd x d.ssq) c.ssq
    nf := l.foldl (fun n c => min (2 ^ 32 - 1) (n + c.nf)) 0
    n := l.length
    pz := l.any (fun c => c.pz)
    mis := l.any (fun c => c.step != step) }

/-- LOCAL_GATE_COMBINE: the NLOCAL contributions of the running GATE have arrived (R181). -/
def localGateCombine (s : State) (gr : Nat) : State :=
  match (groupOf s gr).run with
  | some r =>
    if entOp r.cmd.ent = 0x10 ∧ r.lval = none ∧ r.contribs.length = gNlocal r.cmd then
      collGo (modRun s gr (fun r => { r with lval := some (localValue (fieldLE r.cmd.ent 20 23) r.contribs) })) gr
    else s
  | none => s

def execLocalGateCombine (gr : GroupId) (s : State) : Host.Outcome State Fault Refusal := .next (localGateCombine s gr)

/-! ### Verdicts (R182, R183, R187) -/

/-- Cause bits of a global value. -/
def gateCause (v : GateVal) : Nat :=
  (if 0 < v.nf ∨ ¬isFin32 v.ssq then 1 else 0) + (if v.pz then 2 else 0) + (if v.mis then 4 else 0)

/-- Deliver one record to every contribution of a GATE. -/
def deliverAll (s : State) (l : List Contrib) (b : List Byte) : State := l.foldl (fun s c => deliverVerdict s c b) s

/-- GATE_VERDICT: the global value is known, the children have it, and the deadline has not acted: the verdict is delivered
and the GATE ends OK. -/
def gateVerdict (s : State) (gr : Nat) : State :=
  let s := collGo s gr
  match (groupOf s gr).run with
  | some r =>
    if entOp r.cmd.ent = 0x10 ∧ r.susp = false ∧ treeDone r = true then
      let v := gateOf r.gval
      let (late, s) := completeInTime s iodDie (.gateDeadline gr)
      let cause := gateCause v + (if late then 16 else 0)
      let verdict := if gateCause v = 0 then 0 else 1
      let b := resultBytes (fieldLE r.cmd.ent 20 23) verdict cause v.ssq (fsqrt v.ssq) v.nf v.n (ftNow s)
      collEnd (deliverAll s r.contribs b) gr 0 (verdict + 256 * cause) none
    else s
  | none => s

def execGateVerdict (gr : GroupId) (s : State) : Host.Outcome State Fault Refusal := .next (gateVerdict s gr)

/-- SKIP with cause TIMEOUT to the contributions of the running GATE. -/
def skipAll (s : State) (r : GroupRun) : State :=
  let (b, s) := skipRecord s (fieldLE r.cmd.ent 20 23) 8
  deliverAll s r.contribs b

/-- What a GATE still awaits of other modules: the result from its parent, or at the root the values of children; the
algorithm step that these bear, and the modules. -/
def gateOwed (r : GroupRun) : Nat × List Nat :=
  let mods (l : List Nat) : List Nat := (r.partners.filter (fun p => l.contains p.1)).map (fun p => p.2)
  match treeParent r.cmd with
  | some p => (1, mods [p])
  | none => (0, mods ((treeChildren r.cmd).filter (fun c => (pieceOf r c 0 0).isNone)))

/-- A value of a GATE whose deadline won arrives: the last of those it awaited is its completion, discarded and counted
(R342). -/
def lateGate (s : State) (gr : Nat) (p : Packet) : State :=
  let x := groupOf s gr
  match x.timedGate.find? (fun t => t.1 == pHi p && t.2.1 == pStep p && t.2.2.contains p.src.toNat) with
  | none => s
  | some t =>
    let rest := t.2.2.erase p.src.toNat
    let others := x.timedGate.erase t
    if rest.isEmpty then completeAfter (setGroup s gr { x with timedGate := others }) iodDie
    else setGroup s gr { x with timedGate := others ++ [(t.1, t.2.1, rest)] }

/-- GATE_DEADLINE (R187, R355): the deadline won; the GATE ends OK and the group is not BROKEN. -/
def gateDeadline (s : State) (gr : Nat) : State :=
  if !hasFired s iodDie (.gateDeadline gr) then s
  else
    let s := takeFired s iodDie (.gateDeadline gr)
    match (groupOf s gr).run with
    | some r =>
      if entOp r.cmd.ent = 0x10 then
        let s := collEnd (skipAll s r) gr 0 (1 + 8 * 256) none
        if (gateOwed r).2.isEmpty then s
        else setGroup s gr { groupOf s gr with timedGate := (groupOf s gr).timedGate ++ [(cSeqOf r.cmd.ent, gateOwed r)] }
      else s
    | none => s

def execGateDeadline (gr : GroupId) (s : State) : Host.Outcome State Fault Refusal := .next (gateDeadline s gr)

/-- A running command ends other than OK; a GATE first answers its contributions (R354, R355). -/
def collFail (s : State) (gr status detail : Nat) (but : Option Nat) : State :=
  match (groupOf s gr).run with
  | some r => collEnd (if entOp r.cmd.ent = 0x10 then skipAll s r else s) gr status detail but
  | none => s

/-- The group is BROKEN by another command: the running one ends at once with GROUP_BROKEN and sends nothing (R354). -/
def breakRun (s : State) (gr : Nat) : State :=
  match (groupOf s gr).run with
  | some r => finishEntry (stopRun (if entOp r.cmd.ent = 0x10 then skipAll s r else s) gr 2) r.cmd.q r.cmd.i 0x52 0
  | none => s

/-- A command that waits for its turn ends other than OK: the group becomes BROKEN, NEXTSEQ stays, and its partners but module
`but` get ABORT; a SHARD_PERMUTE has not read its list, and so has none (R354, R269). -/
def leaveWaiting (s : State) (gr : Nat) (c : CollCmd) (but : Option Nat) : State :=
  let (ps, _, s) := readPartners c.grp (commandPartners c) s
  let s := dropTev s gr (cSeqOf c.ent)
  let s := setGroup s gr { groupOf s gr with waiting := (groupOf s gr).waiting.erase c }
  let (g, _, s) := readGroup s gr
  abortTo (breakRun (putGroup s gr (gNextSeq g) 2) gr) c ps but

/-! ### Seals (R188, R189, R356) -/

/-- Dies whose wheels a seal of context `k` uses. -/
def sealDies (s : State) (k : Nat) : List Nat := iodDie :: maskBits (ctxOf s k).cdmask

/-- Arm the event on every die; none when a wheel refuses. -/
def armSeal (s : State) (t q i : Nat) : List Nat → Option State
  | [] => some s
  | d :: ds => match armSched s d t (.seal q i) with
    | some s => armSeal s t q i ds
    | none => none

/-- The first die whose wheel refuses, for FULL_CNT. -/
def sealRefuser (s : State) (t q i : Nat) : List Nat → Nat
  | [] => iodDie
  | d :: ds => match armSched s d t (.seal q i) with
    | some s => sealRefuser s t q i ds
    | none => d

/-- SEAL (R356). -/
def sealCmd (s : State) (q i : Nat) : State :=
  match entryOf s q i with
  | some e =>
    if e.stage = 3 ∧ qClass (queueOf s q).desc = 2 ∧ entOp e.raw = 0x12 then
      let k := qCtx (queueOf s q).desc
      let t := fieldLE e.raw 24 31
      match armSeal s t q i (sealDies s k) with
      | some s => markStarted s q i
      | none => finishEntry (timerFull s (sealRefuser s t q i (sealDies s k))) q i 0x0A 0
    else s
  | none => s

def execSeal (q : QueueId) (i : EntryIdx) (s : State) : Host.Outcome State Fault Refusal := .next (sealCmd s q i)

/-- Conditions 1 to 5 of R188 that fail on core `c`, as the bits of CAUSE. -/
def sealFails (s : State) (c step mask : Nat) : Nat :=
  let k := coreOf s c
  let st := gateState s c
  let c1 := !((st == 2 || st == 3) && k.gateStep.toNat == step)
  let c2 := (unitOps k 6).any (fun o => o.gated)
  let c3 := (xferList k).any (fun x => bitAt mask x.tag)
  let c4 := (List.range 16).any (fun n => spOf s c n != 0)
  let c5 := k.pzArmed
  (if c1 then 1 else 0) + (if c2 then 2 else 0) + (if c3 then 4 else 0) + (if c4 then 8 else 0) + (if c5 then 16 else 0)

/-- The seal record (Table 6.12). -/
def sealBytes (num step ft : Nat) (missed : Bool) (cause nready : Nat) : List Byte :=
  leBytes 4 num ++ leBytes 4 step ++ leBytes 8 ft ++ leBytes 1 (if missed then 1 else 0) ++ leBytes 1 cause ++ leBytes 2 nready ++
    leBytes 12 0

/-- The same of virtual core `v` of context `k` while it is banked, from its saved state (Table 10.12). -/
def savedFails (s : State) (k v step mask : Nat) : Nat :=
  let x := vcOf s k v
  let b := (emberRead s (homeCd s k v) k (slotVa s k v) 256).1
  let st := fieldLE b 192 192 % 4
  let c1 := !((st == 2 || st == 3) && fieldLE b 196 199 == step)
  let c2 := (sget [] x.savedUnits 6).any (fun o => o.gated)
  let c3 := x.savedXfers.any (fun e => match e.2 with | some y => bitAt mask y.tag | none => false)
  let c4 := fieldLE b 128 191 != 0
  let c5 := x.savedPzArmed
  (if c1 then 1 else 0) + (if c2 then 2 else 0) + (if c3 then 4 else 0) + (if c4 then 8 else 0) + (if c5 then 16 else 0)

/-- Banked virtual cores of context `k`; one that has never run has no core to evaluate (DESIGN CHOICE,
notes/assumptions/21.md). -/
def bankedVcs (s : State) (k : Nat) : List Nat :=
  (List.range (ctxOf s k).ncore).filter (fun v => (vcOf s k v).dir == 2 || (vcOf s k v).dir == 3)

/-- Every wheel on which the seal was armed has fired. -/
def sealFired (s : State) (q i : Nat) : Bool :=
  hasFired s iodDie (.seal q i) && (List.range 9).all (fun d => !(wheelOf s d).entries.any (fun e => e.act == .seal q i))

/-- Write the record of an evaluated seal, which EntrySt.prog keeps plus 1, and complete the entry; a fault suspends the
command (R264). -/
def sealWrite (s : State) (q i : Nat) : State :=
  match entryOf s q i with
  | none => s
  | some e =>
    let k := qCtx (queueOf s q).desc
    let b := leBytes 32 (e.prog - 1)
    match dvaWrite s iodDie k (fieldLE e.raw 32 39) b false .normal with
    | (.error f, s) => raiseFault s k 1 0xFFFF f .write (.coll q i)
    | (.ok _, s) => finishEntry s q i 0 (fieldLE b 16 16 % 2 + fieldLE b 0 3 * 2 ^ 32)

/-- SEAL_EVALUATION at T_s + 1 µs: the seal is taken or missed; the answer: the state, and whether it was taken. -/
def sealEvaluation (s : State) (q i : Nat) : State × Bool :=
  match entryOf s q i with
  | none => (s, false)
  | some e =>
    let k := qCtx (queueOf s q).desc
    let t := fieldLE e.raw 24 31
    if e.stage ≠ 4 ∨ entOp e.raw ≠ 0x12 ∨ coveredOpen s (.coll q i) = true then (s, false)
    else if e.prog ≠ 0 then (sealWrite s q i, false)
    else if sealFired s q i = false ∨ ftNow s < t + 1000 then (s, false)
    else
      let cores := ctxCores s k
      let saved := bankedVcs s k
      let step := fieldLE e.raw 16 19
      let mask := fieldLE e.raw 20 21
      let fails := cores.map (fun c => sealFails s c step mask) ++ saved.map (fun v => savedFails s k v step mask)
      let cause := fails.foldl (· ||| ·) 0
      let missed : Bool := cause != 0
      let num := if missed then sget 0 s.col.sealNum k else (sget 0 s.col.sealNum k + 1) % 2 ^ 32
      let b := sealBytes num step t missed cause (fails.filter (fun f => f != 0)).length
      let s := (List.range 9).foldl (fun s d => takeFired s d (.seal q i)) s
      let s := { s with col := { s.col with sealNum := sset 0 s.col.sealNum k num } }
      let s := if missed then s
        else
          let s := cores.foldl (fun s c => setF (modCore s c (fun x => { x with pz := false })) F.BWD_SEAL_NUM_SEALNUM c num) s
          saved.foldl (fun s v => setVc s k v { vcOf s k v with savedPz := false }) s
      (sealWrite (setEntry s q i (some { e with prog := 1 + leNat b })) q i, !missed)

end Sys2Proof.Machine
end

