-- ==== Sys2Proof/Machine/CollCmds.lean ====
section
/-! DEFINITION. Machine/CollCmds.lean: the commands of the collective class, the start of a sequenced command, and what the
engine does with each packet (R345 to R364). -/

namespace Sys2Proof.Machine

/-! ### Timed events (R362) -/

def tT (c : CollCmd) : Nat := fieldLE c.ent 24 31
def tNarrive (c : CollCmd) : Nat := fieldLE c.ent 22 23

/-- Release time: T + 2σ + H with σ = 27 ns. -/
def tRelease (c : CollCmd) : Nat := tT c + 54 + gHorizon c.grp

/-- Change an admitted TEVENT. -/
def modTev (s : State) (gr n : Nat) (f : TevSt → TevSt) : State :=
  let x := groupOf s gr
  setGroup s gr { x with tevs := x.tevs.map (fun t => if cSeqOf t.cmd.ent = n then f t else t) }

/-- VETO of module `m` goes to the tree neighbours of a TEVENT but rank `but`. -/
def vetoTo (s : State) (t : TevSt) (m : Nat) (but : Option Nat) : State :=
  ((treePeers t.cmd).filter (fun c => some c != but)).foldl
    (fun s c => sendTo s t.cmd t.partners c 4 0 0 (leBytes 2 m)) s

/-- This member vetoes. -/
def sendVeto (s : State) (gr : Nat) (t : TevSt) : State :=
  let me := getF s F.RTE_MODID_MOD_ID 0
  let s := modTev (vetoTo s t me none) gr (cSeqOf t.cmd.ent) (fun t => { t with vetoed := some (t.vetoed.getD me) })
  inc s F.COL_CNT1_VETO_CNT 0

/-- ALLARMED goes down to the children. -/
def sendAllArmed (s : State) (t : TevSt) : State :=
  (treeChildren t.cmd).foldl (fun s c => sendTo s t.cmd t.partners c 3 0 0 []) s

/-- ARMED goes to the parent, or ALLARMED down from the root, once this member and its children are armed. -/
def teventArm (s : State) (gr n : Nat) : State :=
  match tevOf s gr n with
  | none => s
  | some t =>
    if t.refused ∨ t.armedSent ∨ ¬(treeChildren t.cmd).all (fun c => t.armed.contains c) then s
    else
      match treeParent t.cmd with
      | some p => sendTo (modTev s gr n (fun t => { t with armedSent := true })) t.cmd t.partners p 2 0 0 []
      | none => sendAllArmed (modTev s gr n (fun t => { t with armedSent := true, allArmed := true })) t

/-- A packet for an admitted TEVENT: ARMED of a child, ALLARMED, or a first VETO, which goes on to the other neighbours. -/
def tevPacket (s : State) (gr : Nat) (t : TevSt) (p : Packet) : State :=
  let n := cSeqOf t.cmd.ent
  match t.partners.find? (fun x => x.2 == p.src.toNat) with
  | none => s
  | some (rank, _) =>
    match pMsg p with
    | 2 => teventArm (modTev s gr n (fun t => { t with armed := t.armed ++ [rank] })) gr n
    | 3 => sendAllArmed (modTev s gr n (fun t => { t with allArmed := true })) t
    | 4 =>
      if t.vetoed.isSome then s
      else
        let m := fieldLE p.body 0 1
        vetoTo (modTev s gr n (fun t => { t with vetoed := some m })) t m (some rank)
    | _ => s

/-- Packets that came ahead of a TEVENT. -/
def takeEarlyTev (s : State) (gr n : Nat) : State :=
  let x := groupOf s gr
  let (now, later) := x.early.partition (fun p => pHi p == n)
  now.foldl (fun s p => match tevOf s gr n with | some t => tevPacket s gr t p | none => s) (setGroup s gr { x with early := later })

/-- Arm T and the release on the IOD's wheel; refused where the wheel refuses one (R29). -/
def armTev (s : State) (gr : Nat) (c : CollCmd) : State :=
  let n := cSeqOf c.ent
  let refuse (s : State) : State := modTev (timerFull s iodDie) gr n (fun t => { t with refused := true })
  match armSched s iodDie (tT c) (.tevent gr n) with
  | none => refuse s
  | some s =>
    match armSched s iodDie (tRelease c) (.teventEnd gr n) with
    | none => refuse (disarm s iodDie (.tevent gr n))
    | some s => s

/-- A TEVENT admitted at or after its T vetoes at once and ends with TOO_LATE, in its turn or ahead of it. -/
def tooLate (s : State) (gr : Nat) (t : TevSt) : State :=
  let c := t.cmd
  let s := inc (vetoTo s t (getF s F.RTE_MODID_MOD_ID 0) none) F.COL_CNT1_VETO_CNT 0
  let turn := (groupOf s gr).run.isNone && cSeqOf c.ent == gNextSeq c.grp
  let s := if turn then abortTo (putGroup s gr ((cSeqOf c.ent + 1) % 65536) 2) c t.partners none else leaveWaiting s gr c none
  finishEntry s c.q c.i 0x56 0

/-- Admission of a TEVENT: it arms, and waits for its turn like any sequenced command (R348); on a BROKEN group it only waits
to be ended. -/
def teventAdmit (c : CollCmd) (s : State) : State :=
  let gr := cGroup 9 c.ent
  let n := cSeqOf c.ent
  let (ps, _, s) := readPartners c.grp (treePeers c) s
  let t : TevSt := ⟨c, ps, [], false, false, none, false, false⟩
  let x := groupOf s gr
  if gState c.grp = 2 then setGroup s gr { x with waiting := x.waiting ++ [c] }
  else if tT c ≤ ftNow s then tooLate s gr t
  else teventArm (takeEarlyTev (armTev (setGroup s gr { x with waiting := x.waiting ++ [c], tevs := x.tevs ++ [t] }) gr c) gr n) gr n

/-- A TEVENT whose time T has come and has not acted. -/
def tevDue (s : State) (gr : Nat) (t : TevSt) : Bool :=
  !t.atT && (hasFired s iodDie (.tevent gr (cSeqOf t.cmd.ent)) || (t.refused && decide (tT t.cmd ≤ ftNow s)))

/-- TEVENT_AT_T: each member vetoes in the cases of R362, whether or not the command's turn has come. -/
def teventAtT (s : State) (gr : Nat) : State :=
  match (groupOf s gr).tevs.find? (tevDue s gr) with
  | none => s
  | some t =>
    let n := cSeqOf t.cmd.ent
    let few := sget 0 (groupOf s gr).arrivals n < tNarrive t.cmd
    let s := modTev (takeFired s iodDie (.tevent gr n)) gr n (fun t => { t with atT := true })
    if ¬t.allArmed ∨ few ∨ getF s F.FT_STS_LSTATE 0 ≠ 1 ∨ t.refused then sendVeto s gr t else s

def execTeventAtT (gr : GroupId) (s : State) : Host.Outcome State Fault Refusal := .next (teventAtT s gr)

/-- TEVENT_RELEASE of the running command at T + 2σ + HORIZON_NS; one whose turn comes later releases then
(DESIGN CHOICE, notes/assumptions/20.md). -/
def teventRelease (s : State) (gr : Nat) : State :=
  match (groupOf s gr).run with
  | none => s
  | some r =>
    match tevOf s gr (cSeqOf r.cmd.ent) with
    | none => s
    | some t =>
      if ¬t.atT ∨ ¬(hasFired s iodDie (.teventEnd gr (cSeqOf r.cmd.ent)) ∨ (t.refused ∧ tRelease r.cmd ≤ ftNow s)) then s
      else if t.refused then collEnd s gr 0x0A 0 none
      else
        match t.vetoed with
        | some m => collEnd s gr 0x55 m none
        | none =>
          let kind := fieldLE r.cmd.ent 20 20
          let s := collEnd s gr 0 0 none
          if kind = 0 then s else { s with col := { s.col with due := s.col.due ++ [(gr, kind, cDst r.cmd.ent, tT r.cmd)] } }

def execTeventRelease (gr : GroupId) (s : State) : Host.Outcome State Fault Refusal := .next (teventRelease s gr)

/-! ### Admitted commands -/

/-- The entry is an admitted collective command of opcode `op`. -/
def collEntry (s : State) (q i op : Nat) : Option EntrySt :=
  match entryOf s q i with
  | some e => if e.stage = 3 ∧ qClass (queueOf s q).desc = 2 ∧ entOp e.raw = op then some e else none
  | none => none

/-- Read the group that a command names, or refuse the command with BAD_GROUP (R345). -/
def withGroup (s : State) (q i op : Nat) (f : CollCmd → State → State) : State :=
  match collEntry s q i op with
  | none => s
  | some e =>
    let k := qCtx (queueOf s q).desc
    let (g, p, s) := readGroup s (cGroup op e.raw)
    let (bad, s) := groupBad s k op e.raw g p
    if bad then finishEntry s q i 0x54 0 else f ⟨q, i, k, (ctxOf s k).gen, e.raw, g⟩ s

/-- COUNT is not a multiple of N where the ring needs it (R347). -/
def countBad (c : CollCmd) : Bool := isRing (entOp c.ent) c.ent && decide (cCount c.ent % gN c.grp ≠ 0)

/-- A sequenced command waits for its turn (R348); a TEVENT arms meanwhile (R362). -/
def queueSequenced (c : CollCmd) (s : State) : State :=
  let gr := cGroup (entOp c.ent) c.ent
  if countBad c then finishEntry s c.q c.i 6 40
  else
    let s := markStarted s c.q c.i
    if entOp c.ent = 9 then teventAdmit c s
    else setGroup s gr { groupOf s gr with waiting := (groupOf s gr).waiting ++ [c] }

def sequencedCmd (s : State) (q i op : Nat) : State := withGroup s q i op queueSequenced

def execAllreduce (q : QueueId) (i : EntryIdx) (s : State) : Host.Outcome State Fault Refusal := .next (sequencedCmd s q i 1)
def execReduceScatter (q : QueueId) (i : EntryIdx) (s : State) : Host.Outcome State Fault Refusal :=
  .next (sequencedCmd s q i 2)
def execAllgather (q : QueueId) (i : EntryIdx) (s : State) : Host.Outcome State Fault Refusal := .next (sequencedCmd s q i 3)
def execBroadcast (q : QueueId) (i : EntryIdx) (s : State) : Host.Outcome State Fault Refusal := .next (sequencedCmd s q i 4)
def execBarrier (q : QueueId) (i : EntryIdx) (s : State) : Host.Outcome State Fault Refusal := .next (sequencedCmd s q i 5)
def execShardPermute (q : QueueId) (i : EntryIdx) (s : State) : Host.Outcome State Fault Refusal :=
  .next (sequencedCmd s q i 6)
def execTevent (q : QueueId) (i : EntryIdx) (s : State) : Host.Outcome State Fault Refusal := .next (sequencedCmd s q i 9)
def execGate (q : QueueId) (i : EntryIdx) (s : State) : Host.Outcome State Fault Refusal := .next (sequencedCmd s q i 0x10)

/-- GATE_CONTRIB: only a posted one is a contribution (R180). -/
def gateContrib (s : State) (q i : Nat) : State :=
  match collEntry s q i 0x11 with
  | none => s
  | some e =>
    match e.poster with
    | none => finishEntry s q i 6 16
    | some v => withGroup s q i 0x11 (fun c s => takeContrib (markStarted s q i) (cGroup 0x11 c.ent) (contribOf s q i v c.ent))

def execGateContrib (q : QueueId) (i : EntryIdx) (s : State) : Host.Outcome State Fault Refusal := .next (gateContrib s q i)

/-- ARRIVE (R362): counted for its TEVENT, and complete. -/
def arriveCmd (s : State) (q i : Nat) : State :=
  withGroup s q i 0x0A (fun c s =>
    let gr := cGroup 0x0A c.ent
    let x := groupOf s gr
    let n := cSeqOf c.ent
    finishEntry (setGroup s gr { x with arrivals := sset 0 x.arrivals n (sget 0 x.arrivals n + 1) }) q i 0 0)

def execArrive (q : QueueId) (i : EntryIdx) (s : State) : Host.Outcome State Fault Refusal := .next (arriveCmd s q i)

/-! ### Token slots (R359 to R361, Table 12.7) -/

/-- DPA of the slot of a token. -/
def slotDpa (g : List Byte) (tok : Nat) : Nat := gTokDpa g + 16 * (tok % 2 ^ gTokLog g)

/-- Token, state and source of a slot. -/
def readTok (s : State) (a : Nat) : (Nat × Nat × Nat) × State :=
  let (b, _, s) := devRead s a 16
  ((fieldLE b 0 3, fieldLE b 4 4, fieldLE b 6 7), s)

def writeTok (s : State) (a tok st src ft : Nat) : State :=
  devWrite s a (leBytes 4 tok ++ leBytes 1 st ++ leBytes 1 0 ++ leBytes 2 src ++ leBytes 8 ft)

def cToken (e : List Byte) : Nat := fieldLE e 20 23

/-- Complete the WAIT_TOKENs whose slot now holds their token DONE. -/
def wakeTokens (s : State) : State :=
  s.col.waits.foldl (fun s c =>
    let ((t, st, src), s) := readTok s (slotDpa c.grp (cToken c.ent))
    if t = cToken c.ent ∧ st = 2 then
      finishEntry { s with col := { s.col with waits := s.col.waits.erase c } } c.q c.i 0 src
    else s) s

/-- WAIT_TOKEN (R361). -/
def waitTokenCmd (s : State) (q i : Nat) : State :=
  withGroup s q i 8 (fun c s =>
    let s := markStarted s q i
    wakeTokens { s with col := { s.col with waits := s.col.waits ++ [c] } })

def execWaitToken (q : QueueId) (i : EntryIdx) (s : State) : Host.Outcome State Fault Refusal := .next (waitTokenCmd s q i)

/-! ### PUT at its source (R359, R360) -/

def cDstRank (e : List Byte) : Nat := fieldLE e 18 19
def cPutLen (e : List Byte) : Nat := fieldLE e 40 43

def setPuts (s : State) (l : List PutSt) : State := { s with col := { s.col with puts := l } }

/-- Replace the PUT of entry i of queue q. -/
def modPut (s : State) (q i : Nat) (f : PutSt → PutSt) : State :=
  setPuts s (s.col.puts.map (fun p => if p.cmd.q = q ∧ p.cmd.i = i then f p else p))

/-- A packet of a PUT. -/
def putPacket (s : State) (p : PutSt) (msg off num : Nat) (body : List Byte) : Packet :=
  collPacket s p.cmd p.dst msg off num (cToken p.cmd.ent) body

/-- Body of CLAIM (R350); it also carries DST, which R359 needs at the destination (DESIGN CHOICE,
notes/assumptions/20.md). -/
def claimBody (e : List Byte) : List Byte :=
  leBytes 2 (cGroup 7 e) ++ leBytes 2 0 ++ leBytes 4 (cPutLen e) ++ leBytes 2 (fieldLE e 44 45) ++ leBytes 1 (fieldLE e 46 46) ++
    leBytes 5 0 ++ leBytes 8 (cDst e)

/-- PUTs that run. -/
def putsRunning (s : State) : Nat := (s.col.puts.filter (fun p => decide (p.phase ≠ 0))).length

/-- A PUT leaves the engine and its entry completes. -/
def putEnd (s : State) (p : PutSt) (status detail : Nat) : State :=
  let s := if status = 0x51 then inc s F.COL_CNT0_LINK_LOST_CNT 0 else s
  finishEntry (setPuts s (s.col.puts.filter (fun x => !(x.cmd == p.cmd)))) p.cmd.q p.cmd.i status detail

/-- Start waiting PUTs in admission order, at most 1,024 at once (R348). -/
def putsStart : Nat → State → State
  | 0, s => s
  | n + 1, s =>
    match s.col.puts.find? (fun p => p.phase == 0) with
    | none => s
    | some p =>
      if 1024 ≤ putsRunning s then s
      else
        let (id, bad, s) := memberId s p.cmd.grp (cDstRank p.cmd.ent)
        if bad then putsStart n (putEnd s p 0x54 0)
        else
          let p := { p with phase := 1, dst := id }
          let s := modPut s p.cmd.q p.cmd.i (fun _ => p)
          putsStart n (originate s (putPacket s p 5 0 0 (claimBody p.cmd.ent)))

/-- A PUT has ended: the next one starts. -/
def putDone (s : State) (p : PutSt) (status detail : Nat) : State :=
  let s := putEnd s p status detail
  putsStart (s.col.puts.length + 1) s

/-- PUT. -/
def putCmd (s : State) (q i : Nat) : State :=
  withGroup s q i 7 (fun c s =>
    if gTokLog c.grp = 0 then finishEntry s q i 0x54 0
    else if gN c.grp ≤ cDstRank c.ent then finishEntry s q i 6 18
    else
      let s := markStarted s q i
      let s := setPuts s (s.col.puts ++ [⟨c, 0, 0, 0, 0, false⟩])
      putsStart (s.col.puts.length + 1) s)

def execPut (q : QueueId) (i : EntryIdx) (s : State) : Host.Outcome State Fault Refusal := .next (putCmd s q i)

/-- Send the data of a PUT from where it stands; a fault suspends it. -/
def putGo (q i : Nat) : Nat → State → State
  | 0, s => s
  | n + 1, s =>
    match s.col.puts.find? (fun p => p.cmd.q == q && p.cmd.i == i) with
    | none => s
    | some p =>
      let len := cPutLen p.cmd.ent
      if p.phase ≠ 2 ∨ len ≤ p.sent ∨ p.susp then s
      else
        let m := pieceLen p.sent len
        match dvaRead s iodDie p.cmd.ctx (cSrc p.cmd.ent + p.sent) m .normal with
        | (.ok (b, _), s) =>
          let s := originate s (putPacket s p 0 p.sent p.num b)
          putGo q i n (modPut s q i (fun p => { p with sent := p.sent + m }))
        | (.error f, s) =>
          raiseFault (modPut s q i (fun p => { p with susp := true })) p.cmd.ctx 1 0xFFFF f .read (.coll q i)

/-! ### PUT at its destination -/

def setClaims (s : State) (l : List ClaimSt) : State := { s with col := { s.col with claims := l } }

def modClaim (s : State) (n : Nat) (f : ClaimSt → ClaimSt) : State :=
  setClaims s (s.col.claims.map (fun c => if c.num = n then f c else c))

/-- Answer the module that sent `p`, with fence epoch `fe`. -/
def putAnswer (s : State) (p : Packet) (fe msg num : Nat) (body : List Byte) : State :=
  originate s { p with
    vl := 2
    dst := p.src
    src := BitVec.ofNat 16 (getF s F.RTE_MODID_MOD_ID 0)
    fepoch := BitVec.ofNat 16 fe
    hops := 0
    addr := BitVec.ofNat 64 (msg * 2 ^ 44 + num % 65536 * 2 ^ 48)
    body := body }

/-- A packet to the source of a claim, with the fence epoch of its group (Table 12.1). -/
def claimAnswer (s : State) (c : ClaimSt) (msg : Nat) (body : List Byte) : State :=
  let (g, _, s) := readGroup s c.gr
  originate s
    { vl := 2
      dst := BitVec.ofNat 16 c.src
      src := BitVec.ofNat 16 (getF s F.RTE_MODID_MOD_ID 0)
      ctxgen := ctxgenOf c.ctx c.gen
      fepoch := BitVec.ofNat 16 (gFepoch g)
      op := 0x05
      hops := 0
      addr := BitVec.ofNat 64 (msg * 2 ^ 44 + c.num * 2 ^ 48)
      token := BitVec.ofNat 32 c.token
      body := body }

/-- DATA of a claim is dropped: DUP names the module in the slot (R360). -/
def dropData (s : State) (c : ClaimSt) : State :=
  let ((_, _, src), s) := readTok s c.slot
  claimAnswer (inc s F.COL_CNT1_DUP_CNT 0) c 7 (leBytes 2 src)

/-- The slot holds the claim. -/
def holdsClaim (s : State) (c : ClaimSt) : Bool × State :=
  let ((t, st, src), s) := readTok s c.slot
  (c.live && t == c.token && st == 1 && src == c.src, s)

/-- A claim is live no longer: the data that it still holds is dropped. -/
def loseClaim (s : State) (c : ClaimSt) : State :=
  c.held.foldl (fun s _ => dropData s c) (modClaim s c.num (fun c => { c with live := false, held := [] }))

/-- CLAIM arrives (R359). A group that has no token table here, or that is read poisoned, answers BUSY
(DESIGN CHOICE, notes/assumptions/20.md). -/
def claimIn (s : State) (p : Packet) : State :=
  let k := p.ctxgen.toNat % 4096
  let tok := p.token.toNat
  let (g, bad, s) := readGroup s (fieldLE p.body 0 1 % 4096)
  if bad || gTokLog g == 0 then putAnswer s p (gFepoch g) 9 0 (leBytes 4 0)
  else
    let a := slotDpa g tok
    let ((t, st, src), s) := readTok s a
    if st ≠ 0 ∧ t = tok then putAnswer (inc s F.COL_CNT1_DUP_CNT 0) p (gFepoch g) 7 0 (leBytes 2 src)
    else if st = 1 then putAnswer s p (gFepoch g) 9 0 (leBytes 4 t)
    else
      let num := s.col.claimSeq % 65535 + 1
      let c : ClaimSt :=
        { num := num
          gr := fieldLE p.body 0 1 % 4096
          ctx := k
          gen := p.ctxgen.toNat / 4096
          slot := a
          token := tok
          src := p.src.toNat
          len := fieldLE p.body 4 7
          nv := fieldLE p.body 8 9
          ncnt := fieldLE p.body 10 10
          dst := fieldLE p.body 16 23
          got := 0
          held := []
          last := ftNow s
          expUs := gClaimUs g
          live := true }
      let s := (s.col.claims.filter (fun x => x.live && x.slot == a)).foldl loseClaim s
      let s := writeTok s a tok 1 p.src.toNat 0
      let s := { s with col := { s.col with
        claimSeq := num, claims := s.col.claims.filter (fun x => x.num != num) ++ [c] } }
      putAnswer s p (gFepoch g) 6 num []

/-- All bytes of a claim are written: the slot becomes DONE, unless software has set it FREE, the counter increments and DONE
goes back (R360). -/
def claimDone (s : State) (c : ClaimSt) : State :=
  let (holds, s) := holdsClaim s c
  let s := modClaim s c.num (fun c => { c with live := false })
  let s := if holds then writeTok s c.slot c.token 2 c.src (ftNow s) else s
  let s := if bitAt c.ncnt 7 then deliverSig s ⟨128, c.ctx, c.gen, c.nv, c.ncnt % 32⟩ else s
  wakeTokens (claimAnswer s c 8 [])

/-- Write the data that a claim holds, oldest first; a fault leaves the rest held. -/
def claimGo (num : Nat) : Nat → State → State
  | 0, s => s
  | n + 1, s =>
    match s.col.claims.find? (fun c => c.num == num && c.live) with
    | none => s
    | some c =>
      match c.held with
      | [] => if c.len ≤ c.got then claimDone s c else s
      | (off, b) :: t =>
        match dvaWrite s iodDie c.ctx (c.dst + off) b false .normal with
        | (.ok _, s) => claimGo num n (modClaim s num (fun c => { c with held := t, got := c.got + b.length }))
        | (.error f, s) => raiseFault s c.ctx 1 0xFFFF f .write (.claim num)

/-- CLAIM_EXPIRY (R360): no data of the claim for CLAIM_US; data that it holds behind a fault is dropped, and answered. -/
def claimExpiry (s : State) (gr num : Nat) : State :=
  match s.col.claims.find? (fun c => c.num == num && c.gr == gr && c.live) with
  | some c =>
    if c.last + 1000 * c.expUs ≤ ftNow s then
      let (holds, s) := holdsClaim s c
      let s := if holds then writeTok s c.slot 0 0 0 0 else s
      loseClaim (inc s F.COL_CNT2_CLAIM_EXP_CNT 0) c
    else s
  | none => s

def execClaimExpiry (gr : GroupId) (claim : BitVec 16) (s : State) : Host.Outcome State Fault Refusal :=
  .next (claimExpiry s gr claim.toNat)

/-! ### Packets of the running command (R349, R350, R354) -/

/-- Rank of the partner that sent a packet. -/
def partnerOf (r : GroupRun) (p : Packet) : Option Nat := (r.partners.find? (fun x => x.2 == p.src.toNat)).map (fun x => x.1)

/-- READY: the window opens or moves on, or the command ends with MISMATCH. -/
def readyIn (s : State) (gr : Nat) (r : GroupRun) (rank : Nat) (p : Packet) : State :=
  if p.body ≠ readyBody r then collFail s gr 0x53 rank none
  else
    collGo (modRun s gr (fun r => { r with
      grant := sset 0 r.grant rank (pOff p)
      grant0 := if sget 0 r.grant0 rank = 0 then sset 0 r.grant0 rank (pOff p) else r.grant0 })) gr

/-- DATA is held in the IOD until it is written. -/
def dataIn (s : State) (gr rank : Nat) (p : Packet) : State :=
  collGo (modRun s gr (fun r => { r with rx := r.rx ++ [⟨rank, pStep p, pOff p, p.body⟩] })) gr

/-- A packet for the running command. -/
def runPacket (s : State) (gr : Nat) (r : GroupRun) (p : Packet) : State :=
  match partnerOf r p with
  | none => s
  | some rank =>
    match pMsg p with
    | 0 => dataIn s gr rank p
    | 1 => readyIn s gr r rank p
    | _ => s

/-- The command has not yet got its list, so that its packets wait. -/
def listPending (r : GroupRun) : Bool := entOp r.cmd.ent == 6 && r.moves.isEmpty

/-- A packet of group traffic: for an admitted TEVENT, for the running command, ahead of its command, or of one that has
ended, which counts for a VETO (R362) and for a gate value (R342). -/
def groupPacket (s : State) (p : Packet) : State :=
  let gr := pGroup p
  let (g, _, s) := readGroup s gr
  let x := groupOf s gr
  let ahead (n : Nat) : Bool := decide ((pHi p + 65536 - n) % 65536 < 32768)
  let keep (s : State) : State := setGroup s gr { x with early := x.early ++ [p] }
  let ended (s : State) : State :=
    if pMsg p = 4 then inc s F.COL_CNT2_VETO_LATE_CNT 0 else if pMsg p = 0 then lateGate s gr p else s
  if gState g = 2 then inc s F.COL_CNT0_ABORT_RX_CNT 0
  else
    match tevOf s gr (pHi p), x.run with
    | some t, _ => tevPacket s gr t p
    | none, some r =>
      if pHi p = cSeqOf r.cmd.ent then (if listPending r then keep s else runPacket s gr r p)
      else if ahead (cSeqOf r.cmd.ent) then keep s
      else ended s
    | none, none => if ahead (gNextSeq g) then keep s else ended s

/-- Packets that came ahead of the command that now runs. -/
def takeEarly (s : State) (gr : Nat) : State :=
  let x := groupOf s gr
  match x.run with
  | none => s
  | some r =>
    let (now, later) := x.early.partition (fun p => pHi p == cSeqOf r.cmd.ent)
    now.foldl (fun s p => match (groupOf s gr).run with
      | some r => if pHi p = cSeqOf r.cmd.ent then runPacket s gr r p else s
      | none => s) (setGroup s gr { x with early := later })

/-! ### Start (R348) -/

/-- Partners that send data to this member. -/
def sendingPartners (c : CollCmd) : List Nat :=
  if entOp c.ent = 9 ∨ entOp c.ent = 6 then []
  else if isRing (entOp c.ent) c.ent then [ringPrev c].filter (fun r => r != gRank c.grp)
  else if goesUp (entOp c.ent) then treePeers c
  else match treeParent c with | some p => [p] | none => []

/-- SHARD_PERMUTE reads and checks its list; a fault suspends it. -/
def permBegin (s : State) (gr : Nat) : State :=
  match (groupOf s gr).run with
  | none => s
  | some r =>
    let n := fieldLE r.cmd.ent 40 43
    match dvaRead s iodDie r.cmd.ctx (cSrc r.cmd.ent) (32 * n) .normal with
    | (.error f, s) => collFault s gr r f .read
    | (.ok (b, poisoned), s) =>
      let l := movesOf n b
      let me := gRank r.cmd.grp
      let ranks := ((l.filter (fun m => m.src == me || m.dst == me)).flatMap (fun m => [m.src, m.dst])).eraseDups
      let (ps, bad, s) := readPartners r.cmd.grp (ranks.filter (fun x => x != me && decide (x < gN r.cmd.grp))) s
      let s := modRun s gr (fun r => { r with moves := b, partners := ps, susp := false })
      match listRefusal (gN r.cmd.grp) (fieldLE r.cmd.ent 44 47) (poisoned || !movesReserved n b) l with
      | some (st, d) => collFail s gr st d none
      | none => if bad then collFail s gr 0x54 0 none else collGo (takeEarly s gr) gr

/-- A command starts. -/
def startCmd (s : State) (gr : Nat) (c : CollCmd) : State :=
  let x := groupOf s gr
  let (ps, bad, s) := readPartners c.grp (commandPartners c) s
  let r : GroupRun :=
    { cmd := c
      partners := ps
      grant := []
      grant0 := []
      sent := []
      recv := []
      rx := []
      acc := []
      pos := 0
      self := 0
      stg := 0
      moves := []
      began := false
      susp := false
      contribs := []
      lval := none
      gval := [] }
  let s := putGroup (setGroup s gr { x with waiting := x.waiting.erase c, run := some r }) gr (cSeqOf c.ent) 1
  if bad then collFail s gr 0x54 0 none
  else
    match entOp c.ent with
    | 6 => permBegin s gr
    | 9 => s
    | op =>
      let s := if op = 0x10 then
          takeHeld (armTimeout s iodDie (cSrc c.ent + 1000 * fieldLE c.ent 32 35) (.gateDeadline gr)) gr
        else s
      let s := (sendingPartners c).foldl (fun s p => sendReady s r p (firstWindow s)) s
      collGo (takeEarly s gr) gr

/-- SEQUENCED_START: the waiting command whose CSEQ equals NEXTSEQ starts; on a BROKEN group every one ends (R348, R354). -/
def sequencedStart (s : State) (gr : Nat) : State :=
  let x := groupOf s gr
  match x.run with
  | some _ => s
  | none =>
    let (g, _, s) := readGroup s gr
    if gState g = 2 then
      x.waiting.foldl (fun s c => finishEntry (dropTev s gr (cSeqOf c.ent)) c.q c.i 0x52 0) (setGroup s gr { x with waiting := [] })
    else
      match x.waiting.find? (fun c => cSeqOf c.ent == gNextSeq g) with
      | some c => startCmd s gr c
      | none => s

def execSequencedStart (gr : GroupId) (s : State) : Host.Outcome State Fault Refusal := .next (sequencedStart s gr)

/-! ### What reaches the engine -/

/-- R389 and R255 at the destination: the packet's fence epoch and its context and generation are current. -/
def collAccept (s : State) (p : Packet) : Bool × State :=
  let k := p.ctxgen.toNat % 4096
  let x := ctxOf s k
  if p.fepoch.toNat ≠ (sget FenceEnt.reset s.fence k).fepoch then (false, inc s F.RAS_CNT1_FENCE_DROP_CNT 0)
  else if x.state = 0 ∨ x.state = 4 ∨ x.gen ≠ p.ctxgen.toNat / 4096 then (false, inc s F.CTX_CNT1_STALE_IOD_CNT 0)
  else (true, s)

/-- The PUT that an answer names: the oldest that waits for one, or the one under the claim. -/
def putFor (s : State) (p : Packet) (phase : Nat) : Option PutSt :=
  s.col.puts.find? (fun x => x.phase == phase && x.dst == p.src.toNat && cToken x.cmd.ent == p.token.toNat &&
    (phase == 1 || x.num == pHi p))

/-- GRANT: the PUT sends its data (R360). -/
def grantIn (s : State) (p : Packet) : State :=
  match putFor s p 1 with
  | some x =>
    let s := modPut s x.cmd.q x.cmd.i (fun x => { x with phase := 2, num := pHi p })
    putGo x.cmd.q x.cmd.i (cPutLen x.cmd.ent + 1) s
  | none => s

/-- The answer of a PUT whose queue timeout has acted: its completion, discarded and counted (R342). -/
def latePut (s : State) (p : Packet) : State :=
  match s.col.latePuts.find? (fun x => x.dst == p.src.toNat && cToken x.cmd.ent == p.token.toNat && x.num == pHi p) with
  | some x => completeAfter { s with col := { s.col with latePuts := s.col.latePuts.erase x } } iodDie
  | none => s

/-- DUP: the PUT ends DUPLICATE (R359, R360). -/
def dupIn (s : State) (p : Packet) : State :=
  match (if pHi p = 0 then putFor s p 1 else putFor s p 2) with
  | some x => putDone s x 0x57 (fieldLE p.body 0 1)
  | none => latePut s p

/-- DONE: the PUT ends OK. -/
def doneIn (s : State) (p : Packet) : State :=
  match putFor s p 2 with
  | some x => putDone s x 0 0
  | none => latePut s p

/-- BUSY: the PUT ends TOKEN_BUSY; DETAIL holds the token. -/
def busyIn (s : State) (p : Packet) : State :=
  match putFor s p 1 with
  | some x => putDone s x 0x58 (fieldLE p.body 0 3)
  | none => latePut s p

/-- Group traffic of a command that the group runs. -/
def forRun (s : State) (p : Packet) : Bool :=
  match (groupOf s (pGroup p)).run with
  | some r => decide (cSeqOf r.cmd.ent = pHi p) && (partnerOf r p).isSome
  | none => false

/-- DATA: of the claim that its slot holds, of a claim that is live no longer, or of a group's command. Which one its header does
not say: the claims that this module has granted decide (DESIGN CHOICE, notes/assumptions/20.md). -/
def collDataIn (s : State) (p : Packet) : State :=
  match s.col.claims.find? (fun c => c.num == pHi p && c.token == p.token.toNat && c.src == p.src.toNat) with
  | some c =>
    if !c.live && forRun s p then groupPacket s p
    else
      let (holds, s) := holdsClaim s c
      if holds then
        let s := modClaim s c.num (fun c => { c with held := c.held ++ [(pOff p, p.body)], last := ftNow s })
        if c.held.isEmpty then claimGo c.num 3 s else s
      else dropData s c
  | none => groupPacket s p

/-- ABORT (R354): the running command, or the one for a later CSEQ, ends; the group becomes BROKEN and the notice goes on. Under
a live claim it is the notice of a PUT, which breaks no group; its claim expires (DESIGN CHOICE, notes/assumptions/20.md). -/
def abortIn (s : State) (p : Packet) : State :=
  let gr := pGroup p
  let s := inc s F.COL_CNT0_ABORT_RX_CNT 0
  let (g, _, s) := readGroup s gr
  let src := p.src.toNat
  let later (n : Nat) : Bool := decide ((pHi p + 65536 - n) % 65536 < 32768)
  if s.col.claims.any (fun c => c.live && c.num == pHi p && c.token == p.token.toNat && c.src == src) then s
  else if gState g = 2 then s
  else
    match (groupOf s gr).run with
    | some r => if later (cSeqOf r.cmd.ent) then collFail s gr 0x50 src (some src) else s
    | none =>
      if later (gNextSeq g) then
        match (groupOf s gr).waiting.find? (fun c => cSeqOf c.ent == pHi p) with
        | some c => finishEntry (leaveWaiting s gr c (some src)) c.q c.i 0x50 src
        | none => putGroup s gr (gNextSeq g) 2
      else s

/-- A packet of OP COLL. -/
def collIn (s : State) (p : Packet) : State :=
  match pMsg p with
  | 0 => collDataIn s p
  | 5 => claimIn s p
  | 6 => grantIn s p
  | 7 => dupIn s p
  | 8 => doneIn s p
  | 9 => busyIn s p
  | _ => groupPacket s p

/-- A collective packet that R389 and R255 let in. -/
def collDeliver (s : State) (p : Packet) : State :=
  match collAccept s p with
  | (true, s) => if p.op = 0x06 then abortIn s p else collIn s p
  | (false, s) => s

/-- The packet bears OP COLL and message `m`. -/
def isMsg (p : Packet) (m : Nat) : Bool := p.op == 0x05 && pMsg p == m

/-- The step of message `m`, for a packet that is one. -/
def collMsg (s : State) (m : Nat) (p : Packet) : State := if isMsg p m then collDeliver s p else s

def execReady (p : Packet) (s : State) : Host.Outcome State Fault Refusal := .next (collMsg s 1 p)
def execCollData (p : Packet) (s : State) : Host.Outcome State Fault Refusal := .next (collMsg s 0 p)
def execArmed (p : Packet) (s : State) : Host.Outcome State Fault Refusal := .next (collMsg s 2 p)
def execAllarmed (p : Packet) (s : State) : Host.Outcome State Fault Refusal := .next (collMsg s 3 p)
def execVeto (p : Packet) (s : State) : Host.Outcome State Fault Refusal := .next (collMsg s 4 p)
def execClaim (p : Packet) (s : State) : Host.Outcome State Fault Refusal := .next (collMsg s 5 p)
def execGrant (p : Packet) (s : State) : Host.Outcome State Fault Refusal := .next (collMsg s 6 p)
def execDup (p : Packet) (s : State) : Host.Outcome State Fault Refusal := .next (collMsg s 7 p)
def execDone (p : Packet) (s : State) : Host.Outcome State Fault Refusal := .next (collMsg s 8 p)
def execBusy (p : Packet) (s : State) : Host.Outcome State Fault Refusal := .next (collMsg s 9 p)

/-- ABORT. -/
def execAbort (p : Packet) (s : State) : Host.Outcome State Fault Refusal :=
  .next (if p.op = 0x06 then collDeliver s p else s)

/-! ### Lost packets, retries, resets -/

/-- LINK_LOST of a collective packet of this module (R325, R330): its command ends, `link` in DETAIL. -/
def collLost (s : State) (link : Nat) (p : Packet) : State :=
  let put := s.col.puts.find? (fun x => x.dst == p.dst.toNat && cToken x.cmd.ent == p.token.toNat &&
    ((pMsg p == 5 && x.phase == 1) || (pMsg p == 0 && x.phase == 2 && x.num == pHi p)))
  match put with
  | some x => if p.op = 0x05 then putDone s x 0x51 link else s
  | none =>
    if p.op ≠ 0x05 ∨ 5 ≤ pMsg p then s
    else
      match (groupOf s (pGroup p)).run with
      | some r => if cSeqOf r.cmd.ent = pHi p then collFail s (pGroup p) 0x51 link none else s
      | none => s

/-- A RETRY of a collective command's fault record: it goes on from what it kept (R264). -/
def collRetry (s : State) (q i : Nat) : State :=
  match s.col.groups.find? (fun g => match g.2.run with | some r => r.cmd.q == q && r.cmd.i == i | none => false) with
  | some (gr, x) =>
    match x.run with
    | some r => if listPending r then permBegin s gr else collGo (modRun s gr (fun r => { r with susp := false })) gr
    | none => s
  | none =>
    match s.col.puts.find? (fun p => p.cmd.q == q && p.cmd.i == i) with
    | some p => putGo q i (cPutLen p.cmd.ent + 1) (modPut s q i (fun p => { p with susp := false }))
    | none => match entryOf s q i with
      | some e => if entOp e.raw = 0x12 ∧ e.prog ≠ 0 then sealWrite s q i else s
      | none => s

def claimRetry (s : State) (n : Nat) : State :=
  match s.col.claims.find? (fun c => c.num == n) with
  | some c => claimGo n (c.held.length + 2) s
  | none => s

/-- COL_GCMD RESET (R365): ignored while the group is RUNNING. -/
def colGcmdReset (s : State) (gr seq : Nat) : State :=
  match (groupOf s gr).run with
  | some _ => setF s F.COL_STS_IGNORED 0 1
  | none => putGroup s gr seq 0

def execColGcmdReset (gr : GroupId) (seq : BitVec 16) (s : State) : Host.Outcome State Fault Refusal :=
  .next (colGcmdReset s gr seq.toNat)

/-- A collective entry's own queue timeout has acted, its record being written: a sequenced command ends under R354. -/
def collTimeout (s : State) (q i : Nat) : State :=
  match s.col.groups.find? (fun g => match g.2.run with | some r => r.cmd.q == q && r.cmd.i == i | none => false) with
  | some (gr, x) =>
    match x.run with
    | some r => leaveRun (if entOp r.cmd.ent = 0x10 then skipAll s r else s) gr false none
    | none => s
  | none =>
    match s.col.groups.findSome? (fun g => (g.2.waiting.find? (fun c => c.q == q && c.i == i)).map (fun c => (g.1, c))) with
    | some (gr, c) => leaveWaiting s gr c none
    | none =>
      let (mine, others) := s.col.puts.partition (fun p => p.cmd.q == q && p.cmd.i == i)
      let s := { s with col := { s.col with puts := others, latePuts := s.col.latePuts ++ mine.filter (fun (p : PutSt) => p.phase != 0) } }
      let s := { s with col := { s.col with waits := s.col.waits.filter (fun c => !(c.q == q && c.i == i)) } }
      let s := (List.range 9).foldl (fun s d => disarm s d (.seal q i)) s
      putsStart (s.col.puts.length + 1) s

/-- A PUT ends without resuming: its notice goes on the channel that its claim names, once it has one (R269). -/
def putAbort (s : State) (p : PutSt) : State :=
  let s := setPuts s (s.col.puts.erase p)
  if p.phase = 2 then originate s { putPacket s p 0 0 p.num [] with vl := 2, op := 0x06 } else s

/-- Every collective command of context `k` ends without resuming, and tells its partners (R269, R271): the entries complete
elsewhere. -/
def collFence (s : State) (k : Nat) : State :=
  let s := s.col.groups.foldl (fun s g =>
    let x := groupOf s g.1
    let s := x.held.foldl (fun s c => if c.ctx = k then disarm s iodDie (.contribHold c.q c.i) else s) s
    let s := setGroup s g.1 { groupOf s g.1 with held := x.held.filter (fun c => c.ctx != k) }
    let s := match x.run with
      | some r => if r.cmd.ctx = k then leaveRun s g.1 false none else s
      | none => s
    (x.waiting.filter (fun c => c.ctx == k)).foldl (fun s c => leaveWaiting s g.1 c none) s) s
  let s := (s.col.puts.filter (fun p => p.cmd.ctx == k)).foldl putAbort s
  { s with col := { s.col with
      claims := s.col.claims.filter (fun c => c.ctx != k)
      latePuts := s.col.latePuts.filter (fun p => p.cmd.ctx != k)
      waits := s.col.waits.filter (fun c => c.ctx != k) } }

end Sys2Proof.Machine
end

