-- ==== Sys2Proof/Machine/Admission.lean ====
section
/-! DEFINITION. Machine/Admission.lean: the checks of collective entries, admission, MCOPY, CREATE and CTX_SET (R262, R280,
R282, R288 to R290, Table 12.2). -/

namespace Sys2Proof.Machine

/-! ### Collective bodies (R280, R347) -/

def badGroup (off : Nat) (e : List Byte) : Option Nat := bad off (decide (4096 ≤ fieldLE e off (off + 1)))

def badAlign (off n : Nat) (e : List Byte) : Option Nat := bad off (fieldLE e off (off + 7) % n != 0)

/-- The first bad byte of a collective entry's body. -/
def collBad (e : List Byte) : Option Nat :=
  let dt (n : Nat) := bad 20 (decide (n < fieldLE e 20 20))
  let red := bad 21 (decide (2 < fieldLE e 21 21))
  let bufs := [badAlign 24 64 e, badAlign 32 64 e]
  match entOp e with
  | 1 => firstBad ([badGroup 16 e, dt 1, red, bad 22 (decide (1 < fieldLE e 22 22)), firstNonzero e 23 23] ++ bufs ++
      [firstNonzero e 48 63])
  | 2 => firstBad ([badGroup 16 e, dt 1, red, firstNonzero e 22 23] ++ bufs ++ [firstNonzero e 48 63])
  | 3 => firstBad ([badGroup 16 e, dt 2, firstNonzero e 21 23] ++ bufs ++ [firstNonzero e 48 63])
  | 4 => firstBad ([badGroup 16 e, dt 2, firstNonzero e 21 23] ++ bufs ++ [firstNonzero e 50 63])
  | 5 => firstBad [badGroup 16 e, firstNonzero e 20 63]
  | 6 => firstBad ([badGroup 16 e, firstNonzero e 20 23] ++ bufs ++
      [bad 40 (decide (fieldLE e 40 43 = 0 ∨ 65536 < fieldLE e 40 43)), firstNonzero e 48 63])
  | 7 => firstBad ([badGroup 16 e] ++ bufs ++ [bad 40 (fieldLE e 40 43 == 0), bad 46 (bitsOf (fieldLE e 46 46) 6 5 != 0),
      firstNonzero e 47 63])
  | 8 => firstBad [badGroup 16 e, firstNonzero e 18 19, firstNonzero e 24 63]
  | 9 => firstBad [badGroup 16 e, dt 2, firstNonzero e 21 21, firstNonzero e 40 63]
  | 0x0A => firstBad [badGroup 16 e, firstNonzero e 20 63]
  | 0x10 => firstBad [badGroup 16 e, bad 36 (decide (fieldLE e 36 37 = 0 ∨ 128 < fieldLE e 36 37)), firstNonzero e 38 63]
  | 0x11 => firstBad [bad 28 (decide (2 ≤ fieldLE e 28 28)), bad 29 (decide (32 ≤ fieldLE e 29 29)), firstNonzero e 30 31,
      bad 32 (fieldLE e 32 35 % 32 != 0), firstNonzero e 36 47, badGroup 48 e, firstNonzero e 50 63]
  | 0x12 => firstBad [firstNonzero e 22 23, badAlign 32 32 e, firstNonzero e 40 63]
  | _ => some 0

/-- The first bad byte of an entry of a queue. -/
def entryBad (s : State) (d e : List Byte) : Option Nat :=
  let body := if qClass d = 2 ∧ entOp e ≠ 0 then collBad e else classBad (qClass d) (ctxOf s (qCtx d)).ncore e
  match body with
  | some 0 => some 0
  | b => firstBad [headerBad e, b]

/-! ### Admission (R282, R305) -/

/-- The binding of an entry: that of its model and adapter for a LAUNCH, none for any other. -/
def entryBinding (s : State) (d e : List Byte) : Except (Nat × Nat) (Option Nat × Nat × Option (Nat × Nat)) :=
  if qClass d = 0 ∧ entOp e = 1 then launchBinding s e else .ok (none, 0, none)

/-- Admit an entry whose NOTBEFORE has passed. -/
def admitNow (s : State) (q i : Nat) (e : EntrySt) : State :=
  let x := queueOf s q
  if entBarrier e.raw && !(earlier x i).isEmpty then s
  else
    match entryBinding s x.desc e.raw with
    | .error (st, d) => completeEntry s q i st d false
    | .ok (slot, ep, ad) => admitEntry (takeBinding s slot ad) q i { e with slot := slot, epoch := ep, adapter := ad }

/-- ENTRY_ADMISSION: the next step of a fetched entry towards admission. -/
def entryAdmission (s : State) (q i : Nat) : State :=
  let x := queueOf s q
  match entryOf s q i with
  | none => s
  | some e =>
    if x.state ≠ 1 ∨ ¬(e.stage = 0 ∨ e.stage = 2) ∨ inOrder x i = false ∨ admissible s x.desc = false then s
    else
      match entryBad s x.desc e.raw with
      | some off => completeEntry s q i 6 off false
      | none =>
        let t := entNotBefore e.raw
        if e.stage = 0 ∧ t ≠ 0 then
          match armSched s iodDie t (.notBefore q i) with
          | some s => setEntry s q i (some { e with stage := 1 })
          | none => completeEntry (timerFull s iodDie) q i 0x0A 0 false
        else admitNow s q i e

def execEntryAdmission (q : QueueId) (i : EntryIdx) (s : State) : Host.Outcome State Fault Refusal :=
  .next (entryAdmission s q i)

/-! ### MCOPY (Table 10.4) -/

/-- Copy from byte `prog` on in pieces of 64 KiB; a fault suspends the entry (R264, as a kiln job). Poison goes with each
line. -/
def mcopyGo (q i : Nat) : Nat → State → State
  | 0, s => s
  | n + 1, s =>
    match entryOf s q i with
    | none => s
    | some e =>
      let k := qCtx (queueOf s q).desc
      let len := fieldLE e.raw 32 39
      if len ≤ e.prog then finishEntry s q i 0 0
      else
        let src := fieldLE e.raw 16 23 + e.prog
        let dst := fieldLE e.raw 24 31 + e.prog
        let m := min (64 - dst % 64) (len - e.prog)
        let fault (s : State) (f : XFault) (acc : Access) : State :=
          raiseFault s k 2 ((translate s iodDie k dst .write).1 |> fun r => match r with | .ok d => dpaMd d | .fault _ _ _ => 0)
            f acc (.kiln q i)
        match dvaRead s iodDie k src m .stream with
        | (.error f, s) => fault s f .read
        | (.ok (b, p), s) =>
          match dvaWrite s iodDie k dst b p .stream with
          | (.error f, s) => fault s f .write
          | (.ok _, s) => mcopyGo q i n (setEntry s q i (some { e with prog := e.prog + m }))

/-- MCOPY: an admitted one starts, and runs on unless a fault suspends it. -/
def mcopy (s : State) (q i : Nat) : State :=
  match entryOf s q i with
  | some e =>
    if e.stage = 3 ∧ qClass (queueOf s q).desc = 1 ∧ entOp e.raw = 1 then
      mcopyGo q i (fieldLE e.raw 32 39 + 1) (markStarted s q i)
    else s
  | none => s

def execMcopy (q : QueueId) (i : EntryIdx) (s : State) : Host.Outcome State Fault Refusal := .next (mcopy s q i)

/-! ### Checks of a context's fields (R288, R289) -/

/-- Scheduling fields under check. -/
structure CtxFields where
  ncore : Nat
  share : Nat
  prio : Nat
  cdmask : Nat
  spmseg : Nat
  dsmu : Nat
  tmpl : Nat
  emberSize : Nat
  deriving DecidableEq, Repr

/-- The refusals of R288. -/
def fieldsBad (f : CtxFields) : Bool :=
  let n := popcount 8 f.cdmask
  decide (f.ncore = 0 ∨ 128 < f.ncore ∨ f.share = 0 ∨ f.cdmask = 0 ∨ 1 < f.prio ∨ f.spmseg = 0 ∨ 64 < f.spmseg ∨ 448 < f.dsmu ∨
    f.tmpl % 64 ≠ 0 ∨ 16 < cdiv f.ncore (max 1 n) ∨ f.emberSize * 65536 < 65536 + f.ncore * 4718592 + n * f.dsmu * 65536)

/-- First bad byte of a CTX_SET whose values CREATE would refuse. Where CDMASK and NCORE are bad only together, or with the ember
area, CDMASK is where it changes, else NCORE (DESIGN CHOICE, notes/assumptions/19.md). -/
def ctxSetOff (f : CtxFields) (mask : Nat) : Nat :=
  if f.share = 0 then 18 else if 1 < f.prio then 20 else if f.cdmask = 0 then 21
  else if f.ncore = 0 ∨ 128 < f.ncore then 22
  else if f.cdmask ≠ mask then 21
  else 22

/-- A bind-template record is refused (R289). -/
def recordBad (b : List Byte) (p : Bool) : Bool :=
  p || decide (2 < fieldLE b 12 12 ∨ 15 < fieldLE b 13 13 ∨ 64 < fieldLE b 15 15) || (b.drop 36).any (fun x => x != 0)

/-- Read the bind-template records of `n` virtual cores: whether one is refused. -/
def templateBad (tmpl : Nat) : Nat → State → Bool × State
  | 0, s => (false, s)
  | n + 1, s =>
    if dpaLimit < tmpl + 64 * (n + 1) then (true, s)
    else
      let (b, p, s) := devRead s (tmpl + 64 * n) 64
      if recordBad b p then (true, s) else templateBad tmpl n s

/-! ### CREATE (R254, R262, R273, R288) -/

/-- Result of a CTX_CMD that completes. -/
def ctxResult (s : State) (k r : Nat) : State :=
  setF (setF (setF s F.CTX_CMD_STS_RESULT 0 r) F.CTX_CMD_STS_BUSY 0 0) F.CTX_CMD_STS_GEN 0 (ctxOf s k).gen

def ctxBusy (s : State) : Bool := getF s F.CTX_CMD_STS_BUSY 0 == 1

/-- Fields of a table entry. -/
def fieldsOf (b : List Byte) : CtxFields :=
  ⟨fieldLE b 28 29, fieldLE b 32 33, fieldLE b 34 34, fieldLE b 35 35, fieldLE b 36 36, fieldLE b 38 39, fieldLE b 40 47,
    fieldLE b 24 27⟩

/-- Host fields and reserved bytes of a table entry are refused. -/
def tableBad (b : List Byte) : Bool :=
  fieldsBad (fieldsOf b) || fieldLE b 8 15 % 4096 != 0 || decide (dpaLimit < fieldLE b 8 15 + 4096) || fieldLE b 16 23 % 65536 != 0 || decide (2 ^ 48 ≤ fieldLE b 16 23) ||
    fieldLE b 30 31 != 0 || (b.getD 37 0 != 0) || (b.drop 48).any (fun x => x != 0)

/-- The ember area's translations fit in the store of every die of a mask. -/
def emberFits (s : State) (mask : Nat) (l : List XltEntry) : Bool := (maskBits mask).all (fun d => locksFit s d l)

def emberLock (s : State) (mask : Nat) (l : List XltEntry) : State := (maskBits mask).foldl (fun s d => lockAll s d l) s

/-- Write zero to pending tokens and directory (R299). -/
def emberClear (s : State) (k : Nat) : State :=
  let x := ctxOf s k
  let die := homeCd s k 0
  let s := emberWrite s die k (emberOf s k + 0x1000) (leBytes (64 * x.ncore) 0)
  emberWrite s die k (emberOf s k + 0x3000) (leBytes (32 * x.ncore) 0)

/-- The context as CREATE starts it. -/
def freshCtx (x : CtxSt) (b : List Byte) : CtxSt :=
  { CtxSt.reset with
    state := 1
    gen := x.gen
    dieGen := x.gen
    ptRoot := fieldLE b 8 15
    emberBase := fieldLE b 16 23
    emberSize := fieldLE b 24 27
    ncore := fieldLE b 28 29
    share := fieldLE b 32 33
    prio := fieldLE b 34 34
    cdmask := fieldLE b 35 35
    spmseg := fieldLE b 36 36
    dsmu := fieldLE b 38 39
    tmpl := fieldLE b 40 47 }

/-- What scheduler processors and the engine keep of a context starts anew. -/
def clearSched (s : State) (k : Nat) : State :=
  let s := (List.range 128).foldl (fun s v => setVc s k v VcSt.reset) s
  let s := (List.range 8).foldl (fun s cd =>
    let x := schedOf s cd
    let zero := [0, 1, 2, 3]
    setSched s cd { x with
      credit := zero.foldl (fun m c => sset 0 m (4 * k + c) 0) x.credit
      used := zero.foldl (fun m c => sset 0 m (4 * k + c) 0) x.used
      oldShare := sset none x.oldShare k none
      dsmAlloc := x.dsmAlloc.filter (fun a => a.1 != k)
      reclaimed := x.reclaimed.filter (fun j => j != k) }) s
  { s with col := { s.col with sealNum := sset 0 s.col.sealNum k 0 } }

/-- CTX_CMD CREATE. In manufacturing-test mode no context is created (R35); the RESULT the spec does not state there is a free
value (notes/assumptions/5.md). -/
def create (s : State) (k : Nat) : State :=
  if ctxBusy s then setF s F.CTX_CMD_STS_OVERRUN 0 1
  else if getF s F.DBG_STS_MFG_TEST 0 = 1 then
    let (v, s) := freshBits s
    ctxResult s k (v.toNat % 8)
  else
    let x := ctxOf s k
    if x.state ≠ 0 then ctxResult s k 1
    else
      let (b, p, s) := devRead s (ctxEntryAddr s k) 64
      if p then ctxResult s k 3
      else if tableBad b then ctxResult s k 4
      else
        let (bad, s) := templateBad (fieldLE b 40 47) (fieldLE b 28 29) s
        if bad then ctxResult s k 4
        else
          match pinCheck s k (fieldLE b 8 15) x.gen true (pagesOf (fieldLE b 16 23) (fieldLE b 24 27 * 65536)) with
          | (.error _, s) => ctxResult s k 2
          | (.ok l, s) =>
            if !emberFits s (fieldLE b 35 35) l then ctxResult s k 2
            else
              let s := emberLock s (fieldLE b 35 35) l
              let s := putCtx (clearSched s k) k (freshCtx x b)
              ctxResult (emberClear (putEndinfo s k 0) k) k 0

def execCreate (k : CtxId) (s : State) : Host.Outcome State Fault Refusal := .next (create s k)

/-! ### CTX_SET (R290) -/

/-- A work item of context `k` runs or waits. -/
def itemsRun (s : State) (k : Nat) : Bool := s.items.any (fun w => w.ctx == k)

/-- Resident cores whose virtual core moves to another home or falls away. -/
def movedCores (s : State) (k mask ncore : Nat) : List Nat :=
  (ctxCores s k).filter (fun c => match (coreOf s c).bound with
    | some b => decide (ncore ≤ b.vcore) || (maskBits mask).getD (b.vcore % (max 1 (maskBits mask).length)) 0 != cdOf c
    | none => false)

/-- CTX_SET: SHARE and PRIO alone act at the next accounting period; else it waits until no work item of the context runs,
banks the cores that move, writes the fields and completes. -/
def ctxSet (s : State) (q i : Nat) : State :=
  match mgmtReady s q i 1 with
  | none => s
  | some e =>
    let k := fieldLE e 16 17 % 4096
    let share := fieldLE e 18 19
    let prio := fieldLE e 20 20
    let mask := fieldLE e 21 21
    let ncore := fieldLE e 22 23
    let x := ctxOf s k
    let fail (s : State) (off : Nat) : State := finishEntry (setCtx s k { ctxOf s k with setHold := false }) q i 6 off
    if x.state ≠ 1 then finishEntry s q i 9 x.state
    else if fieldsBad ⟨ncore, share, prio, mask, x.spmseg, x.dsmu, x.tmpl, x.emberSize⟩ then
      fail s (ctxSetOff ⟨ncore, share, prio, mask, x.spmseg, x.dsmu, x.tmpl, x.emberSize⟩ x.cdmask)
    else
      let (bad, s) := templateBad x.tmpl ncore s
      if bad then fail s 22
      else if (mask ≠ x.cdmask ∨ ncore ≠ x.ncore) ∧ itemsRun s k = true then setCtx s k { x with setHold := true }
      else
        let added := (mask ||| x.cdmask) - x.cdmask
        match pinCheck s k x.ptRoot x.gen true (pagesOf x.emberBase (x.emberSize * 65536)) with
        | (.error _, s) => fail s 21
        | (.ok l, s) =>
          if !emberFits s added l then fail s 21
          else
            let s := emberLock s added l
            let s := (movedCores s k mask ncore).foldl (fun s c => applyHeld (saveCore (spillAll s c) c 0 [] 2) c) s
            let s := (List.range 8).foldl (fun s cd =>
              let y := schedOf s cd
              if (sget none y.oldShare k).isSome then s
              else setSched s cd { y with oldShare := sset none y.oldShare k (some (x.share, x.prio)) }) s
            let s := setCtx s k { ctxOf s k with
              share := share
              prio := prio
              cdmask := mask
              ncore := ncore
              setHold := false }
            let s := devWrite s (ctxEntryAddr s k + 28) (leBytes 2 ncore)
            let s := devWrite s (ctxEntryAddr s k + 32) (leBytes 2 share ++ leBytes 1 prio ++ leBytes 1 mask)
            finishEntry s q i 0 0

def execCtxSet (q : QueueId) (i : EntryIdx) (s : State) : Host.Outcome State Fault Refusal := .next (ctxSet s q i)

end Sys2Proof.Machine
end

