-- ==== Sys2Proof/Machine/Storage.lean ====
section
/-! DEFINITION. Machine/Storage.lean: storage targets, NVMe commands and Ethernet ports (R411 to R415). -/

namespace Sys2Proof.Machine

def tgtOf (s : State) (n : Nat) : TgtSt := sget TgtSt.reset s.sto.targets n

def setTgt (s : State) (n : Nat) (x : TgtSt) : State := { s with sto := { s.sto with targets := sset TgtSt.reset s.sto.targets n x } }

def setCmds (s : State) (l : List NvmeCmd) : State := { s with sto := { s.sto with cmds := l } }

/-- The port's link is up. -/
def ethUp (s : State) (p : Nat) : Bool := getF s F.ETH_STS_LINK p == 1

/-- Target `n` has a queue pair on port `p`. -/
def reaches (s : State) (n p : Nat) : Bool := if p = 0 then (tgtOf s n).eth0 else (tgtOf s n).eth1

/-- Ports that can take a command of target `n`. -/
def livePorts (s : State) (n : Nat) : List Nat := [0, 1].filter (fun p => reaches s n p && ethUp s p)

/-- Commands outstanding on port `p` for target `n`. -/
def onPort (s : State) (n p : Nat) : Nat := (s.sto.cmds.filter (fun c => c.tgt == n && c.port == some p)).length

def ethOf (s : State) (p : Nat) : EthSt := sget EthSt.reset s.sto.ports p

def modPort (s : State) (p : Nat) (f : EthSt → EthSt) : State :=
  { s with sto := { s.sto with ports := sset EthSt.reset s.sto.ports p (f (ethOf s p)) } }

/-- Send on port `p`, or wait while flow control pauses it (R411). -/
def portSend (s : State) (p : Nat) (m : OutMsg) : State :=
  if (ethOf s p).paused then modPort s p (fun e => { e with waiting := e.waiting ++ [m] }) else emit s m

/-- Send command `c` on port `p`. -/
def sendCmd (s : State) (c : NvmeCmd) (p : Nat) : State :=
  let s := setCmds s (s.sto.cmds.map (fun d => if d.id = c.id then { c with port := some p, since := ftNow s } else d))
  portSend s p (.nvme c.id p c.tgt c.isWrite c.lba c.nlb c.data)

/-- What has waited for port `p` to resume leaves, but for commands that are no longer outstanding on it. -/
def portResume (s : State) (p : Nat) : State :=
  let l := (ethOf s p).waiting
  let live (m : OutMsg) : Bool := match m with
    | .nvme id _ _ _ _ _ _ => s.sto.cmds.any (fun c => c.id == id && c.port == some p)
    | _ => true
  (l.filter live).foldl emit (modPort s p (fun e => { e with waiting := [] }))

/-- Send the commands that wait, in order of issue, each on the port with fewer outstanding, up to the queue depth. -/
def sendWaiting (s : State) : State :=
  s.sto.cmds.foldl (fun s c =>
    if c.port.isSome then s
    else
      let room := (livePorts s c.tgt).filter (fun p => decide (onPort s c.tgt p < (tgtOf s c.tgt).qdepth))
      match room with
      | [] => s
      | [p] => sendCmd s c p
      | p :: r :: _ => sendCmd s c (if onPort s c.tgt p ≤ onPort s c.tgt r then p else r)) s

/-- Issue a command. -/
def nvmeIssue (s : State) (tgt : Nat) (isWrite : Bool) (lba nlb : Nat) (data : List Byte) (owner : StoOwner) : State :=
  let c : NvmeCmd := ⟨s.sto.next, tgt, none, isWrite, lba, nlb, data, 1, ftNow s, owner⟩
  sendWaiting { s with sto := { s.sto with cmds := s.sto.cmds ++ [c], next := s.sto.next + 1 } }

/-- Drop the commands of a kiln job, and its reads of host memory. -/
def dropJobCmds (s : State) (q i : Nat) : State :=
  let s := setCmds s (s.sto.cmds.filter (fun c => match c.owner with | .kiln a b _ => !(a == q && b == i) | .snap => true))
  { s with host := { s.host with
      asked := s.host.asked.filter (fun a => !(a.q == q && a.i == i))
      asks := s.host.asks.filter (fun a => !(a.q == q && a.i == i)) } }

/-! ### Reads of host memory (R405, R407) -/

/-- How many may be outstanding: 512 CXL.cache requests, or 256 memory reads in PCIe mode. -/
def askLimit (s : State) : Nat := if cxlMode s then 512 else 256

/-- Issue reads that wait, in order, while fewer are outstanding. -/
def askMore (s : State) : State :=
  let go := s.host.asks.take (askLimit s - s.host.asked.length)
  { s with
    outbox := s.outbox ++ go.map (fun (a : HostAsk) => OutMsg.hostRead a.addr 64)
    host := { s.host with asked := s.host.asked ++ go, asks := s.host.asks.drop go.length } }

/-- Read `n` bytes of host memory at `a` for the job of an entry, line by line. -/
def askHostMem (s : State) (q i a n : Nat) : State :=
  askMore { s with host := { s.host with
    asks := s.host.asks ++ (List.range (cdiv n 64)).map (fun j => ⟨q, i, a + 64 * j⟩) } }

/-- Every read of the job has been answered, those that waited having been issued as earlier ones were. -/
def answerAsks (s : State) (q i : Nat) : State :=
  let mine (a : HostAsk) : Bool := a.q == q && a.i == i
  let s := { s with outbox := s.outbox ++ (s.host.asks.filter mine).map (fun (a : HostAsk) => OutMsg.hostRead a.addr 64) }
  askMore { s with host := { s.host with
    asked := s.host.asked.filter (fun a => !mine a), asks := s.host.asks.filter (fun a => !mine a) } }

/-! ### Targets (R413, R414) -/

/-- The storage-target table entry `n`. -/
def tgtAddr (s : State) (n : Nat) : Nat := getPair s F.STO_TGT_BASE_LO_BASE_LO F.STO_TGT_BASE_HI_BASE_HI 0 + 256 * n

/-- STO_STS after a command: the state of the target last commanded. -/
def showTgt (s : State) (n : Nat) : State := setF s F.STO_STS_STATE 0 (tgtOf s n).state

/-- Targets with a queue pair on port `p`: at most 64 (R412). -/
def pairsOn (s : State) (p : Nat) : Nat :=
  ((List.range 256).filter (fun n => (tgtOf s n).state == 2 && reaches s n p)).length

/-- The Connect command of target `n` on port `p`, with its entry: addresses, service, namespace and subsystem (Table 14.3). -/
def connectOn (s : State) (n p : Nat) (b : List Byte) : State := portSend s p (.connect n p b)

/-- STO_ENABLE: the target is connected through both ports, or reads DOWN (R413). The command completes within its own
step, in which the target passes through CONNECTING (DESIGN CHOICE, notes/assumptions/35.md). -/
def stoEnable (s : State) (n : Nat) (r : TargetReply) : State :=
  if getF s F.STO_STS_BUSY 0 = 1 then setF s F.STO_STS_OVERRUN 0 1
  else if (tgtOf s n).state = 2 then showTgt s n
  else
    let (b, p, s) := devRead s (tgtAddr s n) 256
    let a1 := (b.drop 16).take 16
    let kato := fieldLE b 38 39
    let qd := fieldLE b 40 41
    let sound := !p && decide (1 ≤ kato ∧ kato ≤ 3600 ∧ 16 ≤ qd ∧ qd ≤ 1024)
    let try0 := sound && ethUp s 0 && decide (pairsOn s 0 < 64)
    let try1 := sound && ethUp s 1 && decide (pairsOn s 1 < 64) && a1.any (fun x => x != 0)
    let s := if try0 then connectOn s n 0 b else s
    let s := if try1 then connectOn s n 1 b else s
    let e0 := try0 && r.eth0
    let e1 := try1 && r.eth1
    let ok := (e0 || e1) && r.lbaSize == 4096 && !r.metadata
    showTgt (setTgt s n (if ok then ⟨2, e0, e1, qd, kato, b, ftNow s⟩ else ⟨3, false, false, 0, 0, [], 0⟩)) n

def execStoEnable (tgt : Fin 256) (peer : TargetReply) (s : State) : Host.Outcome State Fault Refusal :=
  .next (if restarting s 0 then s else stoEnable s tgt peer)

/-- STO_DISABLE. -/
def stoDisable (s : State) (n : Nat) : State :=
  if getF s F.STO_STS_BUSY 0 = 1 then setF s F.STO_STS_OVERRUN 0 1
  else showTgt (setTgt s n TgtSt.reset) n

def execStoDisable (tgt : Fin 256) (s : State) : Host.Outcome State Fault Refusal := .next (if restarting s 0 then s else stoDisable s tgt)

/-- KEEP_ALIVE of a connected target, one on each port that reaches it, once its interval has passed since the last (R413). -/
def keepAlive (s : State) (n : Nat) : State :=
  let x := tgtOf s n
  if x.state = 2 ∧ x.kept + 1000000000 * x.kato ≤ ftNow s then
    ([0, 1].filter (reaches s n)).foldl (fun s p => portSend s p (.keepAlive n p)) (setTgt s n { x with kept := ftNow s })
  else s

def execKeepAlive (tgt : Fin 256) (s : State) : Host.Outcome State Fault Refusal := .next (if restarting s 0 then s else keepAlive s tgt)

/-! ### Ethernet ports (R411, R412) -/

/-- ETH_INBOUND_DROP. -/
def execEthInboundDrop (port : Fin 2) (s : State) : Host.Outcome State Fault Refusal :=
  .next (inc s F.ETH_STS_RX_DROP_CNT port)

/-- CONGESTION_NOTIFICATION_PACKET: the port reduces its sending rate once more (R411). -/
def execCongestionNotificationPacket (port : Fin 2) (s : State) : Host.Outcome State Fault Refusal :=
  .next (modPort s port (fun e => { e with cuts := e.cuts + 1 }))

/-- PRIORITY_FLOW_CONTROL_PAUSE: the priority of ETH_STS.PRIO pauses, or resumes and sends what waited; no other does (R411). -/
def flowControl (s : State) (p prio : Nat) (pause : Bool) : State :=
  if getF s F.ETH_STS_PRIO p ≠ prio then s
  else
    let s := modPort s p (fun e => { e with paused := pause })
    if pause then s else portResume s p

def execPriorityFlowControlPause (port : Fin 2) (prio : Fin 8) (pause : Bool) (s : State) : Host.Outcome State Fault Refusal :=
  .next (flowControl s port prio pause)

end Sys2Proof.Machine
end

