-- ==== Sys2Proof/Machine/Kiln.lean ====
section
/-! DEFINITION. Machine/Kiln.lean: kiln jobs (R416 to R425) and the ends of storage commands (R415). -/

namespace Sys2Proof.Machine

/-! ### Plans (R417, R419, R420) -/

def kTgt (p : List Byte) : Nat := fieldLE p 0 1
def kKind (p : List Byte) : Nat := fieldLE p 2 2
def kCodec (p : List Byte) : Nat := fieldLE p 3 3
def kSfmt (p : List Byte) : Nat := fieldLE p 4 4
def kDfmt (p : List Byte) : Nat := fieldLE p 5 5
def kLayout (p : List Byte) : Nat := fieldLE p 6 6
def kRot (p : List Byte) : Bool := bitAt (fieldLE p 7 7) 0
def kRnd (p : List Byte) : Nat := bitsOf (fieldLE p 7 7) 1 1
def kSrc (p : List Byte) : Nat := fieldLE p 8 15
def kSlen (p : List Byte) : Nat := fieldLE p 16 23
def kDst (p : List Byte) : Nat := fieldLE p 24 31
def kScl (p : List Byte) : Nat := fieldLE p 32 39
def kLanes (p : List Byte) : Nat := fieldLE p 40 43
def kClen (p : List Byte) : Nat := fieldLE p 44 47
def kTscale (p : List Byte) : Word32 := BitVec.ofNat 32 (fieldLE p 48 51)
def kSeed (p : List Byte) : Nat := fieldLE p 52 53
def kKiln (p : List Byte) : Nat := fieldLE p 60 60

/-- Bytes of the decoded source of a KILN_LOAD. -/
def loadBytes (p : List Byte) : Nat := kLanes p * kClen p * (fmtW (kSfmt p) / 8)

/-- Formats that Table 3.1 accepts. -/
def arrayFmt (f : Nat) : Bool := decide (1 ≤ f ∧ f ≤ 9)

/-- The first bad byte of a plan. -/
def planBad (op : Nat) (p : List Byte) : Option Nat :=
  let load : Bool := op == 0x10
  let f := kDfmt p
  firstBad [
    bad 0 (decide (256 ≤ kTgt p) && (op == 0x12 || kKind p == 0)),
    bad 2 (decide (3 < kKind p)),
    bad 3 (decide (1 < kCodec p) || (op == 0x12 && kCodec p != 0)),
    bad 4 (load && decide (2 < kSfmt p)),
    bad 5 (load && !(recipeFmts 0).contains f),
    bad 6 (decide (kLayout p ≠ 0 ∧ kLayout p ≠ 2) || (load && kLayout p == 2 && !arrayFmt f)),
    bad 7 (decide (4 ≤ fieldLE p 7 7) || (load && kRot p && !(recipeRots 0).contains f)),
    bad 16 (load && kCodec p == 0 && kSlen p != loadBytes p),
    bad 24 (kDst p % 64 != 0),
    bad 32 (load && kScl p % 16 != 0),
    bad 40 (load && decide (kLanes p = 0 ∨ 2 ^ 24 < kLanes p)),
    bad 44 (load && decide (kClen p = 0 ∨ kClen p % 32 ≠ 0)),
    bad 48 (load && fmtScaled f && refusedScale (kTscale p)),
    bad 52 (load && kRot p && kSeed p == 0),
    bad 60 (decide (7 < kKiln p ∧ kKiln p ≠ 255)),
    firstNonzero p 61 127]

/-- The destination tensor of a KILN_LOAD: rows are lanes, the contraction runs along the row; scales begin at SCL. -/
def kilnTens (p : List Byte) : Tens :=
  { base := kDst p
    handle := 0
    fmt := kDfmt p
    rank := 2
    cdim := 0
    layout := kLayout p
    space := 0
    dst := 0
    src := 0
    wm1 := 0
    sizes := [kClen p, kLanes p, 1, 1, 1, 1]
    strides := [1, kClen p, 0, 0, 0, 0]
    lm1 := cdiv (kClen p) 64 - 1
    cpos0 := 0
    scofs := 0
    sclane0 := 0
    start := kScl p }

/-- Byte ranges that a job writes, as far as its plan tells. -/
def jobRanges (op : Nat) (p : List Byte) : List (Nat × Nat) :=
  if op = 0x10 then
    let t := kilnTens p
    let e := t.extent
    if fmtScaled t.fmt then [e, (t.scaleBase, t.scaleBase + t.scaleLen)] else [e]
  else if op = 0x11 then [(kDst p, kDst p + if kCodec p = 0 then kSlen p else 0)]
  else []

/-- A range lies in the image of slot `n` (R423). -/
def inImage (s : State) (n : Nat) (r : Nat × Nat) : Bool :=
  let x := slotOf s n
  decide (x.imgDva ≤ r.1 ∧ r.2 ≤ x.imgDva + x.size)

/-! ### Jobs of a kiln -/

def kilnJobs (s : State) (m : Nat) : List KilnJob := (mdOf s m).kilnJobs

/-- Replace the jobs of kiln `m`: KLN_STS follows (R425). Which pool slices a kiln takes, and when, the spec leaves open: it
takes every free one when its first job starts, none later, and gives all back when its last job leaves (R33; DESIGN CHOICE,
notes/assumptions/38.md). -/
def setJobs (s : State) (m : Nat) (l : List KilnJob) : State :=
  let x := mdOf s m
  let s := setMd s m { x with kilnJobs := l, stgKiln := if l.isEmpty then [] else x.stgKiln ++ (if x.kilnJobs.isEmpty then freeSlices x else []) }
  let s := setF s F.KLN_STS_JOBS m (min 255 l.length)
  setF s F.KLN_STS_SUSP m (if l.any (fun j => j.susp) then 1 else 0)

/-- The kiln with the fewest jobs, the lowest first. -/
def leastKiln (s : State) : Nat :=
  (List.range 8).foldl (fun b m => if (kilnJobs s m).length < (kilnJobs s b).length then m else b) 0

/-- The kiln that holds the job of an entry. -/
def kilnOf (s : State) (q i : Nat) : Option Nat := (List.range 8).find? (fun m => (kilnJobs s m).any (fun j => j.q == q && j.i == i))

/-- Change the job of an entry. -/
def modJob (s : State) (q i : Nat) (f : KilnJob → KilnJob) : State :=
  match kilnOf s q i with
  | some m => setJobs s m ((kilnJobs s m).map (fun j => if j.q = q ∧ j.i = i then f j else j))
  | none => s

/-- A job ends: its status and DETAIL wait for its completion; its storage commands are given up. -/
def endJob (s : State) (q i status detail : Nat) : State :=
  modJob (dropJobCmds s q i) q i (fun j => if j.ended.isSome then j else { j with ended := some (status, detail) })

/-- Decoded bytes of a job, where its plan tells them. -/
def decodedLen (j : KilnJob) : Option Nat :=
  if j.op = 0x10 then some (loadBytes j.plan)
  else if kCodec j.plan = 0 then some (kSlen j.plan)
  else none

/-- Bytes of block `b` of a job whose length is known. -/
def blockLen (total b : Nat) : Nat := min 65536 (total - 65536 * b)

/-- A READ packet of a PEER job (R418); its body names the bytes asked for (DESIGN CHOICE, notes/assumptions/22.md). -/
def readPacket (s : State) (j : KilnJob) (off n : Nat) : Packet :=
  { vl := 0
    dst := BitVec.ofNat 16 (kTgt j.plan)
    src := BitVec.ofNat 16 (getF s F.RTE_MODID_MOD_ID 0)
    ctxgen := BitVec.ofNat 32 (fieldLE j.plan 54 55 % 4096 + 4096 * (fieldLE j.plan 56 59 % 2 ^ 20))
    fepoch := BitVec.ofNat 16 (sget FenceEnt.reset s.fence j.ctx).fepoch
    op := 0x02
    hops := 0
    addr := BitVec.ofNat 64 (kSrc j.plan + off)
    token := BitVec.ofNat 32 (j.q + 65536 * (off / 65536 % 65536))
    body := leBytes 4 n }

/-- Ask for the next 65,536 stored bytes of a STORAGE, PEER or HOST source (DESIGN CHOICE, notes/assumptions/22.md). -/
def askSource (s : State) (q i : Nat) : State :=
  match kilnOf s q i with
  | none => s
  | some m =>
    match (kilnJobs s m).find? (fun j => j.q == q && j.i == i) with
    | none => s
    | some j =>
      let n := min 65536 (kSlen j.plan - j.asked)
      if j.op = 0x12 ∨ n = 0 ∨ kKind j.plan = 2 then s
      else
        let s := modJob s q i (fun j => { j with asked := j.asked + n })
        if kKind j.plan = 0 then
          nvmeIssue s (kTgt j.plan) false (kSrc j.plan + j.asked / 4096) (cdiv n 4096) [] (.kiln q i (j.asked / 65536))
        else if kKind j.plan = 3 then askHostMem s q i (kSrc j.plan + j.asked) n
        else (List.range (cdiv n 4096)).foldl (fun s c =>
          originate s (readPacket s j (j.asked + 4096 * c) (min 4096 (n - 4096 * c)))) s

/-- Stored bytes of a source reach its job at offset `off`, a multiple of 4,096 (R415, R418). -/
def landStored (j : KilnJob) (off : Nat) (bs : List Byte) : KilnJob :=
  { j with got := ssetAll [] j.got ((List.range (cdiv bs.length 4096)).map (fun c =>
      (off / 4096 + c, (bs.drop (4096 * c)).take 4096))) }

/-- The stored bytes that a job has from piece `c` on without a gap, at most `n` pieces. -/
def storedFrom (j : KilnJob) : Nat → Nat → List Byte
  | 0, _ => []
  | n + 1, c => match sget [] j.got c with
    | [] => []
    | b => b ++ storedFrom j n (c + 1)

/-- READ_RSP of a packet that a PEER job sent: the job is that of the queue which TOKEN names, at that peer, and still without
these bytes. -/
def kilnData (s : State) (p : Packet) : State :=
  let asked (j : KilnJob) : Bool := j.op != 0x12 && kKind j.plan == 1 && kTgt j.plan == p.src.toNat && j.q == p.token.toNat % 65536 &&
    decide (kSrc j.plan ≤ p.addr.toNat ∧ p.addr.toNat < kSrc j.plan + j.asked) &&
    (sget [] j.got ((p.addr.toNat - kSrc j.plan) / 4096)).isEmpty
  match (List.range 8).findSome? (fun m => (kilnJobs s m).find? asked) with
  | some j => modJob s j.q j.i (fun j => landStored j (p.addr.toNat - kSrc j.plan) p.body)
  | none => s

/-! ### Admission of a job -/

/-- Start or take up again an admitted kiln entry of opcode `op`: its slot, its plan and its target are checked, and the job
joins its kiln. A fault on the plan suspends it (R422). -/
def kilnStart (s : State) (q i op : Nat) : State :=
  match entryOf s q i with
  | none => s
  | some e =>
    let x := queueOf s q
    if ¬(e.stage = 3 ∨ e.stage = 4) ∨ qClass x.desc ≠ 1 ∨ entOp e.raw ≠ op ∨ (kilnOf s q i).isSome = true ∨
        coveredOpen s (.kiln q i) = true then s
    else
      let k := qCtx x.desc
      let sl := fieldLE e.raw 24 24
      let slot := if bitAt sl 7 && op != 0x12 then some (sl % 64) else none
      let badSlot := match slot with | some n => decide ((slotOf s n).state ≠ 1) | none => false
      if badSlot then finishEntry s q i 0x44 (slotOf s (sl % 64)).state
      else
        let s := markStarted s q i
        match dvaRead s iodDie k (fieldLE e.raw 16 23) 128 .normal with
        | (.error f, s) => raiseFault s k 2 (leastKiln s) f .read (.kiln q i)
        | (.ok (p, poisoned), s) =>
          if poisoned then finishEntry s q i 0x46 0
          else
            match planBad op p with
            | some off => finishEntry s q i 0x40 off
            | none =>
              let outside := match slot with | some n => !(jobRanges op p).all (inImage s n) | none => false
              if outside then finishEntry s q i 0x44 1
              else if (op = 0x12 ∨ kKind p = 0) ∧ (tgtOf s (kTgt p)).state ≠ 2 then finishEntry s q i 0x45 (kTgt p)
              else
                let m := if kKiln p = 255 then leastKiln s else kKiln p % 8
                let j : KilnJob :=
                  { q := q
                    i := i
                    ctx := k
                    gen := (ctxOf s k).gen
                    op := op
                    plan := p
                    slot := slot
                    blocks := 0
                    asked := 0
                    got := []
                    van := 0
                    susp := false
                    ended := if decide (op ≠ 0x10) && kCodec p == 0 && kSlen p == 0 then some (0, 0) else none }
                askSource (setJobs s m (kilnJobs s m ++ [j])) q i

def execKilnLoad (q : QueueId) (i : EntryIdx) (s : State) : Host.Outcome State Fault Refusal := .next (kilnStart s q i 0x10)
def execKilnRead (q : QueueId) (i : EntryIdx) (s : State) : Host.Outcome State Fault Refusal := .next (kilnStart s q i 0x11)
def execKilnWrite (q : QueueId) (i : EntryIdx) (s : State) : Host.Outcome State Fault Refusal := .next (kilnStart s q i 0x12)

/-! ### Quantising (R419 to R421) -/

/-- The FP32 value of a source element (R511). -/
def srcWord (p : List Byte) (data : Array Byte) (n : Nat) : Word32 :=
  let w := fmtW (kSfmt p) / 8
  let c := leNat ((List.range w).map (fun i => data.getD (w * n + i) 0))
  match kSfmt p with
  | 0 => BitVec.ofNat 32 c
  | f => match elemFV f c with
    | .nan => elemNaN f c
    | v => enc32 v

/-- W40 code of an FP32 value: exact (R115). -/
def widen40 (w : Word32) : Nat :=
  let sign := if bitAt w.toNat 31 then 2 ^ 39 else 0
  match f32 w with
  | .nan => 0xFF * 2 ^ 31 + nanFrac w 31 + sign
  | _ => w.toNat % 2 ^ 31 * 256 + sign

/-- One element of a block: the code written, whether it saturated, whether a non-zero finite element became zero, in a block of
NaN scale too (R124, R421). -/
def kilnElem (p : List Byte) (code : Nat) (x src : Word32) : Nat × Bool × Bool :=
  let f := kDfmt p
  let r : Rnd := if kRnd p = 0 then .nearest else .zero
  let out : Nat × EncCnt :=
    if f = 0 then (x.toNat, EncCnt.zero)
    else if f = 0xA then (widen40 x, EncCnt.zero)
    else if fmtBlock f = 0 then encHalf f r (kTscale p) x
    else encBlock f r (kTscale p) code x
  let v := elemFV f out.1
  (out.1, out.2.ovf && FV.isFin v, isFin32 src && !FV.isZero (f32 src) && FV.isZero v)

/-- What a group of 32 elements of lane `l` from position `p0` writes, and its counts of saturated and vanished elements. -/
def kilnGroup (t : Tens) (p : List Byte) (l p0 : Nat) (src : List Word32) : List BWrite × Nat × Nat :=
  let xs := if kRot p then
      let d := (signBits (kSeed p)).toArray
      hadamard src.toArray (fun k => d.getD k false) (fun _ => false)
    else src
  let b := fmtBlock t.fmt
  let codes := if b = 0 then [] else (List.range (32 / b)).map (fun j => blockScale t.fmt (kTscale p) ((xs.drop (j * b)).take b))
  let es := (xs.zip src).mapIdx (fun i x => kilnElem p (codes.getD (i / (max 1 b)) 0) x.1 x.2)
  let ws := es.mapIdx (fun i e => elemWrites t (t.bitAddr l (p0 + i)) e.1 false)
  let ss := codes.mapIdx (fun j c => (⟨t.scaleAddr l (p0 / b + j), 255, c, false⟩ : BWrite))
  (ws.flatten ++ ss, (es.filter (fun e => e.2.1)).length, (es.filter (fun e => e.2.2)).length)

/-- Byte writes of padding items. -/
def padWrites (t : Tens) (l : List DItem) : List BWrite :=
  l.flatMap (fun i => match i with
    | .pad bit => elemWrites t bit 0 false
    | .scale a _ => [⟨a, 255, scaleOne (fmtSmode t.fmt), false⟩]
    | _ => [])

/-- Padding of a row that ends in the block: zero positions, and the scales of the padding blocks. -/
def kilnPad (t : Tens) (l : Nat) : List BWrite :=
  let n := if fmtBlock t.fmt = 0 then 0 else cdiv (t.size 0) (fmtBlock t.fmt)
  padWrites t (padLane t l) ++ (List.range (t.nb - n)).map (fun j => ⟨t.scaleAddr l (n + j), 255, scaleOne (fmtSmode t.fmt), false⟩)

/-- All that block `b` of a KILN_LOAD writes, with its counts. -/
def loadWrites (p : List Byte) (b : Nat) (data : List Byte) : List BWrite × Nat × Nat :=
  let t := kilnTens p
  let w := fmtW (kSfmt p) / 8
  let arr := data.toArray
  let e0 := 65536 * b / w
  let gs := (List.range (data.length / w / 32)).map (fun g =>
    let e := e0 + 32 * g
    let l := e / kClen p
    let p0 := e % kClen p
    let (ws, o, v) := kilnGroup t p l p0 ((List.range 32).map (fun i => srcWord p arr (32 * g + i)))
    (ws ++ (if p0 + 32 = kClen p then kilnPad t l else []), o, v))
  let last := 65536 * b + data.length == loadBytes p
  (gs.flatMap (fun g => g.1) ++ (if last then padWrites t (padAbsent t) else []), (gs.map (fun g => g.2.1)).foldl (· + ·) 0,
    (gs.map (fun g => g.2.2)).foldl (· + ·) 0)

/-- Complete partly masked bytes of a context's memory. -/
def kilnFill (s : State) (k : Nat) :
    List (Nat × Nat × Nat × Bool) → List (Nat × Byte × Bool) → Except XFault (List (Nat × Byte × Bool)) × State
  | [], acc => (.ok acc.reverse, s)
  | (a, m, v, p) :: t, acc =>
    if m = 255 then kilnFill s k t ((a, BitVec.ofNat 8 v, p) :: acc)
    else
      match dvaRead s iodDie k a 1 .normal with
      | (.ok (bs, q), s) => kilnFill s k t ((a, BitVec.ofNat 8 (((bs.headD 0).toNat &&& (255 - m)) ||| v), p || q) :: acc)
      | (.error e, s) => (.error e, s)

/-- Write runs in order. -/
def kilnRuns (s : State) (k : Nat) : List (Nat × List Byte × Bool) → Except XFault Unit × State
  | [] => (.ok (), s)
  | (a, bs, p) :: t =>
    match dvaWrite s iodDie k a bs p .normal with
    | (.ok _, s) => kilnRuns s k t
    | (.error e, s) => (.error e, s)

/-- Perform the byte writes of a block. -/
def kilnCommit (s : State) (k : Nat) (ws : List BWrite) : Except XFault Unit × State :=
  match kilnFill s k (mergeWrites ws) [] with
  | (.ok l, s) => kilnRuns s k (joinRuns (runsOf l))
  | (.error e, s) => (.error e, s)

/-! ### Blocks (R418, R421, R422) -/

/-- The job that kiln `m` works on: the first that is neither suspended nor ended. -/
def currentJob (s : State) (m : Nat) : Option KilnJob := (kilnJobs s m).find? (fun j => !j.susp && j.ended.isNone)

/-- A fault of the job suspends it, its block index kept. -/
def jobFault (s : State) (m : Nat) (j : KilnJob) (f : XFault) (acc : Access) : State :=
  modJob (raiseFault s j.ctx 2 m f acc (.kiln j.q j.i)) j.q j.i (fun j => { j with susp := true })

/-- VAN_CNT in units of 1,024, the remainder carried from job to job (R421). -/
def countVan (s : State) (m n : Nat) : State :=
  let x := mdOf s m
  incBy (setMd s m { x with vanRem := (x.vanRem + n) % 1024 }) F.KLN_CNT0_VAN_CNT m ((x.vanRem + n) / 1024)

/-- The block is finished: progress, and the end after the last one (R424). -/
def blockDone (s : State) (j : KilnJob) (van : Nat) (last : Bool) : State :=
  let b := j.blocks + 1
  let v := j.van + van
  let fin := if last then some (0, min b (2 ^ 32 - 1) + min v (2 ^ 32 - 1) * 2 ^ 32) else none
  askSource (modJob s j.q j.i (fun j => { j with blocks := b, van := v, ended := fin })) j.q j.i

/-- How a block's source failed, by kind (Table 14.6): PEER_ERROR, else STORAGE_ERROR, which the model gives a HOST source that
fails without poison too (DESIGN CHOICE, notes/assumptions/22.md). -/
def sourceError (j : KilnJob) (src : SourceData) : Nat × Nat :=
  if kKind j.plan = 1 then (0x43, j.blocks) else (0x41, src.status.toNat + j.blocks % 2 ^ 32 * 2 ^ 16)

/-- Write decoded block `data` of a KILN_LOAD or KILN_READ. -/
def writeBlock (s : State) (m : Nat) (j : KilnJob) (data : List Byte) (last : Bool) : State :=
  if j.op = 0x10 then
    let (ws, ovf, van) := loadWrites j.plan j.blocks data
    match kilnCommit s j.ctx ws with
    | (.error f, s) => jobFault s m j f .write
    | (.ok _, s) =>
      let p := j.plan
      let hdr := if last && fmtScaled (kDfmt p) then
          dvaWrite s iodDie j.ctx (kScl p)
            (headerBytes (kTscale p) (if kRot p then kSeed p else 0) (fmtSmode (kDfmt p)) (kDfmt p) 0) false .normal
        else (.ok (), s)
      match hdr with
      | (.error f, s) => jobFault s m j f .write
      | (.ok _, s) => blockDone (incBy (countVan s m van) F.KLN_CNT0_OVF_CNT m ovf) j van last
  else
    let a := kDst j.plan + 65536 * j.blocks
    let out := match j.slot with | some n => !inImage s n (a, a + data.length) | none => false
    if out then endJob s j.q j.i 0x44 1
    else
      match dvaWrite s iodDie j.ctx a data false .normal with
      | (.error f, s) => jobFault s m j f .write
      | (.ok _, s) => blockDone s j 0 last

/-- A block of decoded bytes: it must be as long as the plan has it. -/
def decodedBlock (s : State) (m : Nat) (j : KilnJob) (data : List Byte) (last : Bool) : State :=
  match decodedLen j with
  | some total =>
    let n := blockLen total j.blocks
    if data.length = n then writeBlock s m j data (total ≤ 65536 * j.blocks + n) else endJob s j.q j.i 0x42 j.blocks
  | none => writeBlock s m j data last

/-- The frames of a coded source end here (R418): well, unless the plan still expects decoded bytes. -/
def framesEnd (s : State) (j : KilnJob) : State :=
  match decodedLen j with
  | some _ => endJob s j.q j.i 0x42 j.blocks
  | none => modJob s j.q j.i (fun j => { j with ended := some (0, min j.blocks (2 ^ 32 - 1)) })

/-- Codec 1: the next frame of the stored bytes that have come, `whole` when they are the whole source. One that is not there
whole yet is asked for, or breaks off. A frame decodes to 65,536 bytes, the last one to no more (R418). -/
def frameBlock (s : State) (m : Nat) (j : KilnJob) (bytes : List Byte) (whole : Bool) : State :=
  let more : State := if whole then endJob s j.q j.i 0x42 j.blocks else askSource s j.q j.i
  match Config.zstdFrame bytes j.blocks with
  | .more => more
  | .bad => endJob s j.q j.i 0x42 j.blocks
  | .fin => if whole then framesEnd s j else askSource s j.q j.i
  | .out d =>
    let last := whole && Config.zstdFrame bytes (j.blocks + 1) == .fin
    if d.length = 65536 ∨ (last ∧ 0 < d.length ∧ d.length < 65536) then decodedBlock s m j d last
    else if d.length < 65536 ∧ whole = false then more
    else endJob s j.q j.i 0x42 j.blocks

/-- A block of a STORAGE, PEER or HOST source, from the stored bytes that its job has; without them it waits. -/
def arrivedBlock (s : State) (m : Nat) (j : KilnJob) : State :=
  let len := kSlen j.plan
  if kCodec j.plan = 1 then
    let bs := (storedFrom j (cdiv len 4096) 0).take len
    frameBlock s m j bs (bs.length == len)
  else
    let n := blockLen len j.blocks
    let bs := (storedFrom j (cdiv n 4096) (16 * j.blocks)).take n
    if bs.length = n then decodedBlock s m j bs (len ≤ 65536 * j.blocks + n) else s

/-- A block of a DEVICE source, or of a KILN_WRITE, from the context's memory. -/
def ownBlock (s : State) (m : Nat) (j : KilnJob) : State :=
  let len := kSlen j.plan
  let coded := j.op != 0x12 && kCodec j.plan == 1
  let n := blockLen len j.blocks
  let a := if j.op = 0x12 then kDst j.plan else kSrc j.plan
  match dvaRead s iodDie j.ctx (if coded then a else a + 65536 * j.blocks) (if coded then len else n) .stream with
  | (.error f, s) => jobFault s m j f .read
  | (.ok (d, p), s) =>
    if p then endJob s j.q j.i 0x46 j.blocks
    else if j.op = 0x12 then
      let s := nvmeIssue s (kTgt j.plan) true (kSrc j.plan + 16 * j.blocks) (cdiv n 4096) d (.kiln j.q j.i j.blocks)
      blockDone s j 0 (len ≤ 65536 * j.blocks + n)
    else if coded then frameBlock s m j d true
    else decodedBlock s m j d (len ≤ 65536 * j.blocks + n)

/-- Bytes that host memory returned for what a HOST job last asked for reach the job. -/
def hostArrives (s : State) (j : KilnJob) (data : List Byte) : State :=
  let off := 4096 * j.got.length
  answerAsks (modJob s j.q j.i (fun j => landStored j off (data.take (j.asked - off)))) j.q j.i

/-- KILN_BLOCK: the current job of kiln `m` finishes one block of its source. -/
def kilnBlock (s : State) (m : Nat) (src : SourceData) : State :=
  match currentJob s m with
  | none => s
  | some j =>
    if j.op = 0x12 ∨ kKind j.plan = 2 then ownBlock s m j
    else if src.poison then
      endJob (if kKind j.plan = 3 then inc s F.HOST_CNT_POISON_RX_CNT 0 else s) j.q j.i 0x46 j.blocks
    else if src.failed then endJob s j.q j.i (sourceError j src).1 (sourceError j src).2
    else
      let s := if kKind j.plan = 3 then hostArrives s j src.data else s
      match currentJob s m with
      | some j => arrivedBlock s m j
      | none => s

def execKilnBlock (m : MdId) (src : SourceData) (s : State) : Host.Outcome State Fault Refusal := .next (kilnBlock s m src)

/-- Storage commands of an entry's job are outstanding. -/
def jobCmds (s : State) (q i : Nat) : Bool :=
  s.sto.cmds.any (fun c => match c.owner with | .kiln a b _ => a == q && b == i | .snap => false)

/-- KILN_JOB_COMPLETE: the first job of kiln `m` that has ended, and whose writes have completed, completes its entry. -/
def kilnJobComplete (s : State) (m : Nat) : State :=
  match (kilnJobs s m).find? (fun j => j.ended.isSome && !(j.op == 0x12 && jobCmds s j.q j.i)) with
  | some j =>
    let (st, d) := j.ended.getD (0, 0)
    finishEntry (dropJobCmds (setJobs s m ((kilnJobs s m).erase j)) j.q j.i) j.q j.i st d
  | none => s

def execKilnJobComplete (m : MdId) (s : State) : Host.Outcome State Fault Refusal := .next (kilnJobComplete s m)

/-- A RETRY of a copy entry's fault record (R264, R422). -/
def kilnRetry (s : State) (q i : Nat) : State :=
  match entryOf s q i with
  | none => s
  | some e =>
    if entOp e.raw = 1 then mcopyGo q i (fieldLE e.raw 32 39 + 1) s
    else
      match kilnOf s q i with
      | some _ => modJob s q i (fun j => { j with susp := false })
      | none => kilnStart s q i (entOp e.raw)

/-- The jobs of context `k` end without resuming (R271): their entries complete elsewhere. -/
def kilnFence (s : State) (k : Nat) : State :=
  (List.range 8).foldl (fun s m =>
    let (mine, rest) := (kilnJobs s m).partition (fun j => j.ctx == k)
    mine.foldl (fun s j => dropJobCmds s j.q j.i) (setJobs s m rest)) s

/-- A PEER job whose packet was lost ends with PEER_ERROR (Table 14.6). -/
def kilnPeerLost (s : State) (p : Packet) : State :=
  (List.range 8).foldl (fun s m =>
    (kilnJobs s m).foldl (fun s j =>
      if j.op ≠ 0x12 ∧ kKind j.plan = 1 ∧ kTgt j.plan = p.dst.toNat ∧ p.op = 0x02 ∧ p.token.toNat % 65536 = j.q then
        endJob s j.q j.i 0x43 j.blocks
      else s) s) s

/-! ### Ends of storage commands (R415) -/

/-- A command is over; `err` is its NVMe status when it failed. -/
def cmdOver (s : State) (c : NvmeCmd) (err : Option Nat) : State :=
  let s := setCmds s (s.sto.cmds.filter (fun d => d.id != c.id))
  let s := match err with
    | none => s
    | some st => match c.owner with
      | .kiln q i b => endJob s q i 0x41 (st % 65536 + b % 2 ^ 32 * 2 ^ 16)
      | .snap => { s with twin := { s.twin with snap := s.twin.snap.map (fun x =>
          { x with err := some (x.err.getD (0x41 + st % 65536 * 65536)) }) } }
  sendWaiting s

/-- A command failed on its port: reissued once on the other, or over (R415). A command that no port reissues is over too;
the spec names no NVMe status for it, so that is free (DESIGN CHOICE, notes/assumptions/23.md). -/
def cmdFailed (s : State) (c : NvmeCmd) : State :=
  match c.port with
  | some p =>
    if c.tries = 1 ∧ (livePorts s c.tgt).contains (1 - p) then sendCmd s { c with tries := 2 } (1 - p)
    else
      let (v, s) := freshBits s
      cmdOver s c (some v.toNat)
  | none =>
    let (v, s) := freshBits s
    cmdOver s c (some v.toNat)

/-- NVME_COMMAND_TIMEOUT; a command that waits for room on a live port has not been sent, one that has no port fails. -/
def nvmeCommandTimeout (s : State) (id : Nat) : State :=
  match s.sto.cmds.find? (fun c => c.id == id) with
  | some c =>
    if (c.port.isSome ∨ (livePorts s c.tgt).isEmpty) ∧ c.since + 1000000 * max 1 (getF s F.STO_CFG_IO_TO_MS 0) ≤ ftNow s then cmdFailed s c else s
  | none => s

def execNvmeCommandTimeout (id : Nat) (s : State) : Host.Outcome State Fault Refusal := .next (nvmeCommandTimeout s id)

/-- Data of a storage read reaches the job that asked for it. -/
def landRead (s : State) (c : NvmeCmd) (data : List Byte) : State :=
  match c.isWrite, c.owner with
  | false, .kiln q i b => modJob s q i (fun j => landStored j (65536 * b) (padTo (4096 * c.nlb) data))
  | _, _ => s

/-- NVME_COMPLETION: status 0 is success, with the data of a read (R415). -/
def nvmeCompletion (s : State) (id status : Nat) (data : List Byte) : State :=
  match s.sto.cmds.find? (fun c => c.id == id) with
  | some c =>
    if c.port.isSome then
      if status = 0 then cmdOver (landRead s c data) c none else cmdOver s c (some status)
    else s
  | none => s

def execNvmeCompletion (id : Nat) (status : BitVec 16) (data : List Byte) (s : State) : Host.Outcome State Fault Refusal :=
  .next (nvmeCompletion s id status.toNat data)

/-- ETH_PORT_LINK_CHANGE: commands outstanding on a port that goes down fail on it. -/
def ethPortLinkChange (s : State) (p : Nat) (up : Bool) : State :=
  let s := setF s F.ETH_STS_LINK p (if up then 1 else 0)
  if up then sendWaiting s
  else (s.sto.cmds.filter (fun c => c.port == some p)).foldl cmdFailed s

def execEthPortLinkChange (port : Fin 2) (up : Bool) (s : State) : Host.Outcome State Fault Refusal :=
  .next (ethPortLinkChange s port up)

end Sys2Proof.Machine
end

