-- ==== Sys2Proof/Machine/Log.lean ====
section
/-! DEFINITION. Machine/Log.lean: trace records, the log writer, the persistent log and health records (R30, R31, R388,
R430 to R432, R436). -/

namespace Sys2Proof.Machine

def setLog (s : State) (l : LogSt) : State := { s with aed := { s.aed with log := l } }

/-! ### Trace records (R31, R430, R431) -/

/-- The 32 bytes of a trace record (Table 15.2). -/
def traceBytes (ft src code : Nat) (data : List Byte) : List Byte :=
  leBytes 8 ft ++ leBytes 2 src ++ leBytes 2 code ++ padTo 20 data

/-- Enable bit of a trace point. -/
def traceOn (s : State) (src code : Nat) : Bool :=
  let b := bitsOf src 10 8 * 512 + bitsOf code 8 0
  bitAt (sget (maskReset (b / 32)) s.aed.log.mask (b / 32)).toNat (b % 32)

/-- Records of the writer FIFO: 4 KiB of 32-byte records. -/
def traceRoom : Nat := 128

/-- A trace point offers a record: nothing from a disabled point; dropped and counted when the FIFO is full or Aedord
restarts (R440). The first one accepted after drops carries their number, which the writer puts into a gap record before it
(R31). -/
def trace (s : State) (src code : Nat) (data : List Byte) : State :=
  if !traceOn s src code then s
  else
    let l := s.aed.log
    if restarting s 17 ∨ traceRoom ≤ l.fifo.length then
      setLog (inc s F.LOG_CNT_TRACE_DROP 0) { l with drops := min (l.drops + 1) (2 ^ 32 - 1) }
    else
      setLog s { l with fifo := l.fifo ++ [(l.drops, traceBytes (ftNow s) src code data)], drops := 0 }

/-- A trace record whose DATA the spec does not state: twenty free bytes (notes/assumptions/25.md). -/
def traceFree (s : State) (src code : Nat) : State :=
  let (a, s) := freshBits s
  let (b, s) := freshBits s
  let (c, s) := freshBits s
  trace s src code (leBytes 8 a.toNat ++ leBytes 8 b.toNat ++ leBytes 4 c.toNat)

def execTracePoint (src : BitVec 16) (code : BitVec 16) (data : List Byte) (s : State) : Host.Outcome State Fault Refusal :=
  .next (trace s src.toNat code.toNat data)

/-- The gap record before trace record `r` (R31, R430): SRC, CODE and DATA are stated; FTIME is that of the record it comes
before (DESIGN CHOICE, notes/assumptions/25.md). -/
def gapRecord (n : Nat) (r : List Byte) : List Byte := traceBytes (fieldLE r 0 7) 0xFFFF 0xFFFF (leBytes 4 n)

/-- LOG_WRITE: a pending dump record before any trace record, a gap record before the trace record it precedes (R31). There is
no ring before AED_LOG_BASE is written (Table 16.16). -/
def logWrite (s : State) : State :=
  let l := s.aed.log
  if restarting s 17 then s
  else
    match l.ring, l.dumps, l.fifo with
    | some b, d :: t, _ => devWrite (setLog s { l with dumps := t }) (b + 983040) d
    | some b, [], (n, r) :: t =>
      let h := getF s F.AED_LOG_HEAD_HEAD 0
      let (w, rest) := if n = 0 then (r, t) else (gapRecord n r, (0, r) :: t)
      setF (devWrite (setLog s { l with fifo := rest }) (b + 32 * h) w) F.AED_LOG_HEAD_HEAD 0 ((h + 1) % 30720)
    | _, _, _ => s

def execLogWrite (s : State) : Host.Outcome State Fault Refusal := .next (logWrite s)

/-! ### The persistent log (R432, R450) -/

/-- Kinds of entry that are never dropped. -/
def keptEntry (k : Nat) : Bool := k == 0 || k == 1 || k == 3 || k == 6

/-- A commit waits for STORE_COMMIT. -/
def wantCommit (s : State) (c : Commit) : State := { s with aed := { s.aed with commits := s.aed.commits ++ [c] } }

/-- Store entries that wait for the log: one that finds 31 waiting is dropped, or makes them commit at once. -/
def plog (s : State) (kind : Nat) (data : List Byte) : State :=
  let a := s.aed
  if a.logWait.length < 31 ∨ keptEntry kind = true then
    let s := if a.logWait.length < 31 ∨ a.commits.contains .logs then s else wantCommit s .logs
    { s with aed := { s.aed with logWait := s.aed.logWait ++ [⟨kind, data⟩] } }
  else inc s F.AED_STORE_CNT_LOG_DROP 0

/-! ### Health records (R388, R397, R436) -/

/-- INJECTED: an injection is pending, or fired within the last 100 ms (R397). -/
def injectedNow (s : State) : Bool :=
  s.ras.inj.isSome || (match s.ras.injFired with | some t => decide (ftNow s ≤ t + 100000000) | none => false)

/-- The 32 bytes of a health record (Table 13.6). -/
def healthBytes (s : State) (seq kind ft ctxgen unit detail : Nat) : List Byte :=
  leBytes 4 seq ++ leBytes 1 kind ++ leBytes 1 (if injectedNow s then 1 else 0) ++ leBytes 2 (getF s F.RTE_MODID_MOD_ID 0) ++
    leBytes 8 ft ++ leBytes 4 ctxgen ++ leBytes 4 unit ++ leBytes 8 detail

/-- Sessions in which a grant of scope FM stands. -/
def fmSessions (s : State) : List Nat :=
  s.aed.sessions.filterMap (fun e => match e.2 with
    | some x => if x.grants.any (fun g => g.1 == 3) then some e.1 else none
    | none => none)

/-- The binding that carries session `n`. -/
def sessVia (s : State) (n : Nat) : Option Binding := (sget none s.aed.sessions n).map (fun x => x.via)

/-- HEALTH_REPORT of a record on every open FM session. -/
def reportHealth (s : State) (b : List Byte) : State :=
  if restarting s 17 then s else (fmSessions s).foldl (fun s n => emit s (.mgmt (sessVia s n) 0x20 (some n) b)) s

/-- Raise a health record at fabric time `ft`: held, sent and traced, or dropped when 256 are held. Those of Aedord's events
go to the persistent log (R432). -/
def raiseHealthAt (s : State) (kind ft ctxgen unit detail : Nat) : State :=
  let seq := s.aed.healthSeq
  let b := healthBytes s seq kind ft ctxgen unit detail
  let s := { s with aed := { s.aed with healthSeq := (seq + 1) % 2 ^ 32 } }
  if 256 ≤ s.aed.health.length then inc s F.RAS_CNT0_HLT_DROP_CNT 0
  else
    let s := { s with aed := { s.aed with health := s.aed.health ++ [(seq, b)] } }
    let s := traceFree (reportHealth s b) 0x500 0x043
    if kind = 7 ∨ kind = 8 ∨ kind = 9 then plog s 2 b else s

def raiseHealth (s : State) (kind ctxgen unit detail : Nat) : State := raiseHealthAt s kind (ftNow s) ctxgen unit detail

/-- HEALTH_RESEND every 100 ms. -/
def healthResend (s : State) : State := s.aed.health.foldl (fun s h => reportHealth s h.2) s

def execHealthResend (s : State) : Host.Outcome State Fault Refusal := .next (healthResend s)

/-- A message arrives in session `n`: the session's 60 s start again (R455). -/
def touchSession (s : State) (n : Nat) : State :=
  match sget none s.aed.sessions n with
  | some x => { s with aed := { s.aed with sessions := sset none s.aed.sessions n (some { x with last := ftNow s }) } }
  | none => s

/-- HEALTH_ACK inside an FM session releases the record it names; elsewhere it is DENIED (R435). -/
def healthAck (s : State) (n seq : Nat) : State :=
  if restarting s 17 then emit s (.mgmt (sessVia s n) 0x21 (some n) [0x02])
  else if (fmSessions s).contains n then
    let s := touchSession s n
    { s with aed := { s.aed with health := s.aed.health.filter (fun h => h.1 != seq) } }
  else emit s (.mgmt (sessVia s n) 0x21 (some n) [0x01])

def execHealthAck (sess : Fin 8) (seq : BitVec 32) (s : State) : Host.Outcome State Fault Refusal :=
  .next (healthAck s sess seq.toNat)

end Sys2Proof.Machine
end

