-- ==== Sys2Proof/Machine/Twin.lean ====
section
/-! DEFINITION. Machine/Twin.lean: twins, mirror passes, promotion, PULL and snapshots (R366 to R386). -/

namespace Sys2Proof.Machine

/-! ### Shared parts -/

def modTwin (s : State) (f : TwinSt → TwinSt) : State := { s with twin := f s.twin }

def pairState (s : State) : Nat := getF s F.TWN_STS_STATE 0

def setPair (s : State) (st : Nat) : State := setF s F.TWN_STS_STATE 0 st

def twinId (s : State) : Nat := getF s F.TWN_CFG_TWIN_ID 0

/-- A TWN command ends with RESULT `r`. -/
def twinEnd (s : State) (r : Nat) : State := setF (setF s F.TWN_STS_BUSY 0 0) F.TWN_STS_RESULT 0 r

/-- A TWN command while BUSY is ignored (R398). -/
def twinCmd (s : State) (f : State → State) : State :=
  if getF s F.TWN_STS_BUSY 0 = 1 then setF s F.TWN_STS_OVERRUN 0 1 else f s

/-- Causeway links that are UP (R326). -/
def causeways (s : State) : List Nat :=
  (List.range 48).filter (fun l => getF s F.LNK_CFG_ROLE l == 1 && linkState s l == 2)

/-- A health record of which the spec states no UNIT or DETAIL bears free values there (notes/assumptions/2.md). -/
def healthOpen (s : State) (kind ctxgen : Nat) (unit : Option Nat) : State :=
  let (d, s) := freshBits s
  match unit with
  | some u => raiseHealth s kind ctxgen u d.toNat
  | none =>
    let (u, s) := freshBits s
    raiseHealth s kind ctxgen (u.toNat % 2 ^ 32) d.toNat

/-- Send message `msg` of pass `num` to module `dst` (R367, R368). -/
def twinSend (s : State) (dst msg num addr : Nat) (body : List Byte) : State :=
  originate s
    { vl := 0
      dst := BitVec.ofNat 16 dst
      src := BitVec.ofNat 16 (getF s F.RTE_MODID_MOD_ID 0)
      ctxgen := 0
      fepoch := 0
      op := 0x04
      hops := 0
      addr := BitVec.ofNat 64 addr
      token := BitVec.ofNat 32 (msg % 16 + num % 65536 * 65536)
      body := body }

/-- The packet is twin message `m`. -/
def isTwin (p : Packet) (m : Nat) : Bool := p.op == 0x04 && p.token.toNat % 16 == m

/-! ### Windows (R369) -/

/-- The windows that table bytes name: the VALID entries in order, as (first page, pages). -/
def tableWindows (b : List Byte) : List (Nat × Nat) :=
  (List.range (b.length / 32)).filterMap (fun i =>
    let e := (b.drop (32 * i)).take 32
    if bitAt (fieldLE e 12 12) 0 then some (fieldLE e 0 7 / 65536, fieldLE e 8 11) else none)

/-- An entry breaks the layout of Table 13.3. -/
def badWindow (e : List Byte) : Bool :=
  bitAt (fieldLE e 12 12) 0 &&
    (fieldLE e 0 7 % 65536 != 0 || decide (fieldLE e 8 11 = 0 ∨ 1048576 < fieldLE e 8 11) ||
      decide (dpaLimit < fieldLE e 0 7 + 65536 * fieldLE e 8 11) || decide (1 < fieldLE e 12 12) || (e.drop 13).any (· != 0))

/-- Two of the windows overlap. -/
def overlap : List (Nat × Nat) → Bool
  | [] => false
  | w :: t => t.any (fun v => decide (w.1 < v.1 + v.2 ∧ v.1 < w.1 + w.2)) || overlap t

/-- Pages in all. -/
def pageTotal (ws : List (Nat × Nat)) : Nat := (ws.map (fun w => w.2)).foldl (· + ·) 0

/-- Window pages in table order. -/
def windowPages (ws : List (Nat × Nat)) : List Nat := ws.flatMap (fun w => (List.range w.2).map (fun i => w.1 + i))

/-- The window table in device memory: its bytes, and whether it breaks a rule. -/
def readTable (s : State) : List Byte × Bool × State :=
  let n := getF s F.TWN_WIN_HI_COUNT 0
  let (b, p, s) := devRead s (getPair s F.TWN_WIN_LO_BASE_LO F.TWN_WIN_HI_BASE_HI 0) (32 * n)
  let ws := tableWindows b
  let bad := p || (List.range n).any (fun i => badWindow ((b.drop (32 * i)).take 32)) || overlap ws ||
    decide (1048576 < pageTotal ws)
  (b, bad, s)

/-- TWN_STORE comes into force (R398). -/
def takeStore (s : State) : State :=
  let base := getPair s F.TWN_STORE_LO_BASE_LO F.TWN_STORE_HI_BASE_HI 0
  let len := 65536 * getF s F.TWN_STORE_HI_LEN 0
  modTwin s (fun t => { t with storeBase := base, storeLen := len })

/-! ### The store (R370) -/

/-- DPA of the bank-state word of bank `b`. -/
def bankWord (s : State) (b : Nat) : Nat := s.twin.storeBase + 2048 + 16 * b

/-- SEALNUM and state of bank `b` of the store; a store that was never in force holds nothing. -/
def bankState (s : State) (b : Nat) : Nat × Nat × State :=
  if s.twin.storeLen = 0 then (0, 0, s)
  else
    let (x, _, s) := devRead s (bankWord s b) 5
    (fieldLE x 0 3, fieldLE x 4 4, s)

def putBank (s : State) (b sn st : Nat) : State := devWrite s (bankWord s b) (leBytes 4 sn ++ leBytes 1 st)

/-- Both banks become EMPTY. -/
def emptyBanks (s : State) : State :=
  if s.twin.storeLen = 0 then s
  else
    let s := devWrite s (bankWord s 0 + 4) [0]
    modTwin (devWrite s (bankWord s 1 + 4) [0]) (fun t => { t with rxBytes := [] })

/-- CLEAR_STORE (R372). -/
def clearStore (s : State) : State := twinCmd s (fun s => twinEnd (emptyBanks s) 0)

def execClearStore (s : State) : Host.Outcome State Fault Refusal := .next (clearStore s)

/-! ### Passes: abandonment (R376) -/

/-- A pass or PULL ends: PASS_RUN. -/
def passRunOff (s : State) : State := setF s F.TWN_STS_PASS_RUN 0 0

/-- A running pass is abandoned: its bank's bit is set again for every page of the windows. -/
def abandonPass (s : State) : State :=
  match s.twin.pass with
  | none => s
  | some p =>
    passRunOff (modTwin s (fun t => { t with
      pass := none, w := ssetAll 0 t.w ((windowPages t.windows).map (fun g => (g, sget 0 t.w g ||| (1#2 <<< p.bank)))) }))

/-- A PULL that runs ends with ABORTED (DESIGN CHOICE, notes/assumptions/24.md). -/
def abortPull (s : State) : State :=
  match s.twin.recv with
  | some r => if r.isPull then twinEnd (passRunOff (modTwin s (fun t => { t with recv := none }))) 7 else s
  | none => s

/-- The module leaves PAIRED or DEGRADED for `st`. -/
def leavePair (s : State) (st : Nat) : State := setPair (abortPull (abandonPass s)) st

/-! ### ATTACH and DETACH (R371, R372) -/

/-- ATTACHING meets the twin's ATTACH: PAIRED with an empty store, or back to UNPAIRED. -/
def tryPair (s : State) : State :=
  match s.twin.peerAtt with
  | some (t, b) =>
    if pairState s ≠ 1 ∨ t + 10000000 < ftNow s then s
    else
      let total := fieldLE b 0 3
      let s := modTwin s (fun t => { t with peerAtt := none })
      if s.twin.storeLen < 65536 + 131072 * total then
        twinEnd (setPair (twinSend s (twinId s) 5 0 0 []) 0) 3
      else
        let s := devWrite s s.twin.storeBase (padTo 2048 ((b.drop 64).take 2048))
        let s := emptyBanks (modTwin s (fun t => { t with
          peerPages := total, latest := none, lastBeacon := ftNow s, matched := false }))
        let s := setF (setF s F.TWN_BANK0_SEAL 0 0xFFFFFFFF) F.TWN_BANK1_SEAL 0 0xFFFFFFFF
        twinEnd (setPair s 2) 0
  | none => s

/-- ATTACH: TWN_WIN and TWN_STORE take effect (R398), whether or not the pair comes about. -/
def attach (s : State) : State :=
  twinCmd s (fun s =>
    let s := setF s F.TWN_STS_PEER 0 (twinId s)
    if pairState s ≠ 0 then twinEnd s 1
    else
      let (b, bad, s) := readTable s
      if bad then twinEnd s 6
      else
        let ws := tableWindows b
        let s := modTwin (takeStore s) (fun t => { t with
          windows := ws, w := ssetAll 0 [] ((windowPages ws).map (fun g => (g, 3))), attachAt := ftNow s })
        if !(causeways s).any (fun l => getF s F.LNK_STS_PEER_MOD l == twinId s) then twinEnd s 2
        else
        let s := setF (setPair s 1) F.TWN_STS_BUSY 0 1
        tryPair (twinSend s (twinId s) 4 0 0 (leBytes 4 (pageTotal ws) ++ leBytes 60 0 ++ padTo 2048 b)))

def execAttach (s : State) : Host.Outcome State Fault Refusal := .next (attach s)

/-- The twin's ATTACH. -/
def attachMessage (s : State) (p : Packet) : State :=
  if p.src.toNat = twinId s then tryPair (modTwin s (fun t => { t with peerAtt := some (ftNow s, p.body) })) else s

/-- ATTACH_TIMEOUT after 10 ms. -/
def attachTimeout (s : State) : State :=
  if pairState s = 1 ∧ s.twin.attachAt + 10000000 ≤ ftNow s then twinEnd (setPair s 0) 2 else s

def execAttachTimeout (s : State) : Host.Outcome State Fault Refusal := .next (attachTimeout s)

/-- DETACH. -/
def detach (s : State) : State :=
  twinCmd s (fun s =>
    if pairState s = 2 then twinEnd (leavePair (twinSend s (twinId s) 5 0 0 []) 0) 0
    else if pairState s = 3 then twinEnd (leavePair s 0) 0
    else twinEnd s 1)

def execDetach (s : State) : Host.Outcome State Fault Refusal := .next (detach s)

/-- The twin's DETACH. Before the twin has shown itself PAIRED it says that the twin's store is too small for the pair
(R371; DESIGN CHOICE, notes/assumptions/24.md). -/
def detachMessage (s : State) (p : Packet) : State :=
  if p.src.toNat ≠ twinId s then s
  else if pairState s = 1 then twinEnd (setPair s 0) 2
  else if pairState s = 2 ∧ s.twin.matched = false then twinEnd (leavePair s 0) 3
  else if pairState s = 2 ∨ pairState s = 3 then leavePair s 0
  else s

/-! ### Beacons (R367) -/

/-- BEACON_SEND every 100 µs; suppressed while an injection holds the beacons (Table 13.9). -/
def beaconSend (s : State) : State :=
  if 1 ≤ pairState s ∧ pairState s ≤ 3 ∧ (causeways s).isEmpty = false ∧ s.twin.beaconHold ≤ ftNow s then
    twinSend s (twinId s) 3 0 0 (leBytes 1 (pairState s))
  else s

def execBeaconSend (s : State) : Host.Outcome State Fault Refusal := .next (beaconSend s)

/-- A BEACON of the twin. -/
def beacon (s : State) (p : Packet) : State :=
  if p.src.toNat ≠ twinId s then s
  else
    let s := modTwin s (fun t => { t with
      lastBeacon := ftNow s, matched := t.matched || decide (2 ≤ fieldLE p.body 0 0) })
    if pairState s = 3 ∧ (causeways s).isEmpty = false then healthOpen (setPair s 2) 4 0 none else s

/-- TWIN_SILENCE. -/
def twinSilence (s : State) : State :=
  if pairState s = 2 ∧ ((causeways s).isEmpty = true ∨ s.twin.lastBeacon + 1000000 ≤ ftNow s) then
    healthOpen (leavePair s 3) 3 0 none
  else s

def execTwinSilence (s : State) : Host.Outcome State Fault Refusal := .next (twinSilence s)

/-! ### Mirror passes (R373 to R377) -/

/-- A taken seal of SEAL_CTX starts a pass or is skipped (R374). -/
def passStart (s : State) : State :=
  if s.twin.pass.isSome then inc s F.TWN_CNT0_PASS_SKIP_CNT 0
  else if pairState s = 2 ∧ getF s F.TWN_CFG_HOLD 0 = 0 then
    let b := if s.twin.latest = some 0 then 1 else 0
    let pend := (windowPages s.twin.windows).filter (fun g => bitAt (sget 0 s.twin.w g).toNat b)
    let num := sget 0 s.col.sealNum (getF s F.TWN_CFG_SEAL_CTX 0)
    setF (modTwin s (fun t => { t with pass := some ⟨b, num, pend, [], 0, false⟩ })) F.TWN_STS_PASS_RUN 0 1
  else s

/-- SEAL_EVALUATION; a seal taken of SEAL_CTX starts a pass. -/
def sealAndPass (s : State) (q i : Nat) : State :=
  let r := sealEvaluation s q i
  if r.2 = true ∧ qCtx (queueOf s q).desc = getF s F.TWN_CFG_SEAL_CTX 0 then passStart r.1 else r.1

def execSealEvaluation (q : QueueId) (i : EntryIdx) (s : State) : Host.Outcome State Fault Refusal := .next (sealAndPass s q i)

/-- The twin's bank `b` is to change: it holds no COMPLETE image of this module until a COMMIT_ACK says so. -/
def bankStale (s : State) (b : Nat) : State := setF s (if b = 0 then F.TWN_BANK0_SEAL else F.TWN_BANK1_SEAL) 0 0xFFFFFFFF

/-- The sixteen PAGE packets of a page that was read. -/
def sendPage (s : State) (p : PassSt) (pg : Nat) (data : List Byte) : State :=
  let ws := s.twin.windows
  let at_ := 65536 + p.bank * (65536 * pageTotal ws) + 65536 * (windowPages ws).idxOf pg
  let s := bankStale s p.bank
  (List.range 16).foldl (fun s i =>
    twinSend s (twinId s) 0 p.num (at_ + 4096 * i) ((data.drop (4096 * i)).take 4096)) s

/-- COMMIT when every page is sent. -/
def passCommit (s : State) : State :=
  match s.twin.pass with
  | some p =>
    if p.pend.isEmpty ∧ p.readPages.isEmpty ∧ p.committed = false then
      twinSend (bankStale (modTwin s (fun t => { t with pass := some { p with committed := true } })) p.bank) (twinId s) 1 p.num 0
        (leBytes 4 p.num ++ leBytes 4 p.bank ++ leBytes 8 p.bytes)
    else s
  | none => s

/-- PASS_PAGE_SEND: the oldest page already read, else the next pending page, is sent; after the last one COMMIT. With no
causeway link UP no mirror write leaves the module (R327). -/
def passPageSend (s : State) : State :=
  match s.twin.pass with
  | none => s
  | some p =>
    if (causeways s).isEmpty then s
    else
      let s := match p.readPages, p.pend with
        | [], g :: _ => passRead s p g
        | _, _ => s
      match s.twin.pass with
      | some p =>
        match p.readPages with
        | (g, d) :: t =>
          passCommit (sendPage (modTwin s (fun x => { x with
            pass := some { p with readPages := t, bytes := p.bytes + 65536 } })) p g d)
        | [] => passCommit s
      | none => s

def execPassPageSend (s : State) : Host.Outcome State Fault Refusal := .next (passPageSend s)

def rangeDrop (s : State) : State := inc s F.TWN_CNT1_RANGE_DROP_CNT 0

/-- PAGE at the twin (R370, R374). The upper half of the SEALNUM of a pass under way is free: PAGE bears only its lower half
(DESIGN CHOICE, notes/assumptions/24.md). -/
def page (s : State) (p : Packet) : State :=
  let off := p.addr.toNat
  if pairState s ≠ 2 ∧ pairState s ≠ 3 then s
  else if off < 65536 ∨ s.twin.storeLen < off + p.body.length then rangeDrop s
  else
    let b := if off < 65536 + 65536 * s.twin.peerPages then 0 else 1
    let num := p.token.toNat / 65536
    let (old, st, s) := bankState s b
    let s := if st = 0 ∨ old % 65536 ≠ num then
        let (v, s) := freshBits s
        modTwin (putBank s b (num + v.toNat % 65536 * 65536) 1) (fun t => { t with rxBytes := sset 0 t.rxBytes b 0 })
      else s
    let s := devWrite s (s.twin.storeBase + off) p.body
    modTwin s (fun t => { t with rxBytes := sset 0 t.rxBytes b (sget 0 t.rxBytes b + p.body.length) })

/-- COMMIT at the twin (R375). -/
def commit (s : State) (p : Packet) : State :=
  let sn := fieldLE p.body 0 3
  let b := fieldLE p.body 4 4
  let n := fieldLE p.body 8 15
  if (pairState s ≠ 2 ∧ pairState s ≠ 3) ∨ 1 < b then s
  else
    let s := if n = 0 then modTwin (putBank s b sn 1) (fun t => { t with rxBytes := sset 0 t.rxBytes b 0 }) else s
    let (old, st, s) := bankState s b
    if st ≠ 0 ∧ old % 65536 = sn % 65536 ∧ sget 0 s.twin.rxBytes b = n then
      twinSend (putBank s b sn 2) (twinId s) 2 sn 0 (leBytes 4 sn ++ leBytes 1 b)
    else s

/-- COMMIT_ACK at the sender (R375). -/
def commitAck (s : State) (p : Packet) : State :=
  match s.twin.pass with
  | some x =>
    if fieldLE p.body 0 3 = x.num ∧ fieldLE p.body 4 4 = x.bank then
      let s := setF s (if x.bank = 0 then F.TWN_BANK0_SEAL else F.TWN_BANK1_SEAL) 0 x.num
      passRunOff (modTwin (inc s F.TWN_CNT0_PASS_CNT 0) (fun t => { t with pass := none, latest := some x.bank }))
    else s
  | none => s

/-! ### Images on the move (R378, R383) -/

/-- Send bank `b` of the store, whose SEALNUM is `sn`, to module `dst`: every page in window order, then XFER_END. -/
def sendImage (s : State) (dst b sn : Nat) : State :=
  let (tb, _, s) := devRead s s.twin.storeBase 2048
  let pages := windowPages (tableWindows tb)
  let w := 65536 * pages.length
  let s := (pages.mapIdx (fun i g => (i, g))).foldl (fun s x =>
    (List.range 16).foldl (fun s j =>
      let (d, _, s) := devRead s (s.twin.storeBase + 65536 + b * w + 65536 * x.1 + 4096 * j) 4096
      twinSend s dst 6 sn (65536 * x.2 + 4096 * j) d) s) s
  twinSend s dst 7 sn 0 (leBytes 8 w ++ leBytes 4 sn)

/-- The latest COMPLETE bank and its SEALNUM, later modulo 2^32. -/
def latestBank (s : State) : Option (Nat × Nat) × State :=
  let (n0, s0, s) := bankState s 0
  let (n1, s1, s) := bankState s 1
  (if s0 = 2 ∧ s1 = 2 then (if (n1 + 2 ^ 32 - n0) % 2 ^ 32 < 2 ^ 31 then some (1, n1) else some (0, n0))
   else if s0 = 2 then some (0, n0)
   else if s1 = 2 then some (1, n1)
   else none, s)

/-- PROMOTE. -/
def promote (s : State) (id : Nat) : State :=
  twinCmd s (fun s =>
    let s := setF s F.TWN_STS_PEER 0 id
    if pairState s ≠ 3 ∧ pairState s ≠ 0 then twinEnd s 1
    else
      match latestBank s with
      | (some (b, n), s) => sendImage (setF (setPair s 4) F.TWN_STS_BUSY 0 1) id b n
      | (none, s) => twinEnd s 4)

def execPromote (id : BitVec 16) (s : State) : Host.Outcome State Fault Refusal := .next (promote s id.toNat)

/-- SENDING ends with OK as its XFER_END leaves the module (R379; DESIGN CHOICE, notes/assumptions/24.md). -/
def sendingDone (s : State) : State := if pairState s = 4 then twinEnd (setPair s 0) 0 else s

/-- RECEIVE. Its windows are those that the last ATTACH put in force, which alone, with a snapshot, reads the table (R369,
R398); TWN_STORE takes effect (DEDUCED, notes/assumptions/24.md). -/
def receive (s : State) (id : Nat) : State :=
  twinCmd s (fun s =>
    let s := setF s F.TWN_STS_PEER 0 id
    if pairState s ≠ 0 then twinEnd s 1
    else
      let s := modTwin (takeStore s) (fun t => { t with recv := some ⟨id, false, [], ftNow s, false, none, none⟩ })
      twinEnd (setPair s 5) 0)

def execReceive (id : BitVec 16) (s : State) : Host.Outcome State Fault Refusal := .next (receive s id.toNat)

/-! ### The promotion record (R381) -/

/-- Runs of adjacent pages: (first, pages). -/
def pageRuns : List Nat → List (Nat × Nat)
  | [] => []
  | g :: t =>
    match pageRuns t with
    | (a, n) :: r => if a = g + 1 then (g, n + 1) :: r else (g, 1) :: (a, n) :: r
    | [] => [(g, 1)]

/-- Insert a number into a rising list. -/
def insNat (x : Nat) : List Nat → List Nat
  | [] => [x]
  | a :: t => if x ≤ a then x :: a :: t else a :: insNat x t

/-- Lost ranges in rising order, the 252nd one running to the end of the last window when there are more. -/
def lossRanges (ws : List (Nat × Nat)) (lost : List Nat) : List (Nat × Nat) × Bool :=
  let rs := pageRuns (lost.foldr insNat [])
  if rs.length ≤ 252 then (rs, false)
  else
    let a := (rs.getD 251 (0, 0)).1
    let e := ws.foldl (fun m w => max m (w.1 + w.2)) 0
    (rs.take 251 ++ [(a, e - a)], true)

/-- Write the promotion record. -/
def writeRecord (s : State) (r : RecvSt) (lost : List Nat) (sn : Nat) : State :=
  let (rs, trunc) := lossRanges s.twin.windows lost
  let flags := (if lost.isEmpty then 0 else 1) + (if trunc then 2 else 0)
  let b := leBytes 2 r.src ++ leBytes 1 flags ++ leBytes 1 0 ++ leBytes 4 sn ++ leBytes 4 (pageTotal s.twin.windows) ++
    leBytes 4 (pageTotal rs) ++ leBytes 8 (ftNow s) ++ leBytes 2 rs.length ++ leBytes 38 0 ++
    rs.flatMap (fun x => leBytes 8 (65536 * x.1) ++ leBytes 4 x.2 ++ leBytes 4 0)
  devWrite s (getPair s F.TWN_LOSS_LO_BASE_LO F.TWN_LOSS_HI_BASE_HI 0) b

/-- SEALNUM of the image that was sent: that of XFER_END, or the pass number that the XFERs bore (DEDUCED from Table 13.5),
or a free value when none came. -/
def imageSeal (s : State) (r : RecvSt) : Nat × State :=
  match r.fin, r.num with
  | some f, _ => (f.2, s)
  | none, some n => (n, s)
  | none, none =>
    let (v, s) := freshBits s
    (v.toNat % 2 ^ 32, s)

/-! ### Receiving (R378 to R380, R383) -/

/-- Window pages not fully received. -/
def unreceived (s : State) (r : RecvSt) : List Nat :=
  (windowPages s.twin.windows).filter (fun g => sget 0 r.got g != 0xFFFF)

/-- The image is complete: XFER_END came and every page was received (R379). A PULL whose XFER_END names no bytes ends with
NOT_HELD. -/
def tryFinish (s : State) : State :=
  match s.twin.recv with
  | some r =>
    if r.fin.isSome ∧ (unreceived s r).isEmpty then
      let s := modTwin s (fun t => { t with recv := none })
      if r.isPull then twinEnd (passRunOff s) 0
      else
        let (n, s) := imageSeal s r
        healthOpen (writeRecord (twinEnd (setPair s 0) 0) r [] n) 5 0 none
    else if r.isPull ∧ r.fin.any (fun f => f.1 == 0) then twinEnd (passRunOff (modTwin s (fun t => { t with recv := none }))) 4
    else s
  | none => s

/-- XFER at a spare or at a module that pulls. -/
def xfer (s : State) (p : Packet) : State :=
  match s.twin.recv with
  | some r =>
    let a := p.addr.toNat
    match windowPage s a with
    | some g =>
      if p.src.toNat ≠ r.src ∨ a % 4096 ≠ 0 ∨ p.body.length ≠ 4096 then rangeDrop s
      else
        let s := devWrite s a p.body
        tryFinish (modTwin s (fun t => { t with recv := some { r with
          got := sset 0 r.got g (sget 0 r.got g ||| (1#16 <<< (a / 4096 % 16))), last := ftNow s, stalled := false,
          num := some (p.token.toNat / 65536) } }))
    | none => rangeDrop s
  | none => s

/-- XFER_END. -/
def xferEnd (s : State) (p : Packet) : State :=
  match s.twin.recv with
  | some r =>
    if p.src.toNat ≠ r.src then rangeDrop s
    else tryFinish (modTwin s (fun t => { t with recv := some { r with
      fin := some (fieldLE p.body 0 7, fieldLE p.body 8 11) } }))
  | none => s

/-- PROMO_STALL after 2 ms without an XFER (R380). -/
def promoStall (s : State) : State :=
  match s.twin.recv with
  | some r =>
    if pairState s = 5 ∧ r.stalled = false ∧ r.last + 2000000 ≤ ftNow s then
      healthOpen (modTwin s (fun t => { t with recv := some { r with stalled := true } })) 6 0 none
    else s
  | none => s

def execPromoStall (s : State) : Host.Outcome State Fault Refusal := .next (promoStall s)

/-- Write every line of page `g` with zero data and a set poison flag. -/
def losePage (s : State) (g : Nat) : State :=
  (List.range 1024).foldl (fun s i => memWrite s (65536 * g + 64 * i) (List.replicate 64 0) true .normal) s

/-- LOST (R380). -/
def lost (s : State) : State :=
  twinCmd s (fun s =>
    match s.twin.recv with
    | some r =>
      if pairState s ≠ 5 then twinEnd s 1
      else
        let l := unreceived s r
        let s := l.foldl losePage s
        let (n, s) := imageSeal s r
        let s := healthOpen (writeRecord s r l n) 7 0 none
        twinEnd (setPair (modTwin s (fun t => { t with recv := none })) 0) 5
    | none => twinEnd s 1)

def execLost (s : State) : Host.Outcome State Fault Refusal := .next (lost s)

/-- PULL of a bank (R383). -/
def pull (s : State) (b : Nat) : State :=
  twinCmd s (fun s =>
    if pairState s ≠ 2 ∨ getF s F.TWN_CFG_HOLD 0 = 0 ∨ s.twin.pass.isSome ∨ s.twin.recv.isSome then twinEnd s 1
    else if getF s (if b = 0 then F.TWN_BANK0_SEAL else F.TWN_BANK1_SEAL) 0 = 0xFFFFFFFF then twinEnd s 4
    else
      let s := modTwin s (fun t => { t with recv := some ⟨twinId s, true, [], ftNow s, false, none, none⟩ })
      twinSend (setF (setF s F.TWN_STS_PASS_RUN 0 1) F.TWN_STS_BUSY 0 1) (twinId s) 8 0 0 (leBytes 1 b))

def execPull (bank : Fin 2) (s : State) : Host.Outcome State Fault Refusal := .next (pull s bank)

/-- PULL_REQ: the named bank goes back to the twin; of a bank that is not COMPLETE an XFER_END of no bytes (R383; DESIGN CHOICE,
notes/assumptions/24.md). -/
def pullReq (s : State) (p : Packet) : State :=
  let b := fieldLE p.body 0 0
  if (pairState s ≠ 2 ∧ pairState s ≠ 3) ∨ p.src.toNat ≠ twinId s ∨ 1 < b then s
  else
    match bankState s b with
    | (n, st, s) => if st = 2 then sendImage s p.src.toNat b n else twinSend s p.src.toNat 7 n 0 (leBytes 8 0 ++ leBytes 4 n)

/-! ### Arrivals -/

/-- A twin message reaches this module; one that is RECEIVING drops and counts everything but the XFERs of its source
(R378). -/
def twinDeliver (s : State) (p : Packet) : State :=
  let m := p.token.toNat % 16
  if pairState s = 5 ∧ m ≠ 6 ∧ m ≠ 7 then rangeDrop s
  else
    match m with
    | 0 => page s p
    | 1 => commit s p
    | 2 => commitAck s p
    | 3 => beacon s p
    | 4 => attachMessage s p
    | 5 => detachMessage s p
    | 6 => xfer s p
    | 7 => xferEnd s p
    | 8 => pullReq s p
    | _ => s

/-- The step of message `m`, for a packet that is one. -/
def twinMsg (s : State) (m : Nat) (p : Packet) : State := if isTwin p m then twinDeliver s p else s

def execPage (p : Packet) (s : State) : Host.Outcome State Fault Refusal := .next (twinMsg s 0 p)
def execCommit (p : Packet) (s : State) : Host.Outcome State Fault Refusal := .next (twinMsg s 1 p)
def execCommitAck (p : Packet) (s : State) : Host.Outcome State Fault Refusal := .next (twinMsg s 2 p)
def execBeacon (p : Packet) (s : State) : Host.Outcome State Fault Refusal := .next (twinMsg s 3 p)
def execAttachMessage (p : Packet) (s : State) : Host.Outcome State Fault Refusal := .next (twinMsg s 4 p)
def execDetachMessage (p : Packet) (s : State) : Host.Outcome State Fault Refusal := .next (twinMsg s 5 p)
def execXfer (p : Packet) (s : State) : Host.Outcome State Fault Refusal := .next (twinMsg s 6 p)
def execXferEnd (p : Packet) (s : State) : Host.Outcome State Fault Refusal := .next (twinMsg s 7 p)
def execPullReq (p : Packet) (s : State) : Host.Outcome State Fault Refusal := .next (twinMsg s 8 p)

/-! ### Snapshots (R386) -/

/-- Write 64 KiB of a snapshot as piece `i`. -/
def snapWrite (s : State) (tgt lba i : Nat) (data : List Byte) : State := nvmeIssue s tgt true (lba + 16 * i) 16 data .snap

/-- SNAPSHOT: the TEVENT of group `gr` that released OK captures the windows at once: no write comes between, so none is
held. -/
def snapshot (s : State) (gr : Nat) : State :=
  match s.col.due.find? (fun d => d.1 == gr && d.2.1 == 1) with
  | none => s
  | some (g, k, arg, t) =>
    let s := { s with col := { s.col with due := s.col.due.erase (g, k, arg, t) } }
    if s.twin.snap.isSome then healthOpen s 11 0 none
    else
      let tgt := arg % 65536
      let lba := arg / 65536
      let up := decide (tgt < 256) && (tgtOf s tgt).state == 2
      let s := modTwin s (fun x => { x with snap := some ⟨t, if up then none else some 0x41⟩ })
      if !up then s
      else
        let (tb, _, s) := devRead s (getPair s F.TWN_WIN_LO_BASE_LO F.TWN_WIN_HI_BASE_HI 0) (32 * getF s F.TWN_WIN_HI_COUNT 0)
        let hdr := padTo 2048 tb ++ leBytes 8 t ++ leBytes 4 (sget 0 s.col.sealNum (getF s F.TWN_CFG_SEAL_CTX 0))
        let s := snapWrite s tgt lba 0 (padTo 65536 hdr)
        ((windowPages (tableWindows tb)).mapIdx (fun i g => (i, g))).foldl (fun s x =>
          let (bs, s) := pageRead s x.2
          snapWrite s tgt lba (x.1 + 1) bs) s

def execSnapshot (gr : GroupId) (s : State) : Host.Outcome State Fault Refusal := .next (snapshot s gr)

/-- SNAPSHOT_DONE once every storage write of the snapshot has ended. -/
def snapshotDone (s : State) (status : Nat) : State :=
  match s.twin.snap with
  | none => s
  | some x =>
    if s.sto.cmds.any (fun c => c.owner == .snap) then s
    else
      let s := modTwin s (fun t => { t with snap := none })
      let (u, s) := freshBits s
      raiseHealthAt s 10 x.time 0 (u.toNat % 2 ^ 32) (x.err.getD status)

def execSnapshotDone (status : BitVec 64) (s : State) : Host.Outcome State Fault Refusal := .next (snapshotDone s status.toNat)

end Sys2Proof.Machine
end

