-- ==== Sys2Proof/Machine/Fence.lean ====
section
/-! DEFINITION. Machine/Fence.lean: the fence that ends a context (R270 to R272), answers to fault records (R266, R267),
queue timeouts (R286) and page-table walks on their own (R258). -/

namespace Sys2Proof.Machine

/-! ### Phase 1: stop (R271) -/

/-- The transfers of virtual core `v` of context `k` end without resuming, resident or not: its staging units and slices are
free. -/
def dropSaved (s : State) (k v : Nat) : State :=
  let s := releaseUsers s (fun u => u.ctx == k && u.vcore == v)
  setVc s k v { vcOf s k v with savedXfers := [], savedSpills := [], savedWinFault := [] }

/-- The transfers of a core end without resuming. -/
def dropXfers (s : State) (c : Nat) : State :=
  let b := boundOf (coreOf s c)
  modCore (dropSaved s b.ctx b.vcore) c (fun k => { k with xfers := [], spills := [], winFault := [] })

/-- Fault records of context `k` end: they are answered by none, and those held back move up. -/
def dropFaults (s : State) (k : Nat) : State :=
  let f := s.faults
  let s := (f.opened.filter (fun r => r.ctx == k)).foldl (fun s r => disarm s iodDie (.faultService r.seq)) s
  let rest := (f.waiting ++ f.beyond).filter (fun r => r.ctx != k)
  { s with faults := { f with
      waiting := rest.take 512, beyond := rest.drop 512, opened := f.opened.filter (fun r => r.ctx != k) } }

/-- Fetch what the ring of queue `q` still holds from HEAD to MTAIL - 1. -/
def fetchRest (q : Nat) : Nat → State → State
  | 0, s => s
  | n + 1, s =>
    let x := queueOf s q
    if x.head = x.mtail then s
    else
      let (raw, _, s) := ringRead s x.desc (qRing x.desc + 64 * x.head) 64
      let e : EntrySt :=
        { raw := raw
          phase := x.phase
          stage := 0
          slot := none
          epoch := 0
          adapter := none
          poison := false
          engNs := 0
          poster := none
          prog := 0 }
      let head := (x.head + 1) % qSize x.desc
      fetchRest q n (setQueue s q { x with
        entries := sset none x.entries x.head (some e), order := x.order ++ [x.head], head := head,
        phase := if head = 0 then !x.phase else x.phase })

/-- A queue of a context that ends: a CTX_ENDED record for every entry not completed and every slot from HEAD to MTAIL - 1,
then ENDED (R278). -/
def endQueue (s : State) (cause q : Nat) : State :=
  let s := fetchRest q (qSize (queueOf s q).desc) s
  let s := (queueOf s q).order.foldl (fun s i => finishEntry s q i 5 cause) s
  putQueue s q { queueOf s q with state := 3 }

/-- Queues of context `k` that are ENABLED or HALTED. -/
def ctxQueues (s : State) (k : Nat) : List Nat :=
  (s.queues.filter (fun e => e.2.state != 0 && e.2.state != 3 && qClass e.2.desc != 3 && qCtx e.2.desc == k)).map (fun e => e.1)

/-- The seals of a context's entries are disarmed on every die. -/
def dropSeals (s : State) (k : Nat) : State :=
  (ctxQueues s k).foldl (fun s q => (queueOf s q).order.foldl (fun s i =>
    (List.range 9).foldl (fun s d => disarm s d (.seal q i)) s) s) s

/-- The fence of an ACTIVE context starts and ends its phase 1 within the step (R271). -/
def fenceStart (s : State) (k cause : Nat) : State :=
  let s := putCtx s k { ctxOf s k with state := 2, stops := [], setHold := false }
  let s := putEndinfo s k ((if cause = 1 then 0 else 1) + cause * 256)
  let s := (ctxCores s k).foldl (fun s c => dropXfers (quietCore s c) c) s
  let s := releaseUsers s (fun u => u.ctx == k)
  let s := dropSeals (dropFaults (dropWork s k) k) k
  let s := kilnFence (collFence s k) k
  let s := (ctxQueues s k).foldl (fun s q => endQueue s cause q) s
  putCtx s k { ctxOf s k with state := 3, since := ftNow s }

/-- A KILL of a context whose fence runs only sets KILLED. -/
def markKilled (s : State) (k : Nat) : State :=
  if bitAt (ctxOf s k).endinfo 0 then s else putEndinfo s k ((ctxOf s k).endinfo + 1)

/-- A KILL that the module issues itself (Table 9.8, causes 3 to 5). -/
def moduleKill (s : State) (k cause : Nat) : State :=
  if (ctxOf s k).state = 0 then s
  else if (ctxOf s k).state = 1 then fenceStart s k cause
  else markKilled s k

/-- CTX_CMD TEARDOWN or KILL (R270). -/
def ctxEnd (s : State) (k cause : Nat) : State :=
  if ctxBusy s then setF s F.CTX_CMD_STS_OVERRUN 0 1
  else if (ctxOf s k).state = 0 then ctxResult s k 1
  else if (ctxOf s k).state = 1 then
    let s := fenceStart s k cause
    setF (setCtx s k { ctxOf s k with cmdBusy := true }) F.CTX_CMD_STS_BUSY 0 1
  else ctxResult (if cause = 2 then markKilled s k else s) k 0

def execTeardown (k : CtxId) (s : State) : Host.Outcome State Fault Refusal := .next (ctxEnd s k 1)
def execKill (k : CtxId) (s : State) : Host.Outcome State Fault Refusal := .next (ctxEnd s k 2)

/-! ### Phases 2 and 3: drain and advance (R256, R271) -/

/-- The drain has not ended. -/
def draining (x : CtxSt) : Bool := x.state == 3 && x.gen == x.dieGen

/-- The IOD advances the generation and sends it to every MD and CD. -/
def advance (s : State) (k : Nat) : State := putCtx s k { ctxOf s k with gen := ((ctxOf s k).gen + 1) % 2 ^ 20 }

/-- DRAIN_COMPLETE. -/
def drainComplete (s : State) (k : Nat) : State := if draining (ctxOf s k) then advance s k else s

def execDrainComplete (k : CtxId) (s : State) : Host.Outcome State Fault Refusal := .next (drainComplete s k)

/-- DRAIN_TIMEOUT after 500 µs. -/
def drainTimeout (s : State) (k : Nat) : State :=
  let x := ctxOf s k
  if draining x = true ∧ x.since + 500000 ≤ ftNow s then
    advance (inc (putEndinfo s k (x.endinfo ||| 2)) F.CTX_CNT1_DRAIN_TIMEOUT_CNT 0) k
  else s

def execDrainTimeout (k : CtxId) (s : State) : Host.Outcome State Fault Refusal := .next (drainTimeout s k)

/-! ### Quarantine (R272) -/

/-- A sweep packet on lane `vl` of link `l` (Table 11.5); the spec gives it no body (DESIGN CHOICE,
notes/assumptions/26.md). -/
def sweepPacket (s : State) (l : Nat) (vl : Fin 4) (op : Byte) (ctxgen : Word32) : Packet :=
  { vl := vl
    dst := BitVec.ofNat 16 (getF s F.LNK_STS_PEER_MOD l)
    src := BitVec.ofNat 16 (getF s F.RTE_MODID_MOD_ID 0)
    ctxgen := ctxgen
    fepoch := 0
    op := op
    hops := 0
    addr := 0
    token := 0
    body := [] }

/-- Every link and lane. -/
def allLanes : List (Nat × Fin 4) := (List.range 48).flatMap (fun l => [(l, 0), (l, 1), (l, 2), (l, 3)])

/-- Send a sweep marker on a lane of a link that is UP, or that retrains, which holds it until it is UP again. A causeway link
carries it to the twin only (R326). -/
def sendMarker (s : State) (l : Nat) (vl : Fin 4) (cg : Word32) : State :=
  if linkState s l = 2 ∨ linkState s l = 3 then
    if getF s F.LNK_CFG_ROLE l = 1 ∧ getF s F.LNK_STS_PEER_MOD l ≠ twinId s then inc s F.LNK_CNT2_CW_DROP_CNT l
    else sendOn s l (sweepPacket s l vl 0x08 cg) false
  else s

/-- GENERATION_ACK: every die holds the new generation; what is cached or locked under the old one goes; QUARANTINE, and a
sweep marker on every lane of every link. The markers of the paths from the CDs and the IOD to the MDs return within the step:
every request on such a path has been performed when it was issued (notes/assumptions/26.md). -/
def generationAck (s : State) (k : Nat) : State :=
  let x := ctxOf s k
  if x.state = 3 ∧ x.gen ≠ x.dieGen then
    let s := putCtx s k { x with state := 4, dieGen := x.gen, since := ftNow s, markers := allLanes.map (fun m => (m.1, m.2.val)) }
    let s := (List.range 9).foldl (fun s d => xltDrop s d (fun e => e.ctx == k)) s
    allLanes.foldl (fun s m => sendMarker s m.1 m.2 (ctxgenOf k x.gen)) s
  else s

def execGenerationAck (k : CtxId) (s : State) : Host.Outcome State Fault Refusal := .next (generationAck s k)

/-- An echo returned on its lane; one of an earlier sweep counts for nothing. -/
def echoBack (s : State) (l : Nat) (p : Packet) : State :=
  let k := p.ctxgen.toNat % 4096
  let x := ctxOf s k
  if x.state = 4 ∧ x.gen = p.ctxgen.toNat / 4096 then setCtx s k { x with markers := x.markers.erase (l, p.vl.val) } else s

/-- SWEEP_MARKER: a marker that arrives on a link is echoed on the same lane; an echo has returned. -/
def sweepMarker (s : State) (l : Nat) (vl : Fin 4) (p : Packet) : State :=
  if p.op = 0x08 then
    if linkState s l = 2 ∨ linkState s l = 3 then sendOn s l { sweepPacket s l vl 0x09 p.ctxgen with dst := p.src } false
    else s
  else if p.op = 0x09 then echoBack s l { p with vl := vl }
  else s

def execSweepMarker (l : LinkId) (vl : Fin 4) (p : Packet) (s : State) : Host.Outcome State Fault Refusal :=
  .next (sweepMarker s l vl p)

/-- SWEEP_TIMEOUT: a link without an echo for 2 ms counts as swept. -/
def sweepTimeout (s : State) (k l : Nat) : State :=
  let x := ctxOf s k
  if x.state = 4 ∧ x.markers.any (fun m => m.1 == l) = true ∧ x.since + 2000000 ≤ ftNow s then
    let s := putEndinfo s k (x.endinfo ||| 4)
    setCtx s k { ctxOf s k with markers := x.markers.filter (fun m => m.1 != l) }
  else s

def execSweepTimeout (k : CtxId) (l : LinkId) (s : State) : Host.Outcome State Fault Refusal := .next (sweepTimeout s k l)

/-- The DSM of a context is free again. -/
def freeDsm (s : State) (k : Nat) : State :=
  (List.range 8).foldl (fun s cd =>
    let x := schedOf s cd
    setSched s cd { x with dsmAlloc := x.dsmAlloc.filter (fun a => a.1 != k), reclaimed := x.reclaimed.filter (fun j => j != k) }) s

/-- The ENDED queues of a context become DISABLED (R410). -/
def disableEnded (s : State) (k : Nat) : State :=
  s.queues.foldl (fun s e =>
    if e.2.state = 3 ∧ qCtx e.2.desc = k then putQueue s e.1 { queueOf s e.1 with state := 0, disabling := false } else s) s

/-- SWEEP_COMPLETE: every marker has returned; the context is FREE, its cores are unbound, and the CTX_CMD that waits
completes. -/
def sweepComplete (s : State) (k : Nat) : State :=
  let x := ctxOf s k
  if x.state = 4 ∧ x.markers.isEmpty then
    let s := freeDsm ((ctxCores s k).foldl (fun s c => freeCore s c none) s) k
    let s := putCtx s k { ctxOf s k with state := 0, cmdBusy := false, flr := false }
    let s := if x.flr then disableEnded s k else s
    if x.cmdBusy then ctxResult s k 0 else s
  else s

def execSweepComplete (k : CtxId) (s : State) : Host.Outcome State Fault Refusal := .next (sweepComplete s k)

/-! ### Answers to fault records (R266 to R268) -/

/-- A transfer of the core is suspended. -/
def xferSuspended (x : Sparse (Option Xfer)) : Bool := x.any (fun e => match e.2 with | some y => y.state == 1 | none => false)

/-- A record without an answer covers virtual core `v` or one of its transfers. -/
def vcCovered (s : State) (k v : Nat) : Bool :=
  (s.faults.waiting ++ s.faults.opened ++ s.faults.beyond).any (fun r => r.covers.any (fun c => match c with
    | .core a b => a == k && b == v
    | .xfer a b _ => a == k && b == v
    | .window a b _ => a == k && b == v
    | _ => false))

/-- A virtual core goes on once nothing of it is suspended: on its core, whose instruction cache is empty (R48) and whose HALT
ends its work item where all is idle (R80), or when it is placed again (R268). -/
def resumeVc (s : State) (k v : Nat) : State :=
  let x := vcOf s k v
  if vcCovered s k v then s
  else if x.dir = 1 then
    let y := coreOf s x.core
    if coreState s x.core = 5 ∧ xferSuspended y.xfers = false ∧ y.winFault.isEmpty then
      haltCheck (setF (modCore s x.core (fun y => { y with icache := [] })) F.CORE_STS_STATE x.core 1) x.core
    else s
  else if xferSuspended x.savedXfers || !x.savedWinFault.isEmpty then s
  else setVc s k v { x with retried := true }

/-- Mark a suspended transfer as running again: its FVA is 0 (Table 8.11) and it reads its indices anew. -/
def wakeXfer (id : Nat) (x : Sparse (Option Xfer)) : Sparse (Option Xfer) :=
  x.map (fun e => match e.2 with
    | some y => if y.id = id ∧ y.state = 1 then (e.1, some { y with state := 0, fva := 0, idx := [] }) else e
    | none => e)

/-- RETRY resumes one thing that the record covers; its access is made again and may fault again. -/
def resumeOne (s : State) : Covered → State
  | .core k v => resumeVc s k v
  | .xfer k v id =>
    let x := vcOf s k v
    let s := if x.dir = 1 then modCore s x.core (fun c => { c with xfers := wakeXfer id c.xfers })
      else setVc s k v { x with savedXfers := wakeXfer id x.savedXfers }
    resumeVc s k v
  | .window k v st =>
    let x := vcOf s k v
    let s := if x.dir = 1 then modCore s x.core (fun c => { c with winFault := sset none c.winFault st none })
      else setVc s k v { x with savedWinFault := sset none x.savedWinFault st none }
    resumeVc s k v
  | .coll q i => collRetry s q i
  | .claim n => claimRetry s n
  | .kiln q i => kilnRetry s q i
  | .bind _ _ => s

/-- The answer to record `seq` is taken: the record, with LATE when its bound fell due first (R267, R342); an answer that no
record of an ACTIVE context awaits is counted and ignored. -/
def takeAnswer (s : State) (seq : Nat) : Option FaultRec × State :=
  match s.faults.opened.find? (fun r => r.seq % 2 ^ 24 == seq) with
  | some r =>
    if (ctxOf s r.ctx).state = 1 ∧ (ctxOf s r.ctx).gen = r.gen then
      let (late, s) := completeInTime s iodDie (.faultService r.seq)
      let s := if late then setF s F.FLT_RESP_STS_LATE 0 1 else s
      (some r, { s with faults := { s.faults with opened := s.faults.opened.erase r } })
    else (none, inc s F.CTX_CNT0_FRESP_STALE_CNT 0)
  | none =>
    match s.faults.expired.find? (fun n => n % 2 ^ 24 == seq) with
    | some n => (none, completeAfter { s with faults := { s.faults with expired := s.faults.expired.erase n } } iodDie)
    | none => (none, inc s F.CTX_CNT0_FRESP_STALE_CNT 0)

/-- FLT_RESP RETRY. -/
def fltRespRetry (s : State) (seq : Nat) : State :=
  match takeAnswer s seq with
  | (some r, s) => r.covers.foldl resumeOne s
  | (none, s) => s

def execFltRespRetry (seq : BitVec 24) (s : State) : Host.Outcome State Fault Refusal := .next (fltRespRetry s seq.toNat)

/-- FLT_RESP ABORT: the context is killed, FAULT_ABORT. -/
def fltRespAbort (s : State) (seq : Nat) : State :=
  match takeAnswer s seq with
  | (some r, s) => moduleKill s r.ctx 3
  | (none, s) => s

def execFltRespAbort (seq : BitVec 24) (s : State) : Host.Outcome State Fault Refusal := .next (fltRespAbort s seq.toNat)

/-- FAULT_SERVICE_TIMEOUT: the bound of record `seq` has won (R267). -/
def faultServiceTimeout (s : State) (seq : Nat) : State :=
  if hasFired s iodDie (.faultService seq) then
    let s := takeFired s iodDie (.faultService seq)
    match s.faults.opened.find? (fun r => r.seq == seq) with
    | some r =>
      let s := { s with faults := { s.faults with
        opened := s.faults.opened.erase r, expired := s.faults.expired ++ [seq] } }
      moduleKill (inc s F.CTX_CNT0_FLT_TIMEOUT_CNT 0) r.ctx 4
    | none => s
  else s

def execFaultServiceTimeout (seq : BitVec 32) (s : State) : Host.Outcome State Fault Refusal :=
  .next (faultServiceTimeout s seq.toNat)

/-! ### A walk on behalf of a unit (R258, R264) -/

/-- TRANSLATION_WALK: a success is cached on the unit's die; a fault suspends the work that met it: the core, the running
command of the context's group, or the kiln's job. Units of a context that is no longer ACTIVE issue none (R271). -/
def translationWalk (s : State) (u : XUnit) (k va : Nat) (acc : Access) : State :=
  if (ctxOf s k).state ≠ 1 then s
  else
  match u with
  | .core c =>
    match (coreOf s c).bound with
    | some b =>
      if b.ctx ≠ k then s
      else
        match translate s (cdOf c) k va acc with
        | (.ok _, s) => s
        | (.fault e l p, s) => report (raiseFault s k 0 c ⟨va, e, l, p⟩ acc (.core k b.vcore)) c 5
    | none => s
  | .coll =>
    match s.col.groups.findSome? (fun g => match g.2.run with
      | some r => if r.cmd.ctx = k ∧ r.susp = false then some (g.1, r) else none
      | none => none) with
    | some (gr, r) =>
      match translate s iodDie k va acc with
      | (.ok _, s) => s
      | (.fault e l p, s) => collFault s gr r ⟨va, e, l, p⟩ acc
    | none => s
  | .kiln m =>
    match currentJob s m with
    | some j =>
      if j.ctx ≠ k then s
      else
        match translate s iodDie k va acc with
        | (.ok _, s) => s
        | (.fault e l p, s) => jobFault s m j ⟨va, e, l, p⟩ acc
    | none => s

def execTranslationWalk (u : XUnit) (k : CtxId) (va : BitVec 48) (acc : Access) (s : State) : Host.Outcome State Fault Refusal :=
  .next (translationWalk s u k va.toNat acc)

/-! ### Queue timeouts (R286, R387) -/

/-- The work item of an entry is taken from its virtual cores, whose cores stop without a save; other work items run on. -/
def stopItem (s : State) (k q i : Nat) : State :=
  let s := ((ctxCores s k).filter (fun c => (coreOf s c).item == some (q, i))).foldl (fun s c => dropXfers (quietCore s c) c) s
  let vs := (List.range 128).filter (fun v => (vcOf s k v).cur == some (q, i) || (vcOf s k v).items.contains (q, i))
  let s := vs.foldl (fun s v =>
    let x := vcOf s k v
    setVc s k v { x with
      items := x.items.filter (fun e => e != (q, i)), cur := if x.cur = some (q, i) then none else x.cur }) s
  let s := (vs.filter (fun v => (vcOf s k v).cur.isNone && (vcOf s k v).dir != 1)).foldl (fun s v => dropSaved s k v) s
  vs.foldl (fun s v => startNext s k v) s

/-- The kiln job of an entry ends without a completion of its own. -/
def dropKiln (s : State) (q i : Nat) : State :=
  match kilnOf s q i with
  | some m => setJobs (dropJobCmds s q i) m ((kilnJobs s m).filter (fun j => !(j.q == q && j.i == i)))
  | none => s

/-- QUEUE_TIMEOUT. -/
def queueTimeout (s : State) (q i : Nat) : State :=
  if !hasFired s iodDie (.queueTimeout q i) then s
  else
    let s := takeFired s iodDie (.queueTimeout q i)
    match entryOf s q i with
    | none => s
    | some _ =>
      let d := (queueOf s q).desc
      let k := qCtx d
      let s := if qClass d = 0 then stopItem s k q i else if qClass d = 1 then dropKiln s q i else s
      let s := completeEntry s q i 4 0 false
      let s := setQueue s q { queueOf s q with timedOut := (queueOf s q).timedOut ++ [i] }
      let s := if qClass d = 2 then collTimeout s q i else if qClass d = 0 then haltQueue s q else s
      let s := latchErr s (pageBase .iod 0) 6 k q
      healthOpen s 1 (ctxgenOf k (ctxOf s k).gen).toNat (some q)

def execQueueTimeout (q : QueueId) (i : EntryIdx) (s : State) : Host.Outcome State Fault Refusal := .next (queueTimeout s q i)

end Sys2Proof.Machine
end

