-- ==== Sys2Proof/Machine/Lost.lean ====
section
/-! DEFINITION. Machine/Lost.lean: what LINK_LOST does to the unit that originated a packet (R325, R330, R376, R378). -/

namespace Sys2Proof.Machine

/-- LINK_LOST of a twin message: a PAGE goes again over another causeway link, or its pass is abandoned; COMMIT and its answer
go again while a causeway is UP, XFER and XFER_END always. -/
def twinLost (s : State) (p : Packet) : State :=
  match p.token.toNat % 16 with
  | 0 => if (causeways s).isEmpty then abandonPass s else originate s p
  | 1 | 2 => if (causeways s).isEmpty then s else originate s p
  | 6 | 7 => originate s p
  | _ => s

/-- LINK_LOST of one packet of this module. -/
def packetLost (s : State) (link : Nat) (p : Packet) : State :=
  match p.op.toNat with
  | 0x02 => kilnPeerLost s p
  | 0x04 => twinLost s p
  | 0x05 => collLost s link p
  | _ => s

/-- Every LINK_LOST that waits reaches its unit. -/
def settleLost (s : State) : State :=
  s.lost.foldl (fun s x => packetLost s x.1 x.2) { s with lost := [] }

/-- LNK_CTL DISABLE (Table 11.8), with what it loses. -/
def linkOff (s : State) (l : Nat) : State := settleLost (lnkDisable s l)

end Sys2Proof.Machine
end

