-- ==== Sys2Proof/Machine/Ras.lean ====
section
/-! DEFINITION. Machine/Ras.lean: kindling tests, heartbeats, fence verdicts, reset domains, crash dumps and fault injection
(R384 to R397). -/

namespace Sys2Proof.Machine

def modRas (s : State) (f : RasSt → RasSt) : State := { s with ras := f s.ras }

/-! ### Kindling tests (R384, R385) -/

/-- A seed whose comparison waits for a core of CD `cd`: run once, or twice with two signatures, on other CDs. -/
def openSeed (s : State) (cd : Nat) : Option Word64 :=
  (s.ras.kt.find? (fun r =>
    let l := s.ras.kt.filter (fun x => x.seed == r.seed)
    l.all (fun x => cdOf x.core != cd) && match l with
      | [_] => true
      | [a, b] => a.sig != b.sig
      | _ => false)).map (fun r => r.seed)

/-- Kindling tests may run on the core: it is unbound, and its scheduler processor runs. -/
def testable (s : State) (c : Nat) : Bool :=
  getF s F.RAS_KT_CFG_KT_EN 0 == 1 && getF s F.MOD_STS_CORES_REL 0 == 1 && (coreOf s c).bound.isNone && coreState s c == 0 &&
    !restarting s (9 + cdOf c)

/-- The core's turn in the test order of its CD: the cores that ABFT events moved to its head go first (R385); among the others
the spec states no order. -/
def testTurn (s : State) (c : Nat) : Bool :=
  match s.ras.order.find? (fun d => cdOf d == cdOf c && testable s d) with
  | some d => d == c
  | none => true

/-- The signature of core `c` for a seed. The kernel's array operations meet an injection that waits on an array, which leaves
the signature free. -/
def signatureOf (s : State) (c : Nat) (seed : Word64) : Word64 × State :=
  let k := coreOf s c
  if k.injCell.isEmpty && k.injPar.isEmpty then (Config.kindlingSig seed ^^^ Config.kindlingFlaw c seed, s)
  else freshBits (setCore s c { k with injCell := [], injPar := [] })

/-- KINDLING_TEST on an unbound core. -/
def kindlingTest (s : State) (c : Nat) (discard : Bool) : State :=
  if testable s c = false ∨ testTurn s c = false ∨ discard then s
  else
    let (seed, s) := match openSeed s (cdOf c) with
      | some d => (d, s)
      | none => freshBits s
    let (v, s) := signatureOf s c seed
    inc (modRas s (fun r => { r with kt := r.kt ++ [⟨seed, c, v⟩], order := r.order.erase c })) F.RAS_KT_CNT_KT_RUN_CNT 0

def execKindlingTest (c : CoreId) (discard : Bool) (s : State) : Host.Outcome State Fault Refusal :=
  .next (kindlingTest s c discard)

/-- The RAS_SUSPECT word of core `c`. -/
def suspectFld (c : Nat) : Fld := ⟨.ras, 0x108 + 4 * (c / 32), c % 32, c % 32, .w1c, 0⟩

def markSuspect (s : State) (c : Nat) : State := healthOpen (setF s (suspectFld c) 0 1) 8 0 (some c)

/-- SIGNATURE_COMPARE of a seed. -/
def signatureCompare (s : State) (seed : Word64) : State :=
  let l := s.ras.kt.filter (fun x => x.seed == seed)
  let done := modRas s (fun r => { r with kt := r.kt.filter (fun x => x.seed != seed) })
  match l with
  | [a, b] => if a.sig = b.sig then done else s
  | [a, b, c] =>
    if a.sig = b.sig then markSuspect done c.core
    else if a.sig = c.sig then markSuspect done b.core
    else if b.sig = c.sig then markSuspect done a.core
    else inc done F.RAS_KT_CNT_KT_MISMATCH_CNT 0
  | _ => s

def execSignatureCompare (seed : BitVec 64) (s : State) : Host.Outcome State Fault Refusal := .next (signatureCompare s seed)

/-! ### Heartbeats (R387) -/

/-- Sample core `c`: without an issue, or with its heartbeat held, one more idle sample in STATE 1; HANG_CORE once. -/
def sampleCore (s : State) (c : Nat) : State :=
  let k := coreOf s c
  let h := sget HbSt.reset s.ras.hb c
  let put (s : State) (h : HbSt) : State := modRas s (fun r => { r with hb := sset HbSt.reset r.hb c h })
  match k.bound with
  | none => put s ⟨k.issued, 0, false⟩
  | some b =>
    if k.issued ≠ h.issued ∧ k.beatHold = 0 then put s ⟨k.issued, 0, false⟩
    else
      let s := setCore s c { k with beatHold := k.beatHold - 1 }
      if coreState s c ≠ 1 then put s ⟨k.issued, 0, h.raised⟩
      else
        let n := h.idle + 1
        let limit := max 1 (getF s F.RAS_HB_CFG_HB_LIMIT 0)
        if limit ≤ n ∧ h.raised = false then
          let s := put s ⟨k.issued, n, true⟩
          let s := latchErr s (pageBase .cd (cdOf c)) 6 b.ctx (c % 16)
          healthOpen s 2 (ctxgenOf b.ctx b.gen).toNat (some c)
        else put s ⟨k.issued, n, h.raised⟩

/-- HEARTBEAT_SAMPLE of a CD, by its scheduler processor. -/
def heartbeatSample (s : State) (cd : Nat) : State :=
  if restarting s (9 + cd) then s else (coresOf cd).foldl sampleCore s

def execHeartbeatSample (cd : CdId) (s : State) : Host.Outcome State Fault Refusal := .next (heartbeatSample s cd)

/-! ### The fence verdict (R389, R390) -/

def fenceOf (s : State) (k : Nat) : FenceEnt := sget FenceEnt.reset s.fence k

/-- Contexts that a verdict changes. -/
def verdictCtxs (s : State) (job ep : Nat) : List Nat :=
  (List.range 4096).filter (fun k =>
    let d := (ep + 65536 - (fenceOf s k).fepoch) % 65536
    (fenceOf s k).job == job && decide (1 ≤ d ∧ d ≤ 32767))

/-- RAS_VERDICT. -/
def rasVerdict (s : State) (job ep : Nat) (dead : Bool) : State :=
  match verdictCtxs s job ep with
  | [] => inc s F.RAS_CNT0_VERDICT_STALE_CNT 0
  | l =>
    let s := l.foldl (fun s k =>
      let s := { s with fence := sset FenceEnt.reset s.fence k { fenceOf s k with fepoch := ep } }
      if dead then moduleKill s k 5 else s) s
    if dead then healthOpen s 9 0 (some job) else s

def execRasVerdict (job : BitVec 16) (fepoch : BitVec 16) (dead : Bool) (s : State) : Host.Outcome State Fault Refusal :=
  .next (rasVerdict s job.toNat fepoch.toNat dead)

/-! ### Reset domains (R392, R393, R483) -/

/-- Fields and header of a page return to their reset values, and its indirect FIFO empties; it is under reset until the
reset ends. -/
def resetPage (s : State) (pn : Page × Nat) : State :=
  let b := pageBase pn.1 pn.2
  let keep {α : Type} (l : Sparse α) : Sparse α := l.filter (fun e => !decide (b ≤ e.1 ∧ e.1 < b + 4096))
  { s with
    regs := keep s.regs
    regB := keep s.regB
    regC := keep s.regC
    pages := sset PageSt.reset s.pages b { PageSt.reset with inReset := true } }

/-- A reset of these pages has ended. -/
def endPageReset (s : State) (pn : Page × Nat) : State :=
  let b := pageBase pn.1 pn.2
  { s with pages := sset PageSt.reset s.pages b { sget PageSt.reset s.pages b with inReset := false } }

def corePages (c : Nat) : List (Page × Nat) := [(.core, c), (.arr, c), (.num, c), (.vec, c), (.bwd, c), (.dma, c)]

/-- Pages of a reset unit (Tables 13.7, 16.8). A reset of the whole IOD spares the host interface (R393), the MOD page and
Aedord's page (DESIGN CHOICE, notes/assumptions/27.md). -/
def resetPages (domain unit : Nat) : List (Page × Nat) :=
  match domain, unit with
  | 1, c => corePages c
  | 2, d => [(.cd, d), (.tmr, d), (.sch, d)] ++ (coresOf d).flatMap corePages
  | 3, m => [(.md, m), (.kln, m)]
  | 4, l => [(.lnk, l)]
  | 5, 0 => [(.col, 0)]
  | 5, 1 => [(.twn, 0)]
  | 5, 2 => [(.dbg, 0)]
  | 5, 7 => [(.iod, 0), (.ctx, 0), (.que, 0), (.res, 0), (.col, 0), (.twn, 0), (.ras, 0), (.rte, 0), (.ft, 0), (.tmr, 8),
      (.dbg, 0), (.sto, 0), (.eth, 0), (.eth, 1)] ++ (List.range 48).map (fun l => (Page.lnk, l))
  | _, _ => []

/-- The unit exists. -/
def unitExists (domain unit : Nat) : Bool :=
  match domain with
  | 1 => decide (unit < 128)
  | 2 | 3 => decide (unit < 8)
  | 4 => decide (unit < 48)
  | 5 => [0, 1, 2, 7].contains unit
  | 6 => true
  | _ => false

/-- Every context is FREE. -/
def allFree (s : State) : Bool := s.ctxs.all (fun e => e.2.state == 0)

/-- The condition of Table 13.7; that of the module is RESET_N, which no request is. -/
def resetAllowed (s : State) (domain unit : Nat) : Bool :=
  match domain with
  | 1 => (coreOf s unit).bound.isNone && coreState s unit == 0
  | 2 => s.ctxs.all (fun e => e.2.state == 0 || !bitAt e.2.cdmask unit)
  | 3 => allFree s
  | 5 => unit != 7 || (allFree s && pairState s == 0)
  | 6 => false
  | _ => true

/-- A core's registers, units and SPM. -/
def resetCore (s : State) (c : Nat) : State := setCore s c CoreSt.reset

/-- Contents of MD `m` and of its cache are lost; training and fill start again. -/
def resetMd (s : State) (m : Nat) : State :=
  setMd { s with
    dram := s.dram.filter (fun e => dpaMd e.1 != m)
    dramChk := s.dramChk.filter (fun e => dpaMd (16 * e.1) != m)
    dramPoison := s.dramPoison.filter (fun e => dpaMd (64 * e.1) != m)
    cache := s.cache.filter (fun e => dpaMd (64 * e.1) != m) } m MdSt.reset

/-- Unit 0 of domain 5: every group BROKEN, every command that runs or waits ends with GROUP_BROKEN. -/
def resetColl (s : State) : State :=
  let s := s.col.groups.foldl (fun s g =>
    let s := collFail s g.1 0x52 0 none
    let x := groupOf s g.1
    x.waiting.foldl (fun s c => finishEntry (dropTev s g.1 (cSeqOf c.ent)) c.q c.i 0x52 0) (setGroup s g.1 { x with waiting := [] })) s
  let s := s.col.puts.foldl (fun s p => putEnd s p 0x52 0) s
  let s := s.col.waits.foldl (fun s c => finishEntry s c.q c.i 0x52 0) { s with col := { s.col with waits := [] } }
  (List.range 4096).foldl (fun s gr =>
    let (g, _, s) := readGroup s gr
    putGroup s gr (gNextSeq g) 2) s

/-- The dump that runs, if any, ends without a record of it. -/
def stopDump (s : State) : State :=
  match s.ras.dump with
  | some _ => healthOpen (setF (modRas s (fun r => { r with dump := none })) F.DMP_STS_BUSY 0 0) 12 0 none
  | none => s

/-- Unit 7 of domain 5: every IOD function. Links are DOWN, both routing banks unreachable, fabric time NEVER, the pair
UNPAIRED. -/
def resetIod (s : State) : State :=
  { s with
    links := []
    routeQ := []
    lost := []
    rte := []
    ft := { FtSt.reset with aclk5 := s.ft.aclk5 }
    wheels := sset WheelSt.reset s.wheels iodDie WheelSt.reset
    xlt := sset [] s.xlt iodDie []
    queues := []
    items := []
    slots := []
    models := []
    adapters := []
    resLatch := []
    twin := TwinSt.reset
    sto := { StoSt.reset with next := s.sto.next }
    col := ColSt.reset
    fence := []
    faults := { waiting := [], beyond := [], opened := [], seq := s.faults.seq, expired := [] }
    ras := { s.ras with dump := none, inj := none } }

/-- The reset of a unit takes effect. -/
def resetUnit (s : State) (domain unit : Nat) : State :=
  match domain with
  | 1 => (resetPages 1 unit).foldl resetPage (resetCore s unit)
  | 2 =>
    let s := (coresOf unit).foldl resetCore s
    let s := { s with
      dsm := sset Sram.zero s.dsm unit Sram.zero
      sched := sset SchedSt.reset s.sched unit SchedSt.reset
      wheels := sset WheelSt.reset s.wheels unit WheelSt.reset
      xlt := sset [] s.xlt unit []
      sigs := sset [] s.sigs unit [] }
    (resetPages 2 unit).foldl resetPage s
  | 3 => (resetPages 3 unit).foldl resetPage (resetMd s unit)
  | 4 => startTraining ((resetPages 4 unit).foldl resetPage (settleLost (linkDown s unit 5))) unit
  | 5 =>
    if unit = 0 then (resetPages 5 0).foldl resetPage (resetColl s)
    else if unit = 1 then
      let st := pairState s
      let s := (resetPages 5 1).foldl resetPage (abandonPass s)
      if st = 4 then
        let s := { s with routeQ := s.routeQ.filter (fun r => !(r.fromLink.isNone && (isTwin r.pkt 6 || isTwin r.pkt 7))) }
        twinEnd (setPair s 0) 7
      else setPair s st
    else if unit = 2 then (resetPages 5 2).foldl resetPage (stopDump s)
    else (resetPages 5 7).foldl resetPage (resetIod (resetColl (stopDump s)))
  | _ => s

/-- RESET_DONE of a TEVENT's request. -/
def resetHealth (s : State) (tevent : Bool) (r : Nat) : State :=
  if tevent then
    let (u, s) := freshBits s
    raiseHealth s 13 0 (u.toNat % 2 ^ 32) r
  else s

/-- A request that resets nothing completes. -/
def resetEnds (s : State) (tevent : Bool) (r : Nat) : State :=
  resetHealth (setF (setF s F.RST_STS_BUSY 0 0) F.RST_STS_RESULT 0 r) tevent r

/-- Every grant ends, its session stays open: at any reset (R457). -/
def endGrants (s : State) : State :=
  setF { s with aed := { s.aed with
    sessions := s.aed.sessions.map (fun e => (e.1, e.2.map (fun x => { x with grants := [] }))) } } F.AED_AUTH_GRANTS 0 0

/-- The reset begins, when its condition holds. -/
def resetBegin (s : State) (x : RstSt) : State :=
  if resetAllowed s x.domain x.unit then
    let s := modRas (endGrants (resetUnit s x.domain x.unit)) (fun r => { r with rst := some { x with waits := false } })
    setF s F.RST_STS_BUSY 0 1
  else resetEnds (modRas s (fun r => { r with rst := none })) x.tevent 1

/-! ### Crash dump (R394, R395) -/

/-- The page's unit is under reset, or not yet released: core and CD pages before CORES_REL, MD pages before boot ends
(R446, R483). -/
def pageHeld (s : State) (p : Page) (n : Nat) : Bool :=
  (sget PageSt.reset s.pages (pageBase p n)).inReset || (match p with
    | .core | .arr | .num | .vec | .bwd | .dma | .cd | .sch => getF s F.MOD_STS_CORES_REL 0 == 0
    | .tmr => n != 8 && getF s F.MOD_STS_CORES_REL 0 == 0
    | .md | .kln => getF s F.MOD_STS_BOOTED 0 == 0
    | _ => false)

/-- A dump starts, or is ignored while one runs. -/
def dumpBegin (s : State) (trigger : Nat) : State :=
  match s.ras.dump with
  | some _ => setF s F.DMP_STS_OVERRUN 0 1
  | none =>
    setF (modRas s (fun r => { r with dump := some ⟨trigger, getF s F.DMP_CTL_FORMAT 0, ftNow s, []⟩ })) F.DMP_STS_BUSY 0 1

/-- RST_CMD, or a TEVENT of kind 2 whose ARG says the same (R392). -/
def resetRequest (s : State) (domain unit : Nat) (dump : Bool) : State :=
  let word := domain % 16 + unit % 256 * 16 + (if dump then 4096 else 0)
  let ev := s.col.due.find? (fun d => d.2.1 == 2 && d.2.2.1 % 8192 == word)
  if s.ras.rst.isSome then (if ev.isSome then s else setF s F.RST_STS_OVERRUN 0 1)
  else
    let s := match ev with
      | some d => { s with col := { s.col with due := s.col.due.erase d } }
      | none => s
    let x : RstSt := ⟨domain, unit, 0, ev.isSome, dump⟩
    if !unitExists domain unit then resetEnds s x.tevent 2
    else if !resetAllowed s domain unit then resetEnds s x.tevent 1
    else if dump then dumpBegin (setF (modRas s (fun r => { r with rst := some x })) F.RST_STS_BUSY 0 1) 2
    else resetBegin s x

def execCoreReset (c : CoreId) (dump : Bool) (s : State) : Host.Outcome State Fault Refusal := .next (resetRequest s 1 c dump)
def execCdReset (cd : CdId) (dump : Bool) (s : State) : Host.Outcome State Fault Refusal := .next (resetRequest s 2 cd dump)
def execMdReset (m : MdId) (dump : Bool) (s : State) : Host.Outcome State Fault Refusal := .next (resetRequest s 3 m dump)
def execLinkReset (l : LinkId) (dump : Bool) (s : State) : Host.Outcome State Fault Refusal := .next (resetRequest s 4 l dump)
def execIodFunctionReset (u : BitVec 8) (dump : Bool) (s : State) : Host.Outcome State Fault Refusal :=
  .next (resetRequest s 5 u.toNat dump)

/-- A TEVENT of kind 2 that names no unit. -/
def badDue (s : State) : Option (Nat × Nat × Nat × Nat) :=
  s.col.due.find? (fun d => d.2.1 == 2 && !unitExists (d.2.2.1 % 16) (d.2.2.1 / 16 % 256))

/-- RESET_DONE: the reset that runs ends, an MD's once its pairs are filled again or one failed to train. -/
def resetDone (s : State) : State :=
  match s.ras.rst with
  | some x =>
    if x.waits ∨ (x.domain = 3 ∧ getF s F.MD_STS_FILL_DONE x.unit = 0 ∧ getF s F.MD_STS_TRAIN_FAIL x.unit = 0) then s
    else resetEnds ((resetPages x.domain x.unit).foldl endPageReset (modRas s (fun r => { r with rst := none }))) x.tevent 0
  | none =>
    match badDue s with
    | some d => resetEnds { s with col := { s.col with due := s.col.due.erase d } } true 2
    | none => s

def execResetDone (s : State) : Host.Outcome State Fault Refusal := .next (resetDone s)

/-- DUMP_START. -/
def execDumpStart (trigger : DumpTrigger) (s : State) : Host.Outcome State Fault Refusal :=
  .next (dumpBegin s (match trigger with | .software => 0 | .aedord => 1 | .reset => 2))

/-- Page of dump unit `n`, in the order of the visit (R394, Table 16.8). -/
def dumpPage (n : Nat) : Page × Nat :=
  if n < 128 then (.core, n)
  else if n < 136 then (.cd, n - 128)
  else if n < 144 then (.md, n - 136)
  else if n < 192 then (.lnk, n - 144)
  else match n - 192 with
    | 0 => (.col, 0)
    | 1 => (.twn, 0)
    | 2 => (.dbg, 0)
    | 3 => (.host, 0)
    | 4 => (.sto, 0)
    | 5 => (.ctx, 0)
    | 6 => (.aed, 0)
    | 7 => (.iod, 0)
    | _ => (.mod, 0)

/-- The next unit's code is recorded. -/
def dumpCode (s : State) (d : DumpSt) (v : Nat) : State := modRas s (fun r => { r with dump := some { d with codes := d.codes ++ [v] } })

/-- DUMP_UNIT_READ: the next unit answers; one under reset does not. -/
def dumpUnitRead (s : State) : State :=
  match s.ras.dump with
  | some d =>
    let p := dumpPage d.codes.length
    let b := pageBase p.1 p.2
    if 201 ≤ d.codes.length ∨ pageHeld s p.1 p.2 then s
    else dumpCode s d (rdWord s (b + 0x01C)).toNat
  | none => s

def execDumpUnitRead (s : State) : Host.Outcome State Fault Refusal := .next (dumpUnitRead s)

/-- DUMP_UNIT_TIMEOUT. -/
def dumpUnitTimeout (s : State) : State :=
  match s.ras.dump with
  | some d => if d.codes.length < 201 then dumpCode s d 0xFFFFFFFF else s
  | none => s

def execDumpUnitTimeout (s : State) : Host.Outcome State Fault Refusal := .next (dumpUnitTimeout s)

def dumpBuf (s : State) : Nat := getPair s F.DMP_BUF_LO_BASE_LO F.DMP_BUF_HI_BASE_HI 0

/-- The header of Table 13.8. -/
def dumpHeader (s : State) (d : DumpSt) (seq noresp : Nat) : List Byte :=
  leBytes 4 0x57444D50 ++ leBytes 2 d.format ++ leBytes 2 201 ++ leBytes 4 seq ++ leBytes 1 d.trigger ++ leBytes 1 0 ++
    leBytes 2 noresp ++ leBytes 8 d.start ++ leBytes 8 (ftNow s) ++ leBytes 8 (if d.format = 1 then dumpBuf s else 0) ++ leBytes 24 0

/-- The first 4 KiB of SPM bank `k` of core `c`. -/
def spmSample (s : State) (c k : Nat) : List Byte := (sramRead (coreOf s c).spm (262144 * k) 4096).1

/-- The image of FORMAT 1 at DMP_BUF. -/
def dumpImage (s : State) (capture : List Byte) : State :=
  let s := devWrite s (dumpBuf s) (padTo 4096 capture)
  (List.range 2048).foldl (fun s n => devWrite s (dumpBuf s + 4096 + 4096 * n) (spmSample s (n / 16) (n % 16))) s

/-- During a trip hold, the trip entry follows the dump header, and a commit takes both at once (R495). -/
def tripEntry (s : State) : State :=
  if s.pwr.trip.isSome then
    let s := plog s 6 []
    if s.aed.commits.contains .logs then s else wantCommit s .logs
  else s

/-- DUMP_END: header and codes go to the log writer, the header to the persistent log, the samples to DMP_BUF; a reset that
waits for the dump begins. During an Aedord restart it waits (Table 15.4). The first dump since cold reset has number 1
(DEDUCED: DMP_STS.DUMPSEQ reads 0 before it). -/
def dumpEnd (s : State) : State :=
  match s.ras.dump with
  | some d =>
    if d.codes.length < 201 ∨ restarting s 17 then s
    else
      let seq := s.ras.dumpSeq + 1
      let nr := (d.codes.filter (fun v => v == 0xFFFFFFFF)).length
      let h := dumpHeader s d seq nr
      let cap := h ++ d.codes.flatMap (fun v => leBytes 4 v)
      let s := modRas s (fun r => { r with dump := none, dumpSeq := seq })
      let s := setF (setF (setF s F.DMP_STS_BUSY 0 0) F.DMP_STS_NORESP 0 nr) F.DMP_STS_DUMPSEQ 0 (seq % 65536)
      let s := plog (setLog s { s.aed.log with dumps := s.aed.log.dumps ++ [cap] }) 0 h
      let s := traceFree (if d.format = 1 then dumpImage s cap else s) 0x500 0x041
      let s := healthOpen (tripEntry s) 12 0 none
      match s.ras.rst with
      | some x => if x.waits then resetBegin s x else s
      | none => s
  | none => s

def execDumpEnd (s : State) : Host.Outcome State Fault Refusal := .next (dumpEnd s)

/-! ### Fault injection (R396, R397) -/

/-- A grant of this scope stands in some session: 0 JTAG, 1 INJECT, 2 CAL, 3 FM, 4 OWNER. -/
def grantOpen (s : State) (scope : Nat) : Bool :=
  s.aed.sessions.any (fun e => match e.2 with | some x => x.grants.any (fun g => g.1 == scope) | none => false)

/-- INJ_CTL CANCEL. -/
def injCancel (s : State) : State :=
  setF (modRas (disarm s iodDie .inject) (fun r => { r with inj := none })) F.INJ_STS_PENDING 0 0

def execInjCancel (s : State) : Host.Outcome State Fault Refusal := .next (injCancel s)

/-- INJ_CTL ARM: refused without an INJECT grant; a pending injection gives way to the new one, and a reserved class arms
nothing (DESIGN CHOICE, notes/assumptions/28.md). -/
def injArm (s : State) : State :=
  if !grantOpen s 1 then setF s F.INJ_STS_DENIED 0 1
  else
    let cls := getF s F.INJ_CTL_CLASS 0
    if cls = 0 ∨ 10 < cls then s
    else
      let s := injCancel s
      match armSched s iodDie (getPair s F.INJ_TIME_LO_FTIME_LO F.INJ_TIME_HI_FTIME_HI 0) .inject with
      | some s =>
        let x : InjSt := ⟨cls, getF s F.INJ_CTL_COUNT 0, getF s F.INJ_TGT_UNIT 0, getF s F.INJ_TGT_ARRAY 0,
          getPair s F.INJ_ADDR_LO_ADDR_LO F.INJ_ADDR_HI_ADDR_HI 0⟩
        setF (modRas s (fun r => { r with inj := some x })) F.INJ_STS_PENDING 0 1
      | none => setF (timerFull s iodDie) F.INJ_STS_TIMER_FULL 0 1

def execInjArm (s : State) : Host.Outcome State Fault Refusal := .next (injArm s)

/-- Invert the first `n` data symbols of a stored granule: what its check difference becomes, and its byte. -/
def flipDiff (n : Nat) : Word16 := (List.range n).foldl (fun d i => d ^^^ diffOfSym i 0xF) 0

def flipByte (n : Nat) : Byte := if n = 1 then 0x0F else 0xFF

/-- Classes 1 and 2: granule 0 of the stored line of a DPA. -/
def injectLine (s : State) (a n : Nat) : State :=
  let l := a / 64
  if dpaLimit ≤ a then s
  else
    { s with
      dram := sset 0 s.dram (64 * l) (sget 0 s.dram (64 * l) ^^^ flipByte n)
      dramChk := sset 0 s.dramChk (4 * l) (sget 0 s.dramChk (4 * l) ^^^ flipDiff n) }

/-- Classes 3 and 4: the stored granule of an SPM byte. -/
def injectSpm (s : State) (c a n : Nat) : State :=
  if 128 ≤ c ∨ 4194304 ≤ a then s
  else
    let g := a / 16
    modCore s c (fun k => { k with spm :=
      ⟨sset 0 k.spm.bytes (16 * g) (sget 0 k.spm.bytes (16 * g) ^^^ flipByte n),
        sset 0 k.spm.chk g (sget 0 k.spm.chk g ^^^ flipDiff n)⟩ })

/-- The effect of Table 13.9. -/
def injectEffect (s : State) (x : InjSt) : State :=
  let core (f : CoreSt → CoreSt) : State := if x.unit < 128 then modCore s x.unit f else s
  match x.cls with
  | 1 => injectLine s x.addr 1
  | 2 => injectLine s x.addr 2
  | 3 => injectSpm s x.unit x.addr 1
  | 4 => injectSpm s x.unit x.addr 2
  | 5 => if x.array < 3 then core (fun k => { k with injCell := sset false k.injCell x.array true }) else s
  | 6 => if x.array < 3 then core (fun k => { k with injPar := sset false k.injPar x.array true }) else s
  | 7 => if x.unit < 48 then setLink s x.unit { linkOf s x.unit with injFlits := (linkOf s x.unit).injFlits + x.count } else s
  | 8 =>
    if x.unit < 48 ∧ 0 < x.count then
      lossOfSignal (setLink s x.unit { linkOf s x.unit with losUntil := ftNow s + 1000 * x.count }) x.unit 0
    else s
  | 9 => core (fun k => { k with beatHold := k.beatHold + x.count })
  | _ => modTwin s (fun t => { t with beaconHold := ftNow s + 100000 * x.count })

/-- INJECTION_FIRING: the fired event injects and leaves a trace record. -/
def injectionFiring (s : State) : State :=
  if !hasFired s iodDie .inject then s
  else
    let s := takeFired s iodDie .inject
    match s.ras.inj with
    | none => s
    | some x =>
      let s := modRas (setF s F.INJ_STS_PENDING 0 0) (fun r => { r with inj := none, injFired := some (ftNow s) })
      let s := traceFree (inc s F.INJ_STS_FIRED_CNT 0) 0x400 0x000
      injectEffect s x

def execInjectionFiring (s : State) : Host.Outcome State Fault Refusal := .next (injectionFiring s)

end Sys2Proof.Machine
end

