-- ==== Sys2Proof/Machine/Host.lean ====
section
/-! DEFINITION. Machine/Host.lean: the host link: CXL and PCIe, the window, bias, IDE, resets by the host, MSI-X (R399 to
R410, R500). -/

namespace Sys2Proof.Machine

def modHost (s : State) (f : HostSt → HostSt) : State := { s with host := f s.host }

/-! ### Training (R399, R500) -/

/-- HOST_LINK_TRAINING: CXL at 32 GT/s only; none while PERST_N is low. -/
def hostLinkTraining (s : State) (t : HostTraining) : State :=
  if s.pwr.perstN = false then s
  else
    let s := setF s F.HOST_STS_MODE 0 (if t.cxl ∧ t.rate = 0 then 1 else 0)
    setF (setF s F.HOST_STS_WIDTH 0 t.width.toNat) F.HOST_STS_RATE 0 t.rate.toNat

def execHostLinkTraining (t : HostTraining) (s : State) : Host.Outcome State Fault Refusal := .next (hostLinkTraining s t)

/-! ### The window (R401, R407, R408) -/

/-- Offset in the window of a host access: the HDM decoder's in CXL mode, BAR2's in PCIe mode. -/
def winOffset (s : State) (addr len : Nat) : Option Nat :=
  let off := if cxlMode s then (match s.host.hdm with | some b => if b ≤ addr then some (addr - b) else none | none => none)
    else some addr
  match off with
  | some o => if o + len ≤ winBytes s then some o else none
  | none => none

/-- Read lines for the host: data, and how many arrived poisoned. -/
def hostRead (s : State) (a n : Nat) : List Byte × Nat × State :=
  let (bs, k, s) := (linesOf a n).foldl (fun (x : List Byte × Nat × State) l =>
    let (d, p, s) := lineRead x.2.2 l .normal
    (x.1 ++ d, x.2.1 + (if p then 1 else 0), s)) ([], 0, s)
  ((bs.drop (a % 64)).take n, k, s)

/-- The stream of CXL.cachemem, which is also that of the host's accesses to BAR2; its number is the model's (DESIGN CHOICE,
notes/assumptions/42.md). -/
def memStream : Nat := 0

/-- CXL_MEM_ACCESS: performed line by line at the home MDs, each held until FILL_DONE (R217); poison counted by line. An access
outside the window does not reach the module; one on an insecure stream is discarded (R406). -/
def cxlMemAccess (s : State) (x : HostAccess) : State :=
  let len := if x.write then x.data.length else x.len
  match winOffset s x.addr.toNat len with
  | none => s
  | some o =>
    if !hostUp s || sget 0 s.host.ide memStream == 2 then s
    else
      let a := winBase s + o
      if x.write then
        let s := if x.poison then incBy s F.HOST_CNT_POISON_RX_CNT 0 (linesOf a len).length else s
        linesWrite s a x.data x.poison .normal
      else
        let mds := unfilledMds s a len
        let (bs, k, s) := hostRead s a len
        answerRead s mds bs (decide (0 < k)) k

def execCxlMemAccess (a : HostAccess) (s : State) : Host.Outcome State Fault Refusal := .next (cxlMemAccess s a)

/-- HOST_WIN_WRITE: ignored while the HDM decoder is committed, refused beyond device memory or 64 GiB. -/
def hostWinWrite (s : State) (v : Word32) : State :=
  let base := bitsOf v.toNat 11 0
  let size := bitsOf v.toNat 20 12
  if s.host.hdm.isSome then setF s F.HOST_STS_IGNORED 0 1
  else if 256 < size ∨ (size ≠ 0 ∧ dpaLimit < (base + size) * 2 ^ 28) then setF s F.HOST_STS_WIN_BAD 0 1
  else setF (setF s F.HOST_WIN_HI_BASE 0 base) F.HOST_WIN_HI_SIZE 0 size

def execHostWinWrite (v : Word32) (s : State) : Host.Outcome State Fault Refusal := .next (hostWinWrite s v)

/-- HDM_DECODER_COMMIT; PCIe mode has no decoder. -/
def execHdmDecoderCommit (base : BitVec 52) (s : State) : Host.Outcome State Fault Refusal :=
  .next (if cxlMode s then modHost s (fun h => { h with hdm := some base.toNat }) else s)

/-! ### Bias (R402, R403) -/

/-- BIAS_SNOOP: a module access to a line of a host-bias page asks the host first: shared for a read, ownership for a write. The
accesses that other commands make ask for themselves. -/
def biasSnoop (s : State) (a : Nat) (wr : Bool) : State := askFirst s [a / 64] (if wr then 1 else 0)

def execBiasSnoop (dpa : BitVec 40) (isWrite : Bool) (s : State) : Host.Outcome State Fault Refusal :=
  .next (biasSnoop s dpa.toNat isWrite)

/-- The host writes back and drops every line of window page `g`. -/
def askDrop (s : State) (g : Nat) : State :=
  (List.range 1024).foldl (fun s i => emit s (.snoop (winBase s + 65536 * g + 64 * i) 2)) s

/-- BIAS_CMD on pages `g` to `g + n - 1`. PCIe mode has no bias. The flip completes within its step. -/
def biasCmd (s : State) (g n : Nat) (toDev : Bool) : State :=
  if getF s F.BIAS_STS_BUSY 0 = 1 then setF s F.BIAS_STS_OVERRUN 0 1
  else if !cxlMode s then s
  else if winBytes s < 65536 * (g + n) then setF s F.BIAS_STS_RANGE 0 1
  else
    let pages := (List.range n).map (fun i => g + i)
    let s := if toDev then pages.foldl askDrop s else s
    modHost s (fun h => { h with devBias := ssetAll false h.devBias (pages.map (fun p => (p, toDev))) })

def execBiasToDevice (page : BitVec 20) (npm1 : BitVec 11) (s : State) : Host.Outcome State Fault Refusal :=
  .next (biasCmd s page.toNat (npm1.toNat + 1) true)

def execBiasToHost (page : BitVec 20) (npm1 : BitVec 11) (s : State) : Host.Outcome State Fault Refusal :=
  .next (biasCmd s page.toNat (npm1.toNat + 1) false)

/-! ### IDE (R406) -/

/-- HOST_STS.IDE_FAIL: some stream is insecure. -/
def showIde (s : State) : State := setF s F.HOST_STS_IDE_FAIL 0 (if s.host.ide.any (fun e => e.2 == 2) then 1 else 0)

/-- IDE_KM over DOE in an open session programs a stream; nothing else does. PCIe mode has no CXL.cachemem stream (R407). -/
def ideKm (s : State) (sess stream : Nat) (viaDoe : Bool) : State :=
  if viaDoe ∧ (cxlMode s ∨ stream ≠ memStream) ∧ (sget none s.aed.sessions sess).isSome ∧ restarting s 17 = false then
    showIde (modHost (touchSession s sess) (fun h => { h with ide := sset 0 h.ide stream 1 }))
  else s

def execIdeKm (sess : Fin 8) (stream : Fin 256) (viaDoe : Bool) (s : State) : Host.Outcome State Fault Refusal :=
  .next (ideKm s sess stream viaDoe)

/-- IDE_INTEGRITY_FAILURE on a secure stream. -/
def ideIntegrityFailure (s : State) (stream : Nat) : State :=
  if sget 0 s.host.ide stream = 1 then
    showIde (inc (modHost s (fun h => { h with ide := sset 0 h.ide stream 2 })) F.HOST_CNT_IDE_FAIL_CNT 0)
  else s

def execIdeIntegrityFailure (stream : Fin 256) (s : State) : Host.Outcome State Fault Refusal :=
  .next (ideIntegrityFailure s stream)

/-! ### Resets by the host (R410, R500) -/

/-- End context `k` for the host: its queues are DISABLED once its fence has ended. -/
def hostEndCtx (s : State) (k : Nat) : State :=
  let s := moduleKill s k 2
  if (ctxOf s k).state = 0 then s else setCtx s k { ctxOf s k with flr := true }

/-- Queues that no fence will disable: management queues, and ENDED ones of contexts that are FREE. -/
def disableRest (s : State) : State :=
  s.queues.foldl (fun s e =>
    if qClass e.2.desc = 3 ∧ e.2.state ≠ 0 then
      if e.2.order = [] then putQueue s e.1 { queueOf s e.1 with state := 0 } else setQueue s e.1 { queueOf s e.1 with disabling := true }
    else if e.2.state = 3 ∧ (ctxOf s (qCtx e.2.desc)).state = 0 then putQueue s e.1 { queueOf s e.1 with state := 0 }
    else s) s

/-- FUNCTION_LEVEL_RESET and hot reset. -/
def hostReset (s : State) : State :=
  let s := (List.range 4096).foldl (fun s k => if (ctxOf s k).state = 0 then s else hostEndCtx s k) s
  let s := disableRest s
  { s with msix := ⟨[], [], []⟩ }

/-- A hot reset returns the decoder to its uncommitted state too (PRESUMED, notes/assumptions/29.md). -/
def hotReset (s : State) : State := modHost (hostReset s) (fun h => { h with hdm := none })

def execFunctionLevelReset (hot : Bool) (s : State) : Host.Outcome State Fault Refusal :=
  .next (if hot then hotReset s else hostReset s)

/-- PERST_N (R500): low holds the host link in reset; each assertion after the first is a hot reset. -/
def perstN (s : State) (high : Bool) : State :=
  let was := s.pwr.perstN
  let s := { s with pwr := { s.pwr with perstN := high } }
  if high then s
  else
    let s := setF s F.HOST_STS_WIDTH 0 3
    let again := was && s.host.perstSeen
    let s := modHost s (fun h => { h with perstSeen := true })
    if again then hotReset s else s

def execPerstN (high : Bool) (s : State) : Host.Outcome State Fault Refusal := .next (perstN s high)

/-! ### MSI-X (R409) -/

/-- Word at offset `off` of BAR4: the MSI-X table, four words for each vector with its mask bit in the last, and the pending-bit
array at 0x8000 (R409). -/
def bar4Read (s : State) (off : Nat) : Word32 :=
  if off < 0x8000 then
    if off / 4 % 4 = 3 then (if sget false s.msix.unmasked (off / 16) then 0 else 1) else sget 0 s.msix.table (off / 4)
  else if off < 0x8100 then
    BitVec.ofNat 32 (((List.range 32).map (fun b => if sget false s.msix.pend (8 * (off / 4 * 4 - 0x8000) + b) then 2 ^ b else 0)).sum)
  else 0

/-- A write of that word: the pending-bit array takes none. A vector that is unmasked with its bit pending sends one message,
however many events arrived. -/
def bar4Write (s : State) (off : Nat) (w : Word32) : State :=
  if 0x8000 ≤ off then s
  else if off / 4 % 4 ≠ 3 then { s with msix := { s.msix with table := sset 0 s.msix.table (off / 4) w } }
  else
    let v := off / 16
    let clear := !bitAt w.toNat 0
    let p := clear && sget false s.msix.pend v
    let s := { s with msix := { s.msix with
      unmasked := sset false s.msix.unmasked v clear
      pend := if clear then sset false s.msix.pend v false else s.msix.pend } }
    if p then emit s (.msix v) else s

/-- MSIX_UNMASK: the vector's mask bit is written 0. -/
def msixUnmask (s : State) (v : Nat) : State := bar4Write s (16 * v + 12) 0

def execMsixUnmask (vec : Fin 2048) (s : State) : Host.Outcome State Fault Refusal := .next (msixUnmask s vec)

end Sys2Proof.Machine
end

