-- ==== Sys2Proof/Machine/LinkCmds.lean ====
section
/-! DEFINITION. Machine/LinkCmds.lean: the commands of links and fabric time, and the routing of packets (R313 to R340, R351). -/

namespace Sys2Proof.Machine

/-! ### Link and fabric-time commands -/

def execDataFlitReceive (l : LinkId) (f : RxFlit) (s : State) : Host.Outcome State Fault Refusal := .next (dataFlit s l f)
def execRetryReq (l : LinkId) (f : RxFlit) (s : State) : Host.Outcome State Fault Refusal := .next (retryReq s l f)
def execRetryReqRepeat (l : LinkId) (s : State) : Host.Outcome State Fault Refusal := .next (retryRepeat s l)
def execIdleFlit (l : LinkId) (f : RxFlit) (s : State) : Host.Outcome State Fault Refusal := .next (idleFlit s l f)
def execTimeFlit (l : LinkId) (f : RxFlit) (s : State) : Host.Outcome State Fault Refusal := .next (timeFlit s l f)
def execTimeFlitSend (l : LinkId) (s : State) : Host.Outcome State Fault Refusal := .next (timeFlitSend s l)
def execTrainFlit (l : LinkId) (f : RxFlit) (s : State) : Host.Outcome State Fault Refusal := .next (trainFlit s l f)
def execLaserReady (pe : Fin 6) (s : State) : Host.Outcome State Fault Refusal := .next (laserReady s pe)
def execLaserFailure (pe : Fin 6) (s : State) : Host.Outcome State Fault Refusal := .next (settleLost (laserFailure s pe))
def execLossOfSignal (l : LinkId) (wave : Fin 8) (s : State) : Host.Outcome State Fault Refusal := .next (lossOfSignal s l wave)
def execRetrainTimeout (l : LinkId) (s : State) : Host.Outcome State Fault Refusal := .next (settleLost (retrainTimeout s l))
def execLnkEnable (l : LinkId) (s : State) : Host.Outcome State Fault Refusal := .next (lnkEnable s l)
def execLnkDisable (l : LinkId) (s : State) : Host.Outcome State Fault Refusal := .next (linkOff s l)
def execLnkRestart (l : LinkId) (s : State) : Host.Outcome State Fault Refusal := .next (lnkRestart s l)
def execRoleWrite (l : LinkId) (role : BitVec 2) (s : State) : Host.Outcome State Fault Refusal := .next (roleWrite s l role.toNat)
def execRteModidWrite (id : BitVec 16) (s : State) : Host.Outcome State Fault Refusal := .next (rteModidWrite s id.toNat)
def execFlipGo (s : State) : Host.Outcome State Fault Refusal := .next (flipGo s)
def execRoutingFlip (s : State) : Host.Outcome State Fault Refusal := .next (routingFlip s)
def execHoldoverEntry (s : State) : Host.Outcome State Fault Refusal := .next (holdoverEntry s)
def execHoldoverExpiry (s : State) : Host.Outcome State Fault Refusal := .next (holdoverExpiry s)
def execFtSet (v : BitVec 64) (s : State) : Host.Outcome State Fault Refusal := .next (ftSet s v)
def execSyncInEdge (s : State) : Host.Outcome State Fault Refusal := .next (syncInEdge s)

/-! ### Local delivery (R255, R330, R389) -/

/-- The fence epoch of a packet is that of its context; any other packet is dropped and counted. -/
def fenceAccepts (s : State) (p : Packet) : Bool := p.fepoch.toNat == (fenceOf s (p.ctxgen.toNat % 4096)).fepoch

/-- Pages of a stale request, counted at their home MDs, which the low bits of a DVA name as those of its DPA do (R255). -/
def countStale (s : State) (va n : Nat) : State :=
  (vaPieces (n + 1) va n).foldl (fun s p => inc s F.MD_ECC_CNT3_STALE_DROP_CNT (dpaMd p.1)) s

/-- WRITE: its body goes to ADDR, a DVA of its context; a stale one is dropped without a walk, and a page that does not
translate drops it (DESIGN CHOICE, notes/assumptions/22.md). -/
def deliverWrite (s : State) (p : Packet) : State :=
  let n := p.body.length
  if staleDie s p.ctxgen then countStale s p.addr.toNat n
  else
  match translateRange s iodDie (p.ctxgen.toNat % 4096) .write (vaPieces (n + 1) p.addr.toNat n) with
  | (.ok ps, s) => writePieces s p.ctxgen .normal false ps p.body
  | (.error _, s) => s

/-- The answers to a READ, 4,096 bytes each, on VL1. -/
def readAnswers (p : Packet) (me : Nat) : Nat → Nat → List Byte → List Packet
  | 0, _, _ => []
  | fuel + 1, off, bs =>
    if bs.isEmpty then []
    else
      { p with
        vl := 1
        dst := p.src
        src := BitVec.ofNat 16 me
        op := 0x03
        hops := 0
        addr := p.addr + BitVec.ofNat 64 off
        body := bs.take 4096 } :: readAnswers p me fuel (off + 4096) (bs.drop 4096)

/-- READ: the bytes that its body asks for, from a DVA of its context (DESIGN CHOICE, notes/assumptions/22.md); a stale one is
answered with zeros without a walk (R255). -/
def deliverRead (s : State) (p : Packet) : State :=
  let n := min 65536 (fieldLE p.body 0 3)
  if staleDie s p.ctxgen then
    (readAnswers p (getF s F.RTE_MODID_MOD_ID 0) 17 0 (List.replicate n 0)).foldl originate (countStale s p.addr.toNat n)
  else
  match translateRange s iodDie (p.ctxgen.toNat % 4096) .read (vaPieces (n + 1) p.addr.toNat n) with
  | (.ok ps, s) =>
    let (b, _, s) := readPieces s p.ctxgen .normal ps
    (readAnswers p (getF s F.RTE_MODID_MOD_ID 0) 17 0 b).foldl originate s
  | (.error _, s) => s

/-- A packet for this module. Management messages between modules have no effect that the spec states. -/
def deliver (s : State) (link : Option Nat) (p : Packet) : State :=
  match p.op.toNat with
  | 0x01 => if fenceAccepts s p then deliverWrite s p else inc s F.RAS_CNT1_FENCE_DROP_CNT 0
  | 0x02 => if fenceAccepts s p then deliverRead s p else inc s F.RAS_CNT1_FENCE_DROP_CNT 0
  | 0x03 => if fenceAccepts s p then kilnData s p else inc s F.RAS_CNT1_FENCE_DROP_CNT 0
  | 0x04 => twinDeliver s p
  | 0x05 | 0x06 => collDeliver s p
  | 0x08 | 0x09 =>
    match link with
    | some l => sweepMarker s l p.vl p
    | none => s
  | _ => s

/-! ### Routing (R326, R327, R330, R351) -/

/-- Twin messages that travel only on causeway links (Table 13.2). -/
def causewayMsg (p : Packet) : Bool := p.op == 0x04 && !(isTwin p 6) && !(isTwin p 7)

/-- A packet of this module cannot be sent: LINK_LOST, 0xFF where no link is named. -/
def ownLost (s : State) (own : Bool) (link : Nat) (p : Packet) : State := if own then packetLost s link p else s

/-- Hand a packet to its link. -/
def sendVia (s : State) (own : Bool) (l : Nat) (p : Packet) : State :=
  let s := sendOn s l p own
  if own ∧ isTwin p 7 then sendingDone s else s

/-- A causeway message of this module (R326, R327). -/
def routeCauseway (s : State) (p : Packet) : State :=
  let ls := causeways s
  match ls[(p.addr.toNat / 65536 % 8) % ls.length]? with
  | some l => if p.dst.toNat = twinId s then sendVia s true l p else inc s F.LNK_CNT2_CW_DROP_CNT l
  | none => ownLost s true 255 p

/-- UP fabric links to a module (R351). -/
def directLinks (s : State) (dst : Nat) : List Nat :=
  (List.range 48).filter (fun l => linkState s l == 2 && getF s F.LNK_CFG_ROLE l != 1 && getF s F.LNK_STS_PEER_MOD l == dst)

/-- Route a packet of this module for another one, by the active bank. -/
def routeTable (s : State) (p : Packet) : State :=
  match rteLink s p.dst.toNat p.vl with
  | some o =>
    if linkState s o = 2 ∨ linkState s o = 3 then sendVia s true o p
    else ownLost (inc s F.RTE_CNT_UNREACH_CNT 0) true o p
  | none => ownLost (inc s F.RTE_CNT_UNREACH_CNT 0) true 255 p

/-- Route a packet of this module: twin messages over causeways, collective DATA over direct links in turn, the rest by the
table. -/
def routeOwn (s : State) (p : Packet) : State :=
  if p.dst.toNat = getF s F.RTE_MODID_MOD_ID 0 then deliver s none p
  else if causewayMsg p then routeCauseway s p
  else
    let ls := directLinks s p.dst.toNat
    if isMsg p 0 ∧ ls ≠ [] then
      let t := sget 0 s.col.turn p.dst.toNat
      sendVia { s with col := { s.col with turn := sset 0 s.col.turn p.dst.toNat (t + 1) } } true (ls.getD (t % ls.length) 0) p
    else routeTable s p

/-- The route of a packet that link `l` received (R330); a causeway link carries nothing but packets from its twin to this
module (R326). What is dropped counts here. -/
def decideRx (s : State) (l : Nat) (p : Packet) : Route × State :=
  let me := getF s F.RTE_MODID_MOD_ID 0
  if getF s F.LNK_CFG_ROLE l = 1 ∧ ¬(p.dst.toNat = me ∧ p.src.toNat = twinId s) then (.dropped, inc s F.LNK_CNT2_CW_DROP_CNT l)
  else if p.dst.toNat = me then (.here, s)
  else if p.hops.toNat = 15 then (.dropped, inc s F.LNK_CNT2_HOP_DROP_CNT l)
  else
    match rteLink s p.dst.toNat p.vl with
    | some o =>
      if o = l then (.dropped, inc s F.LNK_CNT2_HOP_DROP_CNT l)
      else if linkState s o = 2 ∨ linkState s o = 3 then (.out o, s)
      else (.dropped, inc s F.RTE_CNT_UNREACH_CNT 0)
    | none => (.dropped, inc s F.RTE_CNT_UNREACH_CNT 0)

/-- A complete packet that link `l` received takes its route, HOPS raised. An output link that failed since the route was
decided loses it as one of its packets (R325). -/
def takeRoute (s : State) (l : Nat) (p : Packet) : Route → State
  | .here => deliver s (some l) p
  | .out o =>
    if linkState s o = 2 ∨ linkState s o = 3 then sendVia s false o { p with hops := p.hops + 1 }
    else inc s F.LNK_CNT1_LOST_PKT_CNT o
  | .dropped => s

/-- Route a complete packet that link `l` received, by the route its SOP flit got or by one decided now. -/
def routeRx (s : State) (l : Nat) (p : Packet) : Option Route → State
  | some r => takeRoute s l p r
  | none => takeRoute (decideRx s l p).2 l p (decideRx s l p).1

/-- The receive buffer's flits are free again: the cumulative credit count of the lane advances (R322). -/
def freeRx (s : State) (l vl n : Nat) : State :=
  let x := linkOf s l
  setLink s l { x with rxCum := sset 0 x.rxCum vl (sget 0 x.rxCum vl + BitVec.ofNat 12 n) }

/-- The route of a packet whose EOP flit is still to come, decided by its SOP flit (R330). -/
def routePart (s : State) (l : Nat) (p : Packet) : State :=
  let (r, s) := decideRx s l p
  let x := linkOf s l
  setLink s l { x with rxRoute := sset none x.rxRoute p.vl (some r) }

/-- PACKET_ROUTING: the oldest packet at the routing stage. -/
def packetRouting (s : State) : State :=
  match s.routeQ with
  | [] => s
  | r :: rest =>
    let s := { s with routeQ := rest }
    match r.fromLink with
    | none => routeOwn s r.pkt
    | some l =>
      if r.whole then idleIfQuiet s (routeRx (freeRx s l r.pkt.vl r.flits) l r.pkt r.route) l
      else routePart s l r.pkt

def execPacketRouting (s : State) : Host.Outcome State Fault Refusal := .next (packetRouting s)

end Sys2Proof.Machine
end

