-- ==== Sys2Proof/Machine/Mgmt.lean ====
section
/-! DEFINITION. Machine/Mgmt.lean: Aedord: the management path, sessions and grants, attestation, the dual-bank store,
calibration, sensors, firmware processors, boot and update (R427 to R463). -/

namespace Sys2Proof.Machine

def modAed (s : State) (f : AedSt → AedSt) : State := { s with aed := f s.aed }

/-! ### Module cold reset (R488, R498) -/

/-- Module cold reset: every register, table and memory at its reset value. Flash, store records, fuses, the state of the
pins and what lies outside the module stay. -/
def coldReset (s : State) : State :=
  { State.reset with
    pending := s.pending
    freshIdx := s.freshIdx
    outbox := s.outbox
    hostMem := s.hostMem
    aed := { AedSt.reset with
      flash := s.aed.flash
      store := s.aed.store
      svn := s.aed.svn
      smbAddr := s.aed.smbAddr }
    pwr := { PwrSt.reset with
      pwrEn := s.pwr.pwrEn
      resetN := s.pwr.resetN
      perstN := s.pwr.perstN
      refclk := s.pwr.refclk
      good := s.pwr.good
      latched := s.pwr.latched
      trip := s.pwr.trip
      testFuse := s.pwr.testFuse
      mfgLow := s.pwr.mfgLow
      tap := s.pwr.tap
      bscan := s.pwr.bscan
      extest := s.pwr.extest } }

/-- The rails turn off on a fault or at the end of a trip hold: nothing is held, and the module stays off until PWR_EN goes
low and then high (R488, R495, R496). -/
def railsOff (s : State) : State :=
  let s := coldReset s
  { s with pwr := { s.pwr with good := false, latched := true, trip := none } }

/-! ### Replies (R435) -/

/-- Firmware answers the management path: image A or B, or the recovery image, runs. -/
def firmwareRuns (s : State) : Bool :=
  getF s F.MOD_STS_BOOTED 0 == 1 || (getF s F.MOD_STS_RECOVERY 0 == 1 && getF s F.AED_BOOT_SRC 0 == 2)

def stOk : Byte := 0x00
def stDenied : Byte := 0x01
def stBusy : Byte := 0x02
def stExhausted : Byte := 0x03

/-- Answer on the binding that carried the message. -/
def reply (s : State) (o : Origin) (kind : Nat) (data : List Byte) : State :=
  emit s (.mgmt (some o.binding) kind (o.session.map (fun n => n.val)) data)

def sessOf (s : State) (n : Nat) : Option SessSt := sget none s.aed.sessions n

def setSess (s : State) (n : Nat) (x : Option SessSt) : State :=
  modAed s (fun a => { a with sessions := sset none a.sessions n x })

/-- The open session that a message arrived in. -/
def inSession (s : State) (o : Origin) : Option (Nat × SessSt) :=
  match o.session with
  | some n => (sessOf s n).map (fun x => (n.val, x))
  | none => none

/-- A message of the Lachemund set: BUSY during an Aedord restart (R440), no answer while no firmware runs. -/
def mgmtMsg (s : State) (o : Origin) (kind : Nat) (f : State → State) : State :=
  if restarting s 17 then reply s o kind [stBusy]
  else if !firmwareRuns s then s
  else f (match o.session with | some n => touchSession s n | none => s)

/-- A message that needs a grant of `scope` in its own session (R435, R457). -/
def granted (s : State) (o : Origin) (scope : Nat) : Bool :=
  match inSession s o with
  | some (_, x) => x.grants.any (fun g => g.1 == scope)
  | none => false

def scopeCode : Scope → Nat
  | .jtag => 0
  | .inject => 1
  | .cal => 2
  | .fm => 3
  | .owner => 4

/-- Number of open sessions. -/
def openSessions (s : State) : Nat := ((List.range 8).filter (fun n => (sessOf s n).isSome)).length

/-- The state in force: that of the latest valid record (R449). -/
def storeCfg (s : State) : StoreCfg :=
  match s.aed.store.getLast? with
  | some r => r.cfg
  | none => StoreCfg.reset

/-- AED_AUTH shows grants, owner and sessions. -/
def showAuth (s : State) : State :=
  let s := setF s F.AED_AUTH_GRANTS 0 ((List.range 5).foldl (fun a n => a + (if grantOpen s n then 2 ^ n else 0)) 0)
  let s := setF s F.AED_AUTH_OWNER 0 (if (storeCfg s).owner.isEmpty then 0 else 1)
  setF s F.AED_AUTH_SESSIONS 0 (min 7 (openSessions s))

/-- A trust event: persistent-log entry and trace record (R432). `what`: 0 grant, 1 owner change, 2 anti-rollback advance,
3 calibration commit. -/
def trustEvent (s : State) (what : Nat) : State := traceFree (plog s 5 [BitVec.ofNat 8 what]) 0x500 0x046

/-! ### Attestation and sessions (R451 to R457) -/

/-- A request needs an index and the reserved block is empty: a reservation commits, or the key is exhausted (R452, R453). -/
def needIndex (s : State) : State :=
  let a := s.aed
  if a.sigs.isEmpty ∨ a.reserved.1 < a.reserved.2 ∨ a.commits.contains .reserve = true then s
  else if 2 ^ 40 < (storeCfg s).nextIdx + 256 then
    let s := a.sigs.foldl (fun s q =>
      emit s (.mgmt (some q.via) (if q.kind = 0 then 0x04 else 0x05) q.session [stExhausted])) s
    modAed s (fun a => { a with sigs := [] })
  else wantCommit s .reserve

def askSignature (s : State) (q : SigReq) : State := needIndex (modAed s (fun a => { a with sigs := a.sigs ++ [q] }))

def getVersion (s : State) (o : Origin) : State := mgmtMsg s o 0x01 (fun s => reply s o 0x01 (stOk :: Config.version))

/-- GET_NONCE: a fresh nonce of 8 bytes (DESIGN CHOICE, notes/assumptions/30.md). -/
def getNonce (s : State) (o : Origin) : State :=
  mgmtMsg s o 0x02 (fun s =>
    let (v, s) := freshBits s
    reply (modAed s (fun a => { a with nonces := a.nonces ++ [v] })) o 0x02 (stOk :: leBytes 8 v.toNat))

def getCert (s : State) (o : Origin) : State := mgmtMsg s o 0x03 (fun s => reply s o 0x03 (stOk :: Config.certs))

def getMeasurements (s : State) (o : Origin) (nonce : List Byte) : State :=
  mgmtMsg s o 0x04 (fun s => askSignature s ⟨0, o.binding, o.session.map (fun n => n.val), nonce⟩)

/-- Sessions open or about to open. -/
def sessionsTaken (s : State) : Nat := openSessions s + (s.aed.sigs.filter (fun q => q.kind == 1)).length

/-- SESSION_OPEN: the ninth is BUSY. Both ends hold the keys when it opens; they are not state of the model
(notes/assumptions/30.md). -/
def sessionOpen (s : State) (o : Origin) (nonce : List Byte) : State :=
  mgmtMsg s o 0x05 (fun s =>
    if 8 ≤ sessionsTaken s then reply s o 0x05 [stBusy]
    else askSignature s ⟨1, o.binding, o.session.map (fun n => n.val), nonce⟩)

def sessionClose (s : State) (o : Origin) : State :=
  mgmtMsg s o 0x06 (fun s =>
    match inSession s o with
    | some (n, _) => reply (showAuth (setSess s n none)) o 0x06 [stOk]
    | none => reply s o 0x06 [stDenied])

/-- SESSION_TIMEOUT after 60 s without a message. -/
def sessionTimeout (s : State) (n : Nat) : State :=
  match sessOf s n with
  | some x => if x.last + 60000000000 ≤ ftNow s then showAuth (setSess s n none) else s
  | none => s

/-- The bytes of a GRANT that the owner signs. -/
def grantBytes (m : GrantMsg) : List Byte :=
  BitVec.ofNat 8 (scopeCode m.scope) :: m.serial ++ m.nonce ++ leBytes 4 m.seconds

/-- GRANT (R457). -/
def grantMessage (s : State) (o : Origin) (m : GrantMsg) : State :=
  mgmtMsg s o 0x10 (fun s =>
    let owner := (storeCfg s).owner
    match inSession s o, s.aed.nonces.find? (fun v => leBytes 8 v.toNat == m.nonce) with
    | some (n, x), some v =>
      if m.serial = Config.serial ∧ 1 ≤ m.seconds ∧ m.seconds ≤ 86400 ∧ owner ≠ [] ∧
          Config.ownerSig owner (grantBytes m) m.sig = true then
        let s := modAed s (fun a => { a with nonces := a.nonces.erase v })
        let s := setSess s n (some { x with
          grants := x.grants ++ [(scopeCode m.scope, ftNow s + 1000000000 * m.seconds)], last := ftNow s })
        reply (showAuth (trustEvent s 0)) o 0x10 [stOk]
      else reply s o 0x10 [stDenied]
    | _, _ => reply s o 0x10 [stDenied])

/-- GRANT_EXPIRY: the session's grants of the scope whose duration has passed end. -/
def grantExpiry (s : State) (n scope : Nat) : State :=
  match sessOf s n with
  | some x =>
    showAuth (setSess s n (some { x with grants := x.grants.filter (fun g => !(g.1 == scope && decide (g.2 ≤ ftNow s))) }))
  | none => s

/-- OWNER_SET (R456). -/
def ownerSet (s : State) (o : Origin) (hash key sig : List Byte) : State :=
  mgmtMsg s o 0x11 (fun s =>
    let owner := (storeCfg s).owner
    if hash.length = 32 ∧ (owner = [] ∨ Config.ownerSig owner hash (key ++ sig) = true) then
      reply (wantCommit s (.owner hash)) o 0x11 [stOk]
    else reply s o 0x11 [stDenied])

/-- SVN_COMMIT (R444). -/
def svnCommit (s : State) (o : Origin) : State :=
  mgmtMsg s o 0x12 (fun s =>
    let v := getF s F.AED_BOOT_SVN_IMG 0
    if granted s o 4 = false ∨ getF s F.MOD_STS_RECOVERY 0 = 1 ∨ v < s.aed.svn then reply s o 0x12 [stDenied]
    else
      let s1 := setF (modAed s (fun a => { a with svn := v })) F.AED_BOOT_SVN_FUSE 0 v
      reply (if s.aed.svn < v then trustEvent s1 2 else s1) o 0x12 [stOk])

/-- CAL_SET (R459). -/
def calSet (s : State) (o : Origin) (l : List CalEntry) : State :=
  mgmtMsg s o 0x13 (fun s =>
    if granted s o 2 = true ∧ l.length ≤ 128 then reply (wantCommit s (.overlay l)) o 0x13 [stOk]
    else reply s o 0x13 [stDenied])

/-- DUMP_REQ (R438). -/
def dumpReq (s : State) (o : Origin) : State :=
  mgmtMsg s o 0x24 (fun s =>
    if granted s o 3 then reply (dumpBegin s 1) o 0x24 [stOk] else reply s o 0x24 [stDenied])

/-- Image slot `k` of the primary flash, addresses from 0. -/
def imageArea (s : State) (k : Nat) : List Host.Cell :=
  (s.aed.flash.filter (fun c => c.1 / 0x1000000 == k)).map (fun c => (c.1 % 0x1000000, c.2))

/-- Measurements of Table 15.8. -/
def measurements (s : State) : List Byte :=
  let c := storeCfg s
  let src := getF s F.AED_BOOT_SRC 0
  let owner := if c.owner.isEmpty then List.replicate 32 0 else c.owner
  Config.romDigest ++ Config.manifestDigest (if src < 2 then some (imageArea s src) else none) ++
    leBytes 4 s.aed.bootWord.toNat ++ Config.factoryDigest ++
    Config.recordDigest c.overlay c.active c.pending c.attempt ++ owner ++ leBytes 1 s.aed.svn ++ Config.rootKeyHash

/-- Fewer than 64 signatures were released within the last second (R452). -/
def signatureDue (s : State) : Bool :=
  decide ((s.aed.released.filter (fun t => decide (ftNow s < t + 1000000000))).length < 64)

/-- SIGNATURE_RELEASE: the oldest request takes the next reserved index, at most 64 a second (R452). -/
def signatureRelease (s : State) : State :=
  let a := s.aed
  match a.sigs with
  | q :: rest =>
    if a.reserved.1 < a.reserved.2 ∧ restarting s 17 = false ∧ signatureDue s = true then
      let i := a.reserved.1
      let s := modAed s (fun a => { a with
        sigs := rest
        reserved := (i + 1, a.reserved.2)
        released := (ftNow s :: a.released).take 64 })
      let s :=
        if q.kind = 0 then
          let m := measurements s ++ leBytes 1 s.aed.svn
          emit s (.mgmt (some q.via) 0x04 q.session (stOk :: m ++ leBytes 8 i ++ Config.sign i (m ++ q.nonce ++ leBytes 8 i)))
        else
          match (List.range 8).find? (fun n => (sessOf s n).isNone) with
          | some n =>
            let key := Config.kemKey s.freshIdx
            let s := setSess { s with freshIdx := s.freshIdx + 1 } n (some ⟨q.via, ftNow s, []⟩)
            emit (showAuth s) (.mgmt (some q.via) 0x05 (some n) (stOk :: key ++ leBytes 8 i ++ Config.sign i (key ++ q.nonce ++ leBytes 8 i)))
          | none => emit s (.mgmt (some q.via) 0x05 q.session [stBusy])
      needIndex s
    else s
  | [] => s

/-! ### The dual-bank store (R447 to R450) -/

/-- Slot of a commit in its bank. -/
def storeSlot (seq : Nat) : Nat := (seq - 1) / 2 % 2048

/-- A record with number `seq` is written: the sector that starts at its slot is erased first (R448). -/
def storeAppend (l : List StoreRec) (r : StoreRec) : List StoreRec :=
  let n := storeSlot r.seq
  let erased (x : StoreRec) : Bool :=
    x.seq % 2 == r.seq % 2 && decide (n % 16 = 0 ∧ n ≤ storeSlot x.seq ∧ storeSlot x.seq < n + 16)
  l.filter (fun x => !erased x) ++ [r]

def storeSeq (s : State) : Nat :=
  match s.aed.store.getLast? with
  | some r => r.seq
  | none => 0

/-- Write a record: the state `c` and up to 31 of the log entries that wait. During a trip hold, the report of the commit that
holds the trip entry turns the rails off (R495). -/
def storeWrite (s : State) (c : StoreCfg) : State :=
  let a := s.aed
  let seq := storeSeq s + 1
  let s := modAed s (fun a => { a with
    store := storeAppend a.store ⟨seq, c, a.logWait.take 31⟩
    logWait := a.logWait.drop 31
    lastCommit := if a.logWait.isEmpty then a.lastCommit else some (ftNow s) })
  let s := setF s F.AED_STORE_CNT_COMMITS 0 (seq % 65536)
  let s := setF s F.AED_ATT_BLOCKS 0 (c.nextIdx / 256 % 2 ^ 32)
  let s := showAuth s
  if s.pwr.trip.isSome ∧ (a.logWait.take 31).any (fun e => e.kind == 6) = true then railsOff s else s

/-- What a change does to the stored state. -/
def commitCfg (c : StoreCfg) : Commit → StoreCfg
  | .reserve => { c with nextIdx := c.nextIdx + 256 }
  | .owner h => { c with owner := h }
  | .overlay l => { c with overlay := l }
  | .activate k => { c with pending := some k, attempt := false }
  | .attempt => { c with attempt := true }
  | .healthy => { c with active := c.pending.getD c.active, pending := none, attempt := false }
  | .logs => c

/-- STORE_COMMIT: the oldest change that waits, else log entries when a second has passed since the last such commit
(R450). -/
def storeCommit (s : State) : State :=
  let a := s.aed
  if restarting s 17 ∨ firmwareRuns s = false then s
  else
    match a.commits with
    | c :: rest =>
      let cfg := storeCfg s
      let s := modAed s (fun a => { a with commits := rest })
      let s := match c with
        | .owner _ => trustEvent s 1
        | .overlay _ => trustEvent s 3
        | .reserve => modAed s (fun a => { a with reserved := (cfg.nextIdx, cfg.nextIdx + 256) })
        | _ => s
      storeWrite s (commitCfg cfg c)
    | [] =>
      let due := match a.lastCommit with
        | some t => decide (t + 1000000000 ≤ ftNow s)
        | none => true
      if !a.logWait.isEmpty && due then storeWrite s (storeCfg s) else s

/-! ### PLDM (R434, R462) -/

def pldmReadings : Nat := 0x102
def pldmUpdate : Nat := 0x105

/-- Completion codes of DSP0240 and DSP0248 (PRESUMED, notes/assumptions/30.md). -/
def pldmError : Byte := 0x01
def pldmUnsupported : Byte := 0x05
def pldmInvalidSensor : Byte := 0x80

/-- Indirect address of a numeric sensor's reading. -/
def sensorAddr (n : Nat) : Option Nat :=
  if 1 ≤ n ∧ n ≤ 64 then some (4 * (n - 1))
  else if 65 ≤ n ∧ n ≤ 160 then some (0x100 + 16 * ((n - 65) / 4) + 4 * ((n - 65) % 4))
  else if n = 161 then some 0x300
  else none

/-- A PLDM request of Type 2; the recovery image answers none. -/
def pldmMonitoring (s : State) (o : Origin) (n : Nat) : State :=
  mgmtMsg s o pldmReadings (fun s =>
    if getF s F.MOD_STS_RECOVERY 0 = 1 then reply s o pldmReadings [pldmUnsupported]
    else
      match sensorAddr n with
      | some a => reply s o pldmReadings (stOk :: leBytes 4 (sget 0 s.aed.readings a).toNat)
      | none => reply s o pldmReadings [pldmInvalidSensor])

/-- A PLDM request of Type 5: also answered by the ROM over SMBus while no image runs (R443). -/
def pldmType5 (s : State) (o : Origin) (f : State → State) : State :=
  if getF s F.MOD_STS_RECOVERY 0 = 1 ∧ getF s F.AED_BOOT_SRC 0 = 3 then (if o.binding = .smbus then f s else s)
  else mgmtMsg s o pldmUpdate f

/-- The slot an update writes: the one that is not ACTIVE; image A when the ROM alone runs. -/
def updateSlot (s : State) : Nat := if getF s F.AED_BOOT_SRC 0 = 3 then 0 else 1 - (storeCfg s).active

/-- An update is refused while PENDING is set and the attempt flag is clear. -/
def updateRefused (s : State) : Bool := (storeCfg s).pending.isSome && !(storeCfg s).attempt

/-- Write bytes into flash. -/
def flashWrite (m : Memory) (a : Nat) : List Byte → Memory
  | [] => m
  | b :: t => flashWrite (sset 0 m a b) (a + 1) t

/-- REQUEST_FIRMWARE_DATA: one 1,024-byte piece. -/
def requestFirmwareData (s : State) (o : Origin) (off : Nat) (data : List Byte) : State :=
  pldmType5 s o (fun s =>
    if updateRefused s ∨ 0x1000000 < off + data.length ∨ 1024 < data.length then reply s o pldmUpdate [pldmError]
    else
      let k := updateSlot s
      reply (modAed s (fun a => { a with
        flash := flashWrite a.flash (0x1000000 * k + off) data
        update := some (k, false) })) o pldmUpdate [stOk])

/-- The image in slot `k` verifies (R442). -/
def imageVerifies (s : State) (k : Nat) : Bool :=
  Config.imageGood (imageArea s k) && decide (s.aed.svn ≤ (Config.imageSvn (imageArea s k)).toNat)

/-- VERIFY_COMPLETE. -/
def verifyComplete (s : State) (o : Origin) : State :=
  pldmType5 s o (fun s =>
    match s.aed.update with
    | some (k, _) =>
      let ok := imageVerifies s k
      reply (modAed s (fun a => { a with update := some (k, ok) })) o pldmUpdate [if ok then stOk else pldmError]
    | none => reply s o pldmUpdate [pldmError])

/-- ACTIVATE_FIRMWARE. The ROM commits PENDING itself. -/
def activateFirmware (s : State) (o : Origin) : State :=
  pldmType5 s o (fun s =>
    match s.aed.update with
    | some (k, true) =>
      if updateRefused s then reply s o pldmUpdate [pldmError]
      else
        let s := modAed s (fun a => { a with update := none })
        let s := if firmwareRuns s then wantCommit s (.activate k) else storeWrite s (commitCfg (storeCfg s) (.activate k))
        reply s o pldmUpdate [stOk]
    | _ => reply s o pldmUpdate [pldmError])

/-! ### Sensors and rails (R428, R429, R459, R460) -/

/-- Offset of a calibration item, clamped to its range of Table 15.9, in its steps. -/
def calOffset (s : State) (item : Nat) (bound : Int) : Int :=
  match s.aed.overlayOn.find? (fun e => e.item.toNat == item) with
  | some e => max (-bound) (min bound e.offset)
  | none => 0

/-- Raw reading of a sensor in steps of 0.125 °C. -/
def tempOf (s : State) (n : Nat) : Int := signedOf 12 (sget 0 s.aed.temps n)

/-- Junction sensors of Table 15.1. -/
def junctionSensors : List Nat := List.range 60

/-- SENSOR_SAMPLE: raw readings with factory calibration; Aedord reports them with the overlay. During a trip hold, 120 °C turns
the rails off (R495). -/
def sensorSample (s : State) (raw : List (BitVec 12)) : State :=
  let s := (List.range raw.length).foldl (fun s n =>
    let v := (raw.getD n 0).toNat
    let s := modAed s (fun a => { a with temps := sset 0 a.temps n v })
    if restarting s 17 ∨ firmwareRuns s = false then s
    else
      let r := ofInt 12 (satSigned 12 (signedOf 12 v + calOffset s n 32))
      modAed s (fun a => { a with readings := sset 0 a.readings (4 * n) (BitVec.ofNat 32 r) })) s
  if s.pwr.trip.isSome ∧ junctionSensors.any (fun n => decide (960 ≤ tempOf s n)) = true then railsOff s else s

/-- A current with its gain in steps of 0.05 %, rounded down and held to 16 bits. -/
def gainOf (v : Nat) (steps : Int) : Nat := min 65535 ((v : Int) * (2000 + steps) / 2000).toNat

/-- One rail of a PMBUS_POLL. -/
def pollRail (s : State) (r : Nat) (x : RailReading) : State :=
  let b := 0x100 + 16 * r
  let g := calOffset s (102 + r) 40
  let put (s : State) (k v : Nat) : State :=
    modAed s (fun a => { a with readings := sset 0 a.readings (b + k) (BitVec.ofNat 32 v) })
  if x.answered then
    let s := put s 0 x.vout.toNat
    let s := put s 4 (gainOf x.iout.toNat g)
    let s := put s 8 (gainOf x.iin.toNat g)
    put s 12 x.treg.toNat
  else put s 12 ((sget 0 s.aed.readings (b + 12)).toNat % 4096 + 4096)

/-- PMBUS_POLL. The input voltage of the sum is no reading, so PIN_W is a free value (notes/assumptions/30.md). -/
def pmbusPoll (s : State) (rails : List RailReading) : State :=
  if restarting s 17 ∨ firmwareRuns s = false then s
  else
    let s := ((List.range 24).zip rails).foldl (fun s p => pollRail s p.1 p.2) s
    let (v, s) := freshBits s
    modAed s (fun a => { a with readings := sset 0 a.readings 0x300 (BitVec.ofNat 32 (v.toNat % 65536)) })

/-! ### Firmware processors (R438 to R440) -/

def procNum : Processor → Nat
  | .link => 0
  | .memTraining m => 1 + m.val
  | .scheduler d => 9 + d.val
  | .aedord => 17

/-- The processor runs: the recovery image starts Aedord and the link processor only. -/
def procRuns (s : State) (p : Nat) : Bool :=
  getF s F.MOD_STS_BOOTED 0 == 1 || (firmwareRuns s && (p == 0 || p == 17))

/-- Page of a processor's watchdog error, and its DETAIL (Tables 16.8, 16.9). -/
def procPage (p : Nat) : Nat × Nat :=
  if p = 0 then (pageBase .iod 0, 0)
  else if p < 9 then (pageBase .md (p - 1), 1)
  else if p < 17 then (pageBase .cd (p - 9), 2)
  else (pageBase .aed 0, 3)

/-- Restart processor `p`. -/
def restartProc (s : State) (p : Nat) : State :=
  if !procRuns s p || restarting s p then s
  else
    let s := inc (traceFree (plog s 3 [BitVec.ofNat 8 p]) 0x500 0x044) F.AED_RST_CNT_FW_RST_CNT 0
    let s := if p = 17 then
        showAuth (modAed (inc s F.AED_RST_CNT_AED_RST 0) (fun a => { a with
          sessions := []
          reserved := (0, 0)
          update := none }))
      else s
    modAed s (fun a => { a with
      restarting := p :: a.restarting
      spanned := if 9 ≤ p ∧ p < 17 then (p - 9) :: a.spanned.filter (fun d => d != p - 9) else a.spanned })

/-- WATCHDOG_RESTART: an error code on the unit's page, and a dump (R438). -/
def watchdogRestart (s : State) (p : Nat) : State :=
  if !procRuns s p || restarting s p then s
  else
    let x := procPage p
    restartProc (dumpBegin (latchErr s x.1 3 0 x.2) 1) p

/-- AED_FWRST. -/
def aedFwrst (s : State) (v : Nat) : State :=
  (List.range 17).foldl (fun s p => if bitAt v p then restartProc s p else s) s

/-- RESTART_END. -/
def restartEnd (s : State) (p : Nat) : State :=
  let s := modAed s (fun a => { a with restarting := a.restarting.filter (fun q => q != p) })
  if p = 17 then needIndex s else s

/-- ENDPOINT_ID_ASSIGNMENT. -/
def endpointId (s : State) (b : Binding) (eid : Nat) : State :=
  if restarting s 17 ∨ firmwareRuns s = false then s
  else modAed s (fun a => { a with eids := sset 0 a.eids (match b with | .smbus => 0 | .pcieVdm => 1) eid })

/-! ### Boot (R442 to R446, R458) -/

/-- Items of Table 15.9; items 88 to 95 name no rail (R489). -/
def itemKnown (i : Nat) : Bool := decide (i ≤ 125 ∧ ¬(88 ≤ i ∧ i ≤ 95))

/-- Images in the order of R443, with whether each is the attempt of a PENDING image. -/
def bootOrder (s : State) : List (Nat × Bool) :=
  let c := storeCfg s
  let pend : List (Nat × Bool) := match c.pending with
    | some k => if c.attempt then [] else [(k, true)]
    | none => []
  pend ++ [(c.active, false), (1 - c.active, false)]

/-- The image that boots: source, attempt of PENDING, SVN. -/
def bootImage (s : State) : Nat × Bool × Nat :=
  let recov : Nat × Bool × Nat :=
    if Config.recoveryGood && decide (s.aed.svn ≤ Config.recoverySvn.toNat) then (2, false, Config.recoverySvn.toNat) else (3, false, 0)
  if Config.calGood then
    match (bootOrder s).find? (fun x => imageVerifies s x.1) with
    | some x => (x.1, x.2, (Config.imageSvn (imageArea s x.1)).toNat)
    | none => recov
  else recov

/-- Images tried and passed over, each with its cause: 1 key, signature or digest, 2 SVN below the fused counter
(DESIGN CHOICE, notes/assumptions/30.md). A bad factory calibration tries only the recovery image. -/
def passedOver (s : State) : List Byte :=
  let failed := if Config.calGood then ((bootOrder s).takeWhile (fun x => !imageVerifies s x.1)).map (fun x => x.1) else []
  let firsts := failed.flatMap (fun k => [BitVec.ofNat 8 k, if Config.imageGood (imageArea s k) then 2 else 1])
  if (bootImage s).1 = 3 then firsts ++ [2, if Config.recoveryGood then 2 else 1] else firsts

/-- ROM_BOOT: after a release of reset, while nothing runs yet. The attempt flag is committed before a PENDING image is tried.
AED_BOOT, MOD_STS and the registers of the store show what was found; a boot record is kept; the MDs are released. -/
def romBoot (s : State) : State :=
  if getF s F.MOD_STS_BOOTED 0 = 1 ∨ getF s F.MOD_STS_RECOVERY 0 = 1 ∨ s.pwr.good = false ∨ s.pwr.resetN = false ∨
      s.pwr.refclk = false then s
  else
    let c := storeCfg s
    let tries := Config.calGood && c.pending.isSome && !c.attempt
    let (src, att, svn) := bootImage s
    let passed := passedOver s
    let s := if tries then storeWrite s (commitCfg c .attempt) else s
    let s := setF (setF s F.AED_BOOT_SRC 0 src) F.AED_BOOT_PENDING_TRY 0 (if att then 1 else 0)
    let s := setF (setF s F.AED_BOOT_CAL_BAD 0 (if Config.calGood then 0 else 1)) F.AED_BOOT_SVN_FUSE 0 s.aed.svn
    let s := setF s F.AED_BOOT_SVN_IMG 0 svn
    let s := setF (setF s F.MOD_STS_BOOTED 0 (if src < 2 then 1 else 0)) F.MOD_STS_RECOVERY 0 (if src < 2 then 0 else 1)
    let good := if src < 3 then c.overlay.filter (fun e => itemKnown e.item.toNat) else []
    let bad := if src < 3 then (c.overlay.filter (fun e => !itemKnown e.item.toNat)).length else 0
    let s := setF (setF s F.AED_CAL_ENTRIES 0 good.length) F.AED_CAL_BAD_ENT 0 bad
    let s := setF (setF s F.AED_ATT_BLOCKS 0 (c.nextIdx / 256 % 2 ^ 32)) F.AED_STORE_CNT_COMMITS 0 (storeSeq s % 65536)
    let s := modAed s (fun a => { a with
      bootWord := rdWord s (pageBase .aed 0 + 0x104)
      overlayOn := good })
    tryRelease (traceFree (plog (showAuth s) 1 ([BitVec.ofNat 8 src, BitVec.ofNat 8 svn, BitVec.ofNat 8 s.aed.svn] ++ passed)) 0x500 0x042)

/-- IMAGE_HEALTHY (R445). -/
def imageHealthy (s : State) : State :=
  if getF s F.AED_BOOT_PENDING_TRY 0 = 1 ∧ getF s F.MOD_STS_CORES_REL 0 = 1 ∧ restarting s 17 = false ∧
      (List.range 8).all (fun d => !restarting s (9 + d)) = true ∧ s.aed.commits.contains .healthy = false ∧
      (storeCfg s).pending.isSome = true then
    wantCommit s .healthy
  else s

/-! ### Commands -/

def execGetVersion (o : Origin) (s : State) : Host.Outcome State Fault Refusal := .next (getVersion s o)
def execGetNonce (o : Origin) (s : State) : Host.Outcome State Fault Refusal := .next (getNonce s o)
def execGetCert (o : Origin) (s : State) : Host.Outcome State Fault Refusal := .next (getCert s o)
def execGetMeasurements (o : Origin) (nonce : List Byte) (s : State) : Host.Outcome State Fault Refusal :=
  .next (getMeasurements s o nonce)
def execSessionOpen (o : Origin) (nonce _encap : List Byte) (s : State) : Host.Outcome State Fault Refusal :=
  .next (sessionOpen s o nonce)
def execSessionClose (o : Origin) (s : State) : Host.Outcome State Fault Refusal := .next (sessionClose s o)
def execSessionTimeout (sess : Fin 8) (s : State) : Host.Outcome State Fault Refusal := .next (sessionTimeout s sess)
def execGrantMessage (o : Origin) (m : GrantMsg) (s : State) : Host.Outcome State Fault Refusal := .next (grantMessage s o m)
def execGrantExpiry (sess : Fin 8) (scope : Scope) (s : State) : Host.Outcome State Fault Refusal :=
  .next (grantExpiry s sess (scopeCode scope))
def execOwnerSet (o : Origin) (hash key sig : List Byte) (s : State) : Host.Outcome State Fault Refusal :=
  .next (ownerSet s o hash key sig)
def execSvnCommit (o : Origin) (s : State) : Host.Outcome State Fault Refusal := .next (svnCommit s o)
def execCalSet (o : Origin) (overlay : List CalEntry) (s : State) : Host.Outcome State Fault Refusal := .next (calSet s o overlay)
def execDumpReq (o : Origin) (s : State) : Host.Outcome State Fault Refusal := .next (dumpReq s o)
def execPldmMonitoringRequest (o : Origin) (sensor : BitVec 16) (s : State) : Host.Outcome State Fault Refusal :=
  .next (pldmMonitoring s o sensor.toNat)
def execRequestFirmwareData (o : Origin) (off : BitVec 24) (data : List Byte) (s : State) : Host.Outcome State Fault Refusal :=
  .next (requestFirmwareData s o off.toNat data)
def execVerifyComplete (o : Origin) (s : State) : Host.Outcome State Fault Refusal := .next (verifyComplete s o)
def execActivateFirmware (o : Origin) (s : State) : Host.Outcome State Fault Refusal := .next (activateFirmware s o)
def execSensorSample (raw : List (BitVec 12)) (s : State) : Host.Outcome State Fault Refusal := .next (sensorSample s raw)
def execPmbusPoll (rails : List RailReading) (s : State) : Host.Outcome State Fault Refusal := .next (pmbusPoll s rails)
def execWatchdogRestart (p : Processor) (s : State) : Host.Outcome State Fault Refusal := .next (watchdogRestart s (procNum p))
def execAedFwrst (v : Word32) (s : State) : Host.Outcome State Fault Refusal := .next (aedFwrst s v.toNat)
def execRestartEnd (p : Processor) (s : State) : Host.Outcome State Fault Refusal := .next (restartEnd s (procNum p))
def execRomBoot (s : State) : Host.Outcome State Fault Refusal := .next (romBoot s)
def execImageHealthy (s : State) : Host.Outcome State Fault Refusal := .next (imageHealthy s)
def execStoreCommit (s : State) : Host.Outcome State Fault Refusal := .next (storeCommit s)
def execSignatureRelease (s : State) : Host.Outcome State Fault Refusal := .next (signatureRelease s)
def execEndpointIdAssignment (binding : Binding) (eid : BitVec 8) (s : State) : Host.Outcome State Fault Refusal :=
  .next (endpointId s binding eid.toNat)

end Sys2Proof.Machine
end

