-- ==== Sys2Proof/Machine/Power.lean ====
section
/-! DEFINITION. Machine/Power.lean: duties, limits, trip, rails, pins and reset (R35, R464, R487 to R505). -/

namespace Sys2Proof.Machine

def modPwr (s : State) (f : PwrSt → PwrSt) : State := { s with pwr := f s.pwr }

/-! ### Output pins (Table 17.5) -/

/-- THERM_N: low while any junction duty is below 16. -/
def pinThermN (s : State) : Bool := s.pwr.cut.isEmpty

/-- TRIP_N: low during a trip hold. -/
def pinTripN (s : State) : Bool := s.pwr.trip.isNone

/-- SMB_ALERT_N: low while the health FIFO holds a record. -/
def pinAlertN (s : State) : Bool := s.aed.health.isEmpty

/-! ### Duties (R490 to R493) -/

/-- Ceiling duty. -/
def ceilDuty (s : State) : Nat := 16 - s.pwr.capCut

/-- Junction duty of die `i`: 0 to 7 CD, 8 to 15 MD. -/
def junctionDuty (s : State) (i : Nat) : Nat := 16 - sget 0 s.pwr.cut i

/-- Compute duty d of CD `n`; 0 during a trip hold (R495). -/
def cdDuty (s : State) (n : Nat) : Nat := if s.pwr.trip.isSome then 0 else min (ceilDuty s) (junctionDuty s n)

/-- Memory duty m of MD `n`. -/
def mdDuty (s : State) (n : Nat) : Nat := junctionDuty s (8 + n)

/-- The trace record of a change, with its cause. -/
def dutyTrace (s : State) (cause : Nat) : State :=
  trace s 0x500 0x040 ((List.range 8).map (fun n => BitVec.ofNat 8 (cdDuty s n)) ++
    (List.range 8).map (fun n => BitVec.ofNat 8 (mdDuty s n)) ++ [BitVec.ofNat 8 cause])

/-- A limit event: a first step below 16 after the cause has held its duty at 16 for 1 s (R493). -/
def limitEvent (s : State) (since : Option Nat) : State :=
  if since.getD 0 + 1000000000 ≤ ftNow s then traceFree (plog s 4 []) 0x500 0x045 else s

/-- POWER_CEILING_TICK on the mean input power of the last 10 µs (R491). -/
def powerCeilingTick (s : State) (p10 : Nat) : State :=
  let c := s.pwr.capCut
  let now := ftNow s
  let cause := if s.pwr.cut.isEmpty then 0 else 2
  if s.pwr.good = false then s
  else if 3800 < p10 then
    if 15 ≤ c then s
    else
      let full := s.pwr.capFull
      let s := modPwr s (fun p => { p with capCut := c + 1, capSince := now })
      let s := if c = 0 then limitEvent (latchErr s (pageBase .mod 0) 7 0 0x0100) full else s
      dutyTrace s cause
  else if p10 < 3700 ∧ s.pwr.capSince + 100000 ≤ now ∧ 0 < c then
    dutyTrace (modPwr s (fun p => { p with
      capCut := c - 1
      capSince := now
      capFull := if c = 1 then some now else p.capFull })) cause
  else s

/-- Sensors that govern die `i` (R492). -/
def governing (i : Nat) : List Nat :=
  if i < 8 then (List.range 4).map (fun k => 4 * i + k) ++ (List.range 28).map (fun k => 32 + k)
  else [32 + 2 * (i - 8), 33 + 2 * (i - 8)]

/-- Page of the die that owns a junction sensor (R493). -/
def sensorPage (n : Nat) : Nat :=
  if n < 32 then pageBase .cd (n / 4) else if n < 48 then pageBase .md ((n - 32) / 2) else pageBase .iod 0

/-- One junction duty: down by 1 while a governing sensor reads 105 °C or more, up by 1 every 100 µs once all read 100 °C or
less. -/
def dutyStep (s : State) (i : Nat) : State :=
  let c := sget 0 s.pwr.cut i
  let now := ftNow s
  match (governing i).find? (fun n => decide (840 ≤ tempOf s n)) with
  | some n =>
    if 15 ≤ c then s
    else
      let s := modPwr s (fun p => { p with cut := sset 0 p.cut i (c + 1), cutSince := sset 0 p.cutSince i now })
      if c = 0 then latchErr s (sensorPage n) 7 0 n else s
  | none =>
    if 0 < c ∧ (governing i).all (fun n => decide (tempOf s n ≤ 800)) = true ∧ sget 0 s.pwr.cutSince i + 100000 ≤ now then
      modPwr s (fun p => { p with cut := sset 0 p.cut i (c - 1), cutSince := sset 0 p.cutSince i now })
    else s

/-- JUNCTION_DUTY_TICK every 10 µs. -/
def junctionDutyTick (s : State) : State :=
  if s.pwr.good = false ∨ s.pwr.trip.isSome then s
  else
    let old := s.pwr.cut
    let s := (List.range 16).foldl dutyStep s
    if s.pwr.cut = old then s
    else
      let s := if old.isEmpty then limitEvent s s.pwr.cutFull else s
      let s := if s.pwr.cut.isEmpty then modPwr s (fun p => { p with cutFull := some (ftNow s) }) else s
      dutyTrace s (if s.pwr.capCut = 0 then 1 else 2)

/-! ### Trip and faults (R495, R496) -/

/-- JUNCTION_TRIP: a junction sensor reads 115 °C or more. -/
def junctionTrip (s : State) : State :=
  if s.pwr.good = false ∨ s.pwr.trip.isSome then s
  else
    match junctionSensors.find? (fun n => decide (920 ≤ tempOf s n)) with
    | some n =>
      let s := latchErr (modPwr s (fun p => { p with trip := some (ftNow s) })) (sensorPage n) 7 0 n
      if firmwareRuns s then dumpBegin s 1 else s
    | none => s

/-- TRIP_HOLD_TIMEOUT, 500 ms after the trip. -/
def tripHoldTimeout (s : State) : State :=
  match s.pwr.trip with
  | some t => if t + 500000000 ≤ ftNow s then railsOff s else s
  | none => s

/-- RAIL_FAULT: no dump and no store commit. A rail that fails to come up keeps PWR_GOOD low in the same way (R497). -/
def railFault (s : State) : State := if s.pwr.pwrEn then railsOff s else s

/-! ### Sequencing (R488, R497 to R500, R505) -/

/-- PWR_EN_HIGH: the rails come up in the order of Table 17.4, and PWR_GOOD goes high. The sequence completes within its own
step (notes/assumptions/11.md). -/
def pwrEnHigh (s : State) : State :=
  if s.pwr.pwrEn then s
  else
    let s := coldReset s
    modPwr s (fun p => { p with pwrEn := true, good := true, latched := false, trip := none })

/-- PWR_EN_LOW: module cold reset, lasers off, PWR_GOOD low, rails off. -/
def pwrEnLow (s : State) : State :=
  if s.pwr.pwrEn then
    let s := coldReset s
    modPwr s (fun p => { p with pwrEn := false, good := false, latched := false, trip := none })
  else s

/-- The end of a module cold reset samples MFG_TEST_N: test mode is entered where the fuse is intact (R35). -/
def sampleTest (s : State) (mfgTestLow : Bool) : State :=
  if mfgTestLow ∧ s.pwr.testFuse then setF s F.DBG_STS_MFG_TEST 0 1 else s

/-- RESET_N: low holds the module in cold reset; the release samples the address straps (R505), and MFG_TEST_N unless a stop of
REFCLK keeps the module in reset. -/
def resetPin (s : State) (high : Bool) (straps : Nat) (mfgTestLow : Bool) : State :=
  if high then
    if s.pwr.resetN then s
    else
      let s := modPwr s (fun p => { p with resetN := true, extest := false, mfgLow := mfgTestLow })
      if s.pwr.good then
        let s := modAed s (fun a => { a with smbAddr := 0x62 + straps })
        if s.pwr.refclk then sampleTest s mfgTestLow else s
      else s
  else
    let s := if s.pwr.good then coldReset s else s
    modPwr s (fun p => { p with resetN := false })

/-- REFCLK_STOP for more than 10 µs: while RESET_N is high, a module cold reset. -/
def refclkStop (s : State) : State :=
  let s := if s.pwr.resetN ∧ s.pwr.good then coldReset s else s
  modPwr s (fun p => { p with refclk := false })

/-- REFCLK_RETURN: REFCLK has run for 1 ms again; the cold reset of its stop ends, unless RESET_N holds the module in one
(R498). MFG_TEST_N is sampled, at the level of the last release of RESET_N (DESIGN CHOICE, notes/assumptions/5.md). -/
def refclkReturn (s : State) : State :=
  let was := s.pwr.refclk
  let s := modPwr s (fun p => { p with refclk := true })
  if !was ∧ s.pwr.resetN ∧ s.pwr.good then sampleTest s s.pwr.mfgLow else s

/-! ### Boundary scan (R464, R504) -/

/-- Instructions of the TAP. -/
def tapIns (ir : BitVec 8) : TapIns :=
  match Config.tapCode ir with
  | 0 => .bypass
  | 1 => .idcode
  | 2 => .sample
  | 3 => .extest
  | _ => .other

/-- BOUNDARY_SCAN_INSTRUCTION. IDCODE answers 0x1A8D_3C9B; SAMPLE/PRELOAD answers the pins, which are free values here, and
loads the boundary register; EXTEST drives it onto the pins, only while RESET_N is low. -/
def boundaryScan (s : State) (ir : BitVec 8) (data : List Bool) : State :=
  let set (s : State) (i : TapIns) : State := modPwr s (fun p => { p with tap := i, extest := i == .extest })
  match tapIns ir with
  | .bypass => set s .bypass
  | .idcode => emit (set s .idcode) (.scan false 0x1A8D3C9B)
  | .sample =>
    let (v, s) := freshBits s
    emit (modPwr (set s .sample) (fun p => { p with bscan := data })) (.scan false (v.setWidth 32))
  | .extest =>
    if s.pwr.resetN then s
    else
      let (v, s) := freshBits s
      emit (modPwr (set s .extest) (fun p => { p with bscan := data })) (.scan false (v.setWidth 32))
  | .other => s

/-! ### Commands -/

def execPowerCeilingTick (p10 : Nat) (s : State) : Host.Outcome State Fault Refusal := .next (powerCeilingTick s p10)
def execJunctionDutyTick (s : State) : Host.Outcome State Fault Refusal := .next (junctionDutyTick s)
def execJunctionTrip (s : State) : Host.Outcome State Fault Refusal := .next (junctionTrip s)
def execTripHoldTimeout (s : State) : Host.Outcome State Fault Refusal := .next (tripHoldTimeout s)
def execRailFault (s : State) : Host.Outcome State Fault Refusal := .next (railFault s)
def execPwrEnHigh (s : State) : Host.Outcome State Fault Refusal := .next (pwrEnHigh s)
def execPwrEnLow (s : State) : Host.Outcome State Fault Refusal := .next (pwrEnLow s)
def execResetN (high : Bool) (straps : BitVec 3) (mfgTestLow : Bool) (s : State) : Host.Outcome State Fault Refusal :=
  .next (resetPin s high straps.toNat mfgTestLow)
def execRefclkStop (s : State) : Host.Outcome State Fault Refusal := .next (refclkStop s)
def execRefclkReturn (s : State) : Host.Outcome State Fault Refusal := .next (refclkReturn s)
def execBoundaryScanInstruction (ir : BitVec 8) (data : List Bool) (s : State) : Host.Outcome State Fault Refusal :=
  .next (boundaryScan s ir data)

end Sys2Proof.Machine
end

