-- ==== Sys2Proof/Machine/RegAccess.lean ====
section
/-! DEFINITION. Machine/RegAccess.lean: accesses to the register pages: header, posted and indirect writes, votes, locks, and
what a write of each register does (R12, R466 to R485). -/

namespace Sys2Proof.Machine

/-! ### Pages -/

def pageOf (s : State) (b : Nat) : PageSt := sget PageSt.reset s.pages b

def modPage (s : State) (b : Nat) (f : PageSt → PageSt) : State :=
  { s with pages := sset PageSt.reset s.pages b (f (pageOf s b)) }

/-- Slow pages (R470). -/
def slowPage : Page → Bool
  | .md => true
  | .kln => true
  | .aed => true
  | _ => false

/-- Pages with arrays in their block space (R478). -/
def arrayPage : Page → Bool
  | .num => true
  | .res => true
  | .rte => true
  | .ras => true
  | .aed => true
  | _ => false

/-- Pages that the management path reaches (R437). -/
def mgmtPage : Page → Bool
  | .lnk => true
  | .rte => true
  | .ft => true
  | .tmr => true
  | .twn => true
  | .ras => true
  | _ => false

/-- Power, clock and RESET_N let the module answer (R488, R498). -/
def moduleAlive (s : State) : Bool := s.pwr.good && s.pwr.resetN && s.pwr.refclk

/-- BLK_BUSY.BUSY (R476, R479). -/
def pageBusy (s : State) (b : Nat) : Bool := (pageOf s b).posted.isSome || !(pageOf s b).fifo.isEmpty

/-- ACCMODE is INDIRECT (R476). -/
def accMode (s : State) (b : Nat) : Bool := getAt s (b + 0x010) 0 0 == 1

/-- Offsets in the common header that hold a register (Table 16.2). -/
def hdrDefined (off : Nat) : Bool :=
  [0x000, 0x004, 0x008, 0x010, 0x014, 0x018, 0x01C, 0x020, 0x024, 0x040, 0x044].contains off

/-- The fields of the word at an offset of a page. -/
def wordFields (p : Page) (off : Nat) : List Fld := (pageFields p).filter (fun f => f.off == off)

/-- A defined word: one with fields, or HOST_WIN_LO, which is all reserved (Table 14.8). -/
def wordDefined (p : Page) (off : Nat) : Bool := !(wordFields p off).isEmpty || (p == .host && off == 0x104)

/-! ### Votes (R482) -/

/-- RWV fields of a page: offset and bits. -/
def rwvFields (p : Page) : List (Nat × Nat × Nat) :=
  [(0x010, 0, 0), (0x018, 4, 0), (0x018, 26, 16)] ++
    ((pageFields p).filter (fun f => f.acc == .rwv)).map (fun f => (f.off, f.hi, f.lo))

/-- Vote one field: a disagreement rewrites the minority copy, sets VOTE, counts in FIX_CNT and, when none is recorded,
records the word. -/
def voteField (s : State) (b : Nat) (f : Nat × Nat × Nat) : State :=
  let a := b + f.1
  let d := bitsOf ((sget 0 s.regB a) ||| (sget 0 s.regC a)).toNat f.2.1 f.2.2
  if d = 0 then s
  else
    let v := getAt s a f.2.1 f.2.2
    let hole : Word32 := putBits (BitVec.allOnes 32) f.2.1 f.2.2 0
    let s := { s with
      regs := sset (resetAt a) s.regs a (putBits (sget (resetAt a) s.regs a) f.2.1 f.2.2 v)
      regB := sset 0 s.regB a (sget 0 s.regB a &&& hole)
      regC := sset 0 s.regC a (sget 0 s.regC a &&& hole) }
    let s := if getAt s (b + 0x024) 0 0 = 1 then s
      else setAt (setAt s (b + 0x024) 11 2 (f.1 / 4)) (b + 0x024) 0 0 1
    let s := setAt s (b + 0x024) 31 16 (min 65535 (getAt s (b + 0x024) 31 16 + 1))
    setSts s b 4

/-- Vote the RWV fields of the word at `off`. -/
def voteWord (s : State) (p : Page) (b off : Nat) : State :=
  ((rwvFields p).filter (fun f => f.1 == off)).foldl (fun s f => voteField s b f) s

/-- VOTE_WALK of a page. -/
def voteWalk (s : State) (a : Nat) : State :=
  match pageAt a with
  | some (p, n) => if moduleAlive s && !pageHeld s p n then (rwvFields p).foldl (fun s f => voteField s (pageBase p n) f) s else s
  | none => s

/-! ### Effect of a write (R12, R485) -/

/-- The value that a field stores. -/
def clampFld (f : Fld) (v : Nat) : Nat :=
  match f.page, f.off, f.lo with
  | .tmr, 0x100, 0 => min v 8192
  | .core, 0x118, 0 => min v 1024
  | .arr, 0x100, 0 => max 14 (min v 23)
  | .bwd, 0x110, 8 => min v 64
  | .md, 0x104, 0 => if 1 ≤ v ∧ v ≤ 63 then 64 else v
  | .md, 0x140, 0 => max v 1
  | .ctx, 0x118, 0 => min v 12
  | .sch, 0x100, 0 => max 10 (min v 4000)
  | .sch, 0x100, 16 => max 1 (min v 4000)
  | .sch, 0x104, 16 => max 1 (min v 300)
  | .ft, 0x100, 16 => max v 1
  | .col, 0x108, _ => max v 1
  | .twn, 0x110, 8 => min v 64
  | .ras, 0x100, _ => max v 1
  | .sto, 0x108, 0 => max v 1
  | _, _, _ => v

/-- What a write leaves in one field: RO fields stay, W1C bits clear, a WO field keeps the word for the action that reads it. -/
def storeFld (w v : Word32) (f : Fld) : Word32 :=
  let x := bitsOf v.toNat f.hi f.lo
  match f.acc with
  | .ro => w
  | .w1c => putBits w f.hi f.lo (bitsOf (w &&& ~~~v).toNat f.hi f.lo)
  | _ => putBits w f.hi f.lo (clampFld f x)

/-- The word after a write of `v`. -/
def storeWord (s : State) (p : Page) (n off : Nat) (v : Word32) : Word32 :=
  (wordFields p off).foldl (fun w f => storeFld w v f) (rdWord s (pageBase p n + off))

/-- Plain registers. -/
def plainWrite (s : State) (p : Page) (n off : Nat) (v : Word32) : State :=
  wrWord s (pageBase p n + off) (storeWord s p n off v)

/-- A register that the scheduler processor writes at bind: a write while a context runs waits for the next bank (R81, R191,
R252). -/
def bindWrite (s : State) (p : Page) (n off : Nat) (v : Word32) : State :=
  let a := pageBase p n + off
  let w := storeWord s p n off v
  if (coreOf s n).bound.isSome then modCore s n (fun k => { k with heldWr := k.heldWr ++ [(a, w)] }) else wrWord s a w

/-- A register with a lock (Table 16.15). -/
def lockedWrite (s : State) (locked : Bool) (p : Page) (n off : Nat) (v : Word32) : State :=
  if locked then accErr s (pageBase p n) else plainWrite s p n off v

def anyContext (s : State) : Bool := s.ctxs.any (fun e => e.2.state != 0)
def anyQueue (s : State) : Bool := s.queues.any (fun e => e.2.state != 0)
def anyGroup (s : State) : Bool := s.col.groups.any (fun e => e.2.run.isSome)
def anyTarget (s : State) : Bool := s.sto.targets.any (fun e => e.2.state != 0)

/-- CTX_CMD; while BUSY reads 1 any write is ignored and sets OVERRUN (R274). -/
def ctxCmdWrite (s : State) (v : Nat) : State :=
  let k := bitsOf v 11 0
  if ctxBusy s then setF s F.CTX_CMD_STS_OVERRUN 0 1
  else
  match bitsOf v 13 12 with
  | 0 => accErr s (pageBase .ctx 0)
  | 1 => create s k
  | 2 => ctxEnd s k 1
  | _ => ctxEnd s k 2

/-- XLT_INVAL_LO and XLT_INVAL_HI: ignored while an invalidation runs. -/
def xltWrite (s : State) (off : Nat) (v : Word32) : State :=
  if getF s F.XLT_INVAL_STS_BUSY 0 = 1 then setF s F.XLT_INVAL_STS_OVERRUN 0 1
  else
    let s := plainWrite s .ctx 0 off v
    if off = 0x130 ∧ bitAt v.toNat 31 then
      xltInval s (getF s F.XLT_INVAL_HI_CTX 0) (getF s F.XLT_INVAL_HI_SCOPE 0)
        (getF s F.XLT_INVAL_HI_VA_HI 0 * 2 ^ 32 + getF s F.XLT_INVAL_LO_VA_LO 0 * 65536)
    else s

/-- QUE_CMD; while BUSY reads 1 any write is ignored and sets OVERRUN (R310). -/
def queCmdWrite (s : State) (v : Nat) : State :=
  let q := bitsOf v 15 0
  if queBusy s then setF s F.QUE_CMD_STS_OVERRUN 0 1
  else
  match bitsOf v 17 16 with
  | 0 => accErr s (pageBase .que 0)
  | 1 => queEnable s q
  | 2 => queDisable s q
  | _ => queResume s q

/-- TWN_CMD; a reserved OP has no effect, but while BUSY reads 1 any write is ignored and sets OVERRUN (R398). -/
def twnCmdWrite (s : State) (v : Nat) : State :=
  let arg := bitsOf v 31 16
  match bitsOf v 3 0 with
  | 1 => attach s
  | 2 => detach s
  | 3 => promote s arg
  | 4 => receive s arg
  | 5 => lost s
  | 6 => pull s (arg % 2)
  | 7 => clearStore s
  | _ => twinCmd s id

/-- STO_CMD. What a target answers when ENABLE comes by a register write is a free value (notes/assumptions/31.md). -/
def stoCmdWrite (s : State) (v : Nat) : State :=
  let t := bitsOf v 7 0
  if restarting s 0 then s
  else
    match bitsOf v 9 8 with
    | 1 =>
      let (x, s) := freshBits s
      stoEnable s t ⟨bitAt x.toNat 0, bitAt x.toNat 1, x.toNat / 4 % 2 ^ 16, bitAt x.toNat 18⟩
    | 2 => stoDisable s t
    | _ => s

/-- LNK_CTL. -/
def lnkCtlWrite (s : State) (l v : Nat) : State :=
  match bitsOf v 1 0 with
  | 1 => lnkEnable s l
  | 2 => linkOff s l
  | 3 => lnkRestart s l
  | _ => s

/-- COL_GCMD: a reserved OP has no effect but on a RUNNING group, where the write is ignored like any other. -/
def gcmdWrite (s : State) (v : Nat) : State :=
  let gr := bitsOf v 11 0
  if bitsOf v 13 12 = 1 then colGcmdReset s gr (bitsOf v 31 16)
  else if (groupOf s gr).run.isSome then setF s F.COL_STS_IGNORED 0 1
  else s

/-- RST_CMD; while BUSY reads 1 any write is ignored and sets OVERRUN (R398). -/
def rstCmdWrite (s : State) (v : Nat) : State :=
  if getF s F.RST_STS_BUSY 0 = 1 then setF s F.RST_STS_OVERRUN 0 1
  else if bitAt v 31 then resetRequest s (bitsOf v 3 0) (bitsOf v 11 4) (bitAt v 12) else s

/-- INJ_CTL: CLASS and COUNT are stored, then CANCEL and ARM act. -/
def injCtlWrite (s : State) (v : Word32) : State :=
  let s := plainWrite s .ras 0 0x144 v
  let s := if bitAt v.toNat 1 then injCancel s else s
  if bitAt v.toNat 0 then injArm s else s

/-- NUM_CTL.CLR (R144). -/
def numClear (s : State) (c : Nat) : State := modCore s c (fun k => { k with numCnt := [] })

/-- AED_LOG_BASE_HI moves the log ring at once; the trace ring starts again at record 0 (R485). -/
def logBaseWrite (s : State) (v : Word32) : State :=
  let s := setF (plainWrite s .aed 0 0x114 v) F.AED_LOG_HEAD_HEAD 0 0
  setLog s { s.aed.log with ring := some (getPair s F.AED_LOG_BASE_LO_BASE_LO F.AED_LOG_BASE_HI_BASE_HI 0) }

/-- A write of a core's page. -/
def coreWrite (s : State) (p : Page) (n off : Nat) (v : Word32) : State :=
  match p, off with
  | .core, 0x110 | .core, 0x114 | .core, 0x118 => bindWrite s p n off v
  | .dma, 0x118 | .dma, 0x11C | .dma, 0x120 => bindWrite s p n off v
  | .bwd, 0x100 | .bwd, 0x104 | .bwd, 0x108 | .bwd, 0x10C | .bwd, 0x110 => bindWrite s p n off v
  | .num, 0x100 =>
    let s := plainWrite s p n off v
    if bitAt v.toNat 1 then numClear s n else s
  | .arr, 0x108 =>
    let s := plainWrite s p n off v
    if bitAt v.toNat 0 then setF s F.ARR_ABFT_LOG0_LOST n 0 else s
  | _, _ => plainWrite s p n off v

/-- A write of a CTX, QUE, RES, COL, HOST, STO or ETH page. -/
def hostSideWrite (s : State) (p : Page) (n off : Nat) (v : Word32) : State :=
  match p, off with
  | .ctx, 0x100 | .ctx, 0x104 | .ctx, 0x110 | .ctx, 0x114 | .ctx, 0x118 => lockedWrite s (anyContext s) p n off v
  | .ctx, 0x108 => ctxCmdWrite s v.toNat
  | .ctx, 0x124 =>
    if bitAt v.toNat 24 then fltRespAbort s (bitsOf v.toNat 23 0) else fltRespRetry s (bitsOf v.toNat 23 0)
  | .ctx, 0x12C | .ctx, 0x130 => xltWrite s off v
  | .que, 0x100 | .que, 0x104 => lockedWrite s (anyQueue s) p n off v
  | .que, 0x108 => queDb s (bitsOf v.toNat 15 0) (bitsOf v.toNat 31 16)
  | .que, 0x10C => queCmdWrite s v.toNat
  | .col, 0x100 | .col, 0x104 => lockedWrite s (anyGroup s) p n off v
  | .col, 0x10C => gcmdWrite s v.toNat
  | .host, 0x108 => hostWinWrite s v
  | .host, 0x110 => biasCmd s (bitsOf v.toNat 19 0) (bitsOf v.toNat 30 20 + 1) (bitAt v.toNat 31)
  | .sto, 0x100 | .sto, 0x104 => lockedWrite s (anyTarget s) p n off v
  | .sto, 0x10C => stoCmdWrite s v.toNat
  | _, _ => plainWrite s p n off v

/-- A write of a TWN, RAS, RTE, FT or LNK page. -/
def fabricWrite (s : State) (p : Page) (n off : Nat) (v : Word32) : State :=
  match p, off with
  | .twn, 0x104 => twnCmdWrite s v.toNat
  | .ras, 0x120 =>
    if bitAt v.toNat 31 then
      rasVerdict s (getF s F.RAS_VERDICT_LO_JOB 0) (getF s F.RAS_VERDICT_LO_FEPOCH 0) (bitAt v.toNat 0)
    else s
  | .ras, 0x12C => rstCmdWrite s v.toNat
  | .ras, 0x134 =>
    let s := plainWrite s p n off v
    if bitAt v.toNat 0 then dumpBegin s 0 else s
  | .ras, 0x144 => injCtlWrite s v
  | .rte, 0x100 => rteModidWrite s (bitsOf v.toNat 15 0)
  | .rte, 0x104 => if bitAt v.toNat 1 then flipGo s else s
  | .ft, 0x114 => { s with ft := { s.ft with setLo := v } }
  | .ft, 0x118 => ftSet s (BitVec.ofNat 64 (s.ft.setLo.toNat + v.toNat * 2 ^ 32))
  | .lnk, 0x100 => roleWrite s n (bitsOf v.toNat 1 0)
  | .lnk, 0x104 => lnkCtlWrite s n v.toNat
  | _, _ => plainWrite s p n off v

/-- A write is performed in the block's domain. -/
def performWrite (s : State) (p : Page) (n off : Nat) (v : Word32) : State :=
  match p with
  | .core | .arr | .num | .vec | .bwd | .dma => coreWrite s p n off v
  | .ctx | .que | .res | .col | .host | .sto | .eth => hostSideWrite s p n off v
  | .twn | .ras | .rte | .ft | .lnk => fabricWrite s p n off v
  | .md =>
    let s := plainWrite s p n off v
    if off = 0x120 ∧ bitAt v.toNat 0 then setF s F.MD_ECC_LOG0_LOST n 0 else s
  | .aed =>
    if off = 0x108 then aedFwrst s v.toNat
    else if off = 0x114 then logBaseWrite s v
    else plainWrite s p n off v
  | .cd | .tmr | .sch | .kln | .iod | .mod | .dbg => plainWrite s p n off v

/-! ### Indirect space (R478 to R480) -/

/-- What a write at a block-space address does: `none` where the address holds nothing. -/
def arrayWrite (s : State) (p : Page) (n a : Nat) (v : Word32) : Option State :=
  match p with
  | .num =>
    if a < 4096 then
      some (if v = 0 then
          modCore s n (fun k =>
            let x := sget 0 k.numCnt (a / 8)
            { k with numCnt := sset 0 k.numCnt (a / 8) (if a / 4 % 2 = 0 then x / 2 ^ 32 * 2 ^ 32 else x % 2 ^ 32) })
        else s)
    else none
  | .res => if (a < 0x800 ∧ a % 32 < 24) ∨ (0x800 ≤ a ∧ a < 0xA00) ∨ (0x1000 ≤ a ∧ a < 0x11000 ∧ a % 16 < 12) then some s else none
  | .rte =>
    if a < 0x80000 then
      some (if a / 0x40000 = getF s F.RTE_CTL_ACTIVE 0 then s
        else { s with rte := sset rteReset s.rte (a / 4) (v &&& 0xFFFFFF) })
    else none
  | .ras =>
    if a < 0x4000 then
      let k := a / 4
      let ep := if (ctxOf s k).state = 0 then bitsOf v.toNat 31 16 else (fenceOf s k).fepoch
      some { s with fence := sset FenceEnt.reset s.fence k ⟨bitsOf v.toNat 15 0, ep⟩ }
    else none
  | .aed =>
    if a < 0x280 ∨ a = 0x300 then some s
    else if 0x1000 ≤ a ∧ a < 0x1200 then
      let w := (a - 0x1000) / 4
      some (setLog s { s.aed.log with mask := sset (maskReset w) s.aed.log.mask w v })
    else none
  | _ => none

/-- A FIFO entry is performed. -/
def performInd (s : State) (p : Page) (n a : Nat) (v : Word32) : State :=
  let b := pageBase p n
  if 0x100000 ≤ a then
    let off := a - 0x100000
    if slowPage p = true ∧ off < 0x1000 ∧ 0x100 ≤ off ∧ wordDefined p off = true then performWrite s p n off v else accErr s b
  else (arrayWrite s p n a v).getD (accErr s b)

/-- BUSY reads 0 again: an ACCMODE write that waited takes effect (R481). -/
def afterBusy (s : State) (b : Nat) : State :=
  match (pageOf s b).accPend with
  | some m => if pageBusy s b then s else setAt (modPage s b (fun x => { x with accPend := none })) (b + 0x010) 0 0 (if m then 1 else 0)
  | none => s

/-- The oldest FIFO entry of a page is performed. -/
def fifoStep (s : State) (p : Page) (n : Nat) : State :=
  let b := pageBase p n
  match (pageOf s b).fifo with
  | (a, v) :: t => afterBusy (performInd (modPage s b (fun x => { x with fifo := t })) p n a v) b
  | [] => s

/-- The posted write of a page is performed. -/
def postedStep (s : State) (p : Page) (n : Nat) : State :=
  let b := pageBase p n
  match (pageOf s b).posted with
  | some (off, v) => afterBusy (performWrite (modPage s b (fun x => { x with posted := none })) p n off v) b
  | none => s

/-- Every earlier write to a page is performed. -/
def flushPage (s : State) (p : Page) (n : Nat) : State :=
  let s := postedStep s p n
  (List.range (pageOf s (pageBase p n)).fifo.length).foldl (fun s _ => fifoStep s p n) s

/-- Writes to fast pages are performed in arrival order, those that wait in an indirect FIFO too (R468). -/
def flushFast (s : State) : State :=
  s.pages.foldl (fun s e =>
    match pageAt e.1 with
    | some (p, n) => if slowPage p then s else flushPage s p n
    | none => s) s

/-- Keys of the words of a resident-set entry that its word 0 latches. -/
def resKeys (a : Nat) : List Nat :=
  if a < 0x800 then (List.range 5).map (fun i => a / 4 + 1 + i) else [a / 4 + 1, a / 4 + 2]

/-- A word of the resident set as it is now (Table 10.23). -/
def resWord (s : State) (a : Nat) : Nat :=
  if a < 0x800 then
    let x := sget SlotSt.reset s.slots (a / 32)
    match a % 32 / 4 with
    | 0 => x.state + x.model * 256
    | 1 => x.epoch
    | 2 => x.inflight
    | 3 => x.admits
    | 4 => x.lastFt % 2 ^ 32
    | 5 => x.lastFt / 2 ^ 32
    | _ => 0
  else if a < 0xA00 then
    let x := sget ModelSt.reset s.models ((a - 0x800) / 8)
    if a % 8 < 4 then (match x.slot with | some k => k + 64 | none => 0) else x.lastEpoch
  else if 0x1000 ≤ a ∧ a < 0x11000 then
    let x := sget AdpSt.reset s.adapters ((a - 0x1000) / 16)
    match a % 16 / 4 with
    | 0 => x.v0.state + 4 * x.v1.state + 16 * x.cur
    | 1 => x.v0.inflight
    | 2 => x.v1.inflight
    | _ => 0
  else 0

/-- The words of a slot or adapter entry other than word 0. -/
def resLatched (a : Nat) : Bool := decide ((a < 0x800 ∧ a % 32 ≠ 0) ∨ (0x1000 ≤ a ∧ a < 0x11000 ∧ a % 16 ≠ 0))

/-- A read of the resident set: word 0 of a slot or adapter entry latches the others (R311). -/
def resRead (s : State) (a : Nat) : Word32 × State :=
  if resLatched a then (sget 0 s.resLatch (a / 4), s)
  else
    let s1 := if a < 0x800 ∨ 0x1000 ≤ a then
        { s with resLatch := (resKeys a).foldl (fun m k => sset 0 m k (BitVec.ofNat 32 (resWord s (4 * k)))) s.resLatch }
      else s
    (BitVec.ofNat 32 (resWord s a), s1)

/-- Word `w` of counter entry `n`. -/
def numWord (k : CoreSt) (n w : Nat) : Word32 :=
  let x := sget 0 k.numCnt (4 * n + w / 2)
  BitVec.ofNat 32 (if w % 2 = 0 then x else x / 2 ^ 32)

/-- A read of word `w` of a counter entry: word 0 latches words 1 to 7 (R143). -/
def numRead (s : State) (c n w : Nat) : Word32 × State :=
  let k := coreOf s c
  if w = 0 then
    (numWord k n 0, setCore s c { k with
      numLatch := (List.range 7).foldl (fun m i => sset 0 m (8 * n + i + 1) (numWord k n (i + 1))) k.numLatch })
  else (sget 0 k.numLatch (8 * n + w), s)

/-- A read of a block-space address. -/
def arrayRead (s : State) (p : Page) (n a : Nat) : Word32 × State :=
  match p with
  | .num => if a < 4096 then numRead s n (a / 32) (a % 32 / 4) else (0, s)
  | .res => if a < 0x11000 then resRead s a else (0, s)
  | .rte => (if a < 0x80000 then sget rteReset s.rte (a / 4) else 0, s)
  | .ras => (if a < 0x4000 then BitVec.ofNat 32 ((fenceOf s (a / 4)).job + (fenceOf s (a / 4)).fepoch * 65536) else 0, s)
  | .aed =>
    (if a < 0x1000 then sget 0 s.aed.readings a
      else if a < 0x1200 then sget (maskReset ((a - 0x1000) / 4)) s.aed.log.mask ((a - 0x1000) / 4) else 0, s)
  | _ => (0, s)

/-! ### Reads -/

/-- Bits of a word that read as something: WO fields and reserved bits read 0. -/
def readMask (p : Page) (off : Nat) : Word32 :=
  (wordFields p off).foldl (fun m f => if f.acc == .wo then m else putBits m f.hi f.lo (2 ^ (f.hi + 1 - f.lo) - 1)) 0

/-- A register at 0x100 or above: a read of FT_NOW_LO latches NOW_HI (R343). -/
def readWord (s : State) (p : Page) (n off : Nat) : Word32 × State :=
  if p = .ft ∧ off = 0x108 then
    let t := ftNow s
    (BitVec.ofNat 32 t, { s with ft := { s.ft with nowHiLatch := BitVec.ofNat 32 (t / 2 ^ 32) } })
  else if p = .ft ∧ off = 0x10C then (s.ft.nowHiLatch, s)
  else
    let s := voteWord s p (pageBase p n) off
    (rdWord s (pageBase p n + off) &&& readMask p off, s)

/-- Step the indirect address of one source, when AUTOINC is set. -/
def advanceInd (s : State) (b : Nat) (mgmt : Bool) : State :=
  modPage s b (fun x =>
    let a := if mgmt then x.indMgmt else x.indBar
    let a' := if bitAt a.toNat 31 then BitVec.ofNat 32 (2 ^ 31 + (a.toNat % 2 ^ 21 + 4) % 2 ^ 21) else a
    if mgmt then { x with indMgmt := a' } else { x with indBar := a' })

/-- The indirect address of a source. -/
def indAddr (s : State) (b : Nat) (mgmt : Bool) : Nat :=
  (if mgmt then (pageOf s b).indMgmt else (pageOf s b).indBar).toNat % 2 ^ 21

/-- BLK_IND_DATA read, once the FIFO is empty (R479). -/
def indDataRead (s : State) (p : Page) (n : Nat) (mgmt : Bool) : Word32 × State :=
  let b := pageBase p n
  let s := flushPage s p n
  let a := indAddr s b mgmt
  let off := a - 0x100000
  let (v, s) :=
    if 0x100000 ≤ a then
      if slowPage p = true ∧ 0x100 ≤ off ∧ off < 0x1000 then readWord s p n off else (0, s)
    else arrayRead s p n a
  (v, advanceInd s b mgmt)

/-- A header register (R471). -/
def hdrRead (s : State) (p : Page) (n off : Nat) (mgmt : Bool) : Word32 × State :=
  let b := pageBase p n
  match off with
  | 0x000 => (BitVec.ofNat 32 (pageType p + n * 65536), s)
  | 0x004 => (0x100, s)
  | 0x008 => (BitVec.ofNat 32 ((if slowPage p then 1 else 0) + (if arrayPage p then 2 else 0) + 4), s)
  | 0x010 =>
    let s := voteWord s p b off
    (rdWord s (b + off), s)
  | 0x018 =>
    let s := voteWord s p b off
    (rdWord s (b + off), s)
  | 0x014 | 0x01C | 0x024 => (rdWord s (b + off), s)
  | 0x020 => (BitVec.ofNat 32 ((if pageBusy s b then 1 else 0) + 16 * (pageOf s b).fifo.length), s)
  | 0x040 => (if mgmt then (pageOf s b).indMgmt else (pageOf s b).indBar, s)
  | 0x044 => indDataRead s p n mgmt
  | _ => (0, s)

/-- A 32-bit read at an aligned BAR0 address. -/
def regRead32 (s : State) (a : Nat) (mgmt : Bool) : Word32 × State :=
  match pageAt a with
  | none => (0, s)
  | some (p, n) =>
    let off := a % 4096
    if !moduleAlive s then (0, s)
    else if pageHeld s p n then
      (if off = 0 then BitVec.ofNat 32 (pageType p + n * 65536) else if off = 0x020 then 1 else 0, s)
    else if off < 0x100 then hdrRead s p n off mgmt
    else readWord (flushPage s p n) p n off

/-! ### Writes -/

/-- BLK_STS: 1 clears a bit; ERR takes the code with it (R473, R474). -/
def stsWrite (s : State) (b : Nat) (v : Word32) : State :=
  let s := wrWord s (b + 0x014) (rdWord s (b + 0x014) &&& ~~~v)
  if bitAt v.toNat 0 then wrWord s (b + 0x01C) 0 else s

/-- BLK_CTL: fast pages ignore it; while BUSY it waits (R481). -/
def accmodeWrite (s : State) (p : Page) (b : Nat) (m : Bool) : State :=
  if !slowPage p then s
  else if pageBusy s b then modPage s b (fun x => { x with accPend := some m })
  else setAt s (b + 0x010) 0 0 (if m then 1 else 0)

/-- BLK_IND_DATA write: queued, or discarded with IND_OVR (R479). -/
def indDataWrite (s : State) (b : Nat) (mgmt : Bool) (v : Word32) : State :=
  if 16 ≤ (pageOf s b).fifo.length then setSts s b 3
  else
    let a := indAddr s b mgmt
    advanceInd (modPage s b (fun x => { x with fifo := x.fifo ++ [(a, v)] })) b mgmt

/-- A header write; RO registers ignore it, an offset that holds none refuses it (R467). -/
def hdrWrite (s : State) (p : Page) (n off : Nat) (mgmt : Bool) (v : Word32) : State :=
  let b := pageBase p n
  match off with
  | 0x010 => accmodeWrite s p b (bitAt v.toNat 0)
  | 0x014 => stsWrite s b v
  | 0x018 => wrWord s (b + off) (v &&& 0x07FF001F)
  | 0x024 =>
    let s := setAt s (b + off) 31 16 (bitsOf v.toNat 31 16)
    if bitAt v.toNat 0 then setAt s (b + off) 0 0 0 else s
  | 0x040 => modPage s b (fun x => let a := v &&& 0x801FFFFC; if mgmt then { x with indMgmt := a } else { x with indBar := a })
  | 0x044 => indDataWrite s b mgmt v
  | _ => if hdrDefined off then s else accErr s b

/-- A direct write at 0x100 or above of a slow page (R476, R477, R481). -/
def slowWrite (s : State) (b off : Nat) (v : Word32) : State :=
  if (pageOf s b).accPend.isSome ∨ accMode s b then accErr s b
  else if pageBusy s b then setSts s b 2
  else modPage s b (fun x => { x with posted := some (off, v) })

/-- A 32-bit write at an aligned BAR0 address. -/
def regWrite32 (s : State) (a : Nat) (mgmt : Bool) (v : Word32) : State :=
  match pageAt a with
  | none => s
  | some (p, n) =>
    let off := a % 4096
    let b := pageBase p n
    if !moduleAlive s then s
    else if pageHeld s p n then inc s F.MOD_CNT_RST_WR_DROP 0
    else if off < 0x100 then hdrWrite s p n off mgmt v
    else if !wordDefined p off then accErr s b
    else if slowPage p then slowWrite s b off v
    else performWrite (flushFast s) p n off v

/-- REGISTER_WRITE of any size (R466): a 64-bit write is two, the lower address first; one that is small or not aligned has
no effect and sets ACC_ERR of the page. -/
def registerWrite (s : State) (a : Nat) (size : AccSize) (v : Nat) : State :=
  let bad : State :=
    match pageAt a with
    | some (p, n) =>
      if !moduleAlive s then s
      else if pageHeld s p n then inc s F.MOD_CNT_RST_WR_DROP 0
      else accErr s (pageBase p n)
    | none => s
  match size with
  | .b4 => if a % 4 = 0 then regWrite32 s a false (BitVec.ofNat 32 v) else bad
  | .b8 =>
    if a % 8 = 0 then regWrite32 (regWrite32 s a false (BitVec.ofNat 32 v)) (a + 4) false (BitVec.ofNat 32 (v / 2 ^ 32)) else bad
  | _ => bad

/-! ### Commands -/

/-- A command on an implemented page that is not under reset; one under reset drops a write and counts it. -/
def onPage (s : State) (a : Nat) (write : Bool) (f : State → Page → Nat → State) : State :=
  match pageAt a with
  | some (p, n) =>
    if !moduleAlive s then s
    else if pageHeld s p n then (if write then inc s F.MOD_CNT_RST_WR_DROP 0 else s)
    else f s p n
  | none => s

def execRegisterWrite (off : BitVec 26) (size : AccSize) (v : BitVec 64) (s : State) : Host.Outcome State Fault Refusal :=
  .next (registerWrite s off.toNat size v.toNat)

def execBlkStsWrite (off : BitVec 26) (v : Word32) (s : State) : Host.Outcome State Fault Refusal :=
  .next (onPage s off.toNat true (fun s p n => stsWrite s (pageBase p n) v))

def execPostedWritePerformed (pg : PageRef) (s : State) : Host.Outcome State Fault Refusal :=
  .next (onPage s (4096 * pg.val) false postedStep)

def execIndirectFifoEntry (pg : PageRef) (s : State) : Host.Outcome State Fault Refusal :=
  .next (onPage s (4096 * pg.val) false fifoStep)

def execAccmodeWrite (pg : PageRef) (indirect : Bool) (s : State) : Host.Outcome State Fault Refusal :=
  .next (onPage s (4096 * pg.val) true (fun s p n => accmodeWrite s p (pageBase p n) indirect))

def execVoteWalk (pg : PageRef) (s : State) : Host.Outcome State Fault Refusal := .next (voteWalk s (4096 * pg.val))

/-- BLK_IND_DATA_WRITE from either source; the management path reaches six page types only (R437). -/
def execBlkIndDataWrite (pg : PageRef) (viaMgmt : Bool) (v : Word32) (s : State) : Host.Outcome State Fault Refusal :=
  .next (onPage s (4096 * pg.val) true (fun s p n =>
    if viaMgmt = true ∧ mgmtPage p = false then s else indDataWrite s (pageBase p n) viaMgmt v))

/-- Answer of a read: on the host link, or on the management path. -/
def readAnswer (mgmt : Bool) (r : Word32 × State) : State :=
  if mgmt then emit r.2 (.mgmt none 0x22 none (stOk :: leBytes 4 r.1.toNat)) else emit r.2 (.readResp (leBytes 4 r.1.toNat) false)

/-- BLK_IND_DATA_READ from either source. -/
def blkIndDataRead (s : State) (a : Nat) (mgmt : Bool) : State :=
  match pageAt a with
  | some (p, _) => if mgmt = true ∧ mgmtPage p = false then s else readAnswer mgmt (regRead32 s (a + 0x044) mgmt)
  | none => readAnswer mgmt (0, s)

def execBlkIndDataRead (pg : PageRef) (viaMgmt : Bool) (s : State) : Host.Outcome State Fault Refusal :=
  .next (blkIndDataRead s (4096 * pg.val) viaMgmt)

/-- COUNTER_WORD0_READ of entry `n` (R143). -/
def execCounterWord0Read (c : CoreId) (n : Fin 128) (s : State) : Host.Outcome State Fault Refusal :=
  .next (onPage s (pageBase .num c) false (fun s p k => readAnswer false (numRead (flushPage s p k) c n 0)))

def execFtNowLoRead (s : State) : Host.Outcome State Fault Refusal :=
  .next (readAnswer false (regRead32 s (pageBase .ft 0 + 0x108) false))

def execNumCtlClr (c : CoreId) (s : State) : Host.Outcome State Fault Refusal :=
  .next (onPage s (pageBase .num c) true (fun s _ _ => numClear s c))

/-- The page of a BAR0 offset is one that the management path reaches. -/
def mgmtReaches (a : Nat) : Bool :=
  match pageAt a with
  | some (p, _) => mgmtPage p && a % 4 == 0
  | none => false

/-- REG_READ (R437). -/
def mgmtRegRead (s : State) (o : Origin) (a : Nat) : State :=
  mgmtMsg s o 0x22 (fun s =>
    if granted s o 3 = true ∧ mgmtReaches a = true then
      let (v, s) := regRead32 s a true
      reply s o 0x22 (stOk :: leBytes 4 v.toNat)
    else reply s o 0x22 [stDenied])

def execRegRead (o : Origin) (off : BitVec 26) (s : State) : Host.Outcome State Fault Refusal := .next (mgmtRegRead s o off.toNat)

/-- REG_WRITE: performed with the rules of a host write, and answered after it (R437). Aedord itself has read BUSY as 0 first
(R477). -/
def mgmtRegWrite (s : State) (o : Origin) (a : Nat) (v : Word32) : State :=
  mgmtMsg s o 0x23 (fun s =>
    if granted s o 3 = true ∧ mgmtReaches a = true then reply (regWrite32 s a true v) o 0x23 [stOk]
    else reply s o 0x23 [stDenied])

def execRegWrite (o : Origin) (off : BitVec 26) (v : Word32) (s : State) : Host.Outcome State Fault Refusal :=
  .next (mgmtRegWrite s o off.toNat v)

/-- JTAG_TRANSACTION (R36, R457, R504): BUSY and counted, with a grant or without, while a dump holds the path; BUSY without
a JTAG grant; else the access is made. -/
def jtagTransaction (s : State) (t : JtagTxn) : State :=
  if s.ras.dump.isSome then emit (inc s F.DBG_STS_JTAG_BUSY_CNT 0) (.scan true 0)
  else if !grantOpen s 0 then emit s (.scan true 0)
  else if t.write then emit (registerWrite s t.addr.toNat .b4 t.data.toNat) (.scan false 0)
  else
    let a := t.addr.toNat
    if a % 4 = 0 then
      let (v, s) := regRead32 s a false
      emit s (.scan false v)
    else emit (onPage s a false (fun s p n => accErr s (pageBase p n))) (.scan false 0)

def execJtagTransaction (t : JtagTxn) (s : State) : Host.Outcome State Fault Refusal := .next (jtagTransaction s t)

end Sys2Proof.Machine
end

