-- ==== Sys2Proof/Machine/Dispatch.lean ====
section
/-! DEFINITION. Machine/Dispatch.lean: one arm per command. -/

namespace Sys2Proof.Machine

/-- The effect of a command on everything but the queue. -/
def exec (i : Instr) (s : State) : Host.Outcome State Fault Refusal :=
  match i with
  | .nop c y => Sys2Proof.Machine.execNop c y s
  | .add c y => Sys2Proof.Machine.execAdd c y s
  | .sub c y => Sys2Proof.Machine.execSub c y s
  | .mul c y => Sys2Proof.Machine.execMul c y s
  | .mulh c y => Sys2Proof.Machine.execMulh c y s
  | .and c y => Sys2Proof.Machine.execAnd c y s
  | .or c y => Sys2Proof.Machine.execOr c y s
  | .xor c y => Sys2Proof.Machine.execXor c y s
  | .shl c y => Sys2Proof.Machine.execShl c y s
  | .shr c y => Sys2Proof.Machine.execShr c y s
  | .sar c y => Sys2Proof.Machine.execSar c y s
  | .min c y => Sys2Proof.Machine.execMin c y s
  | .max c y => Sys2Proof.Machine.execMax c y s
  | .mov c y => Sys2Proof.Machine.execMov c y s
  | .movhi c y => Sys2Proof.Machine.execMovhi c y s
  | .cmpeq c y => Sys2Proof.Machine.execCmpeq c y s
  | .cmpne c y => Sys2Proof.Machine.execCmpne c y s
  | .cmplt c y => Sys2Proof.Machine.execCmplt c y s
  | .cmpltu c y => Sys2Proof.Machine.execCmpltu c y s
  | .cmple c y => Sys2Proof.Machine.execCmple c y s
  | .cmpleu c y => Sys2Proof.Machine.execCmpleu c y s
  | .pand c y => Sys2Proof.Machine.execPand c y s
  | .por c y => Sys2Proof.Machine.execPor c y s
  | .pxor c y => Sys2Proof.Machine.execPxor c y s
  | .pnot c y => Sys2Proof.Machine.execPnot c y s
  | .pmov c y => Sys2Proof.Machine.execPmov c y s
  | .pget c y => Sys2Proof.Machine.execPget c y s
  | .popc c y => Sys2Proof.Machine.execPopc c y s
  | .clz c y => Sys2Proof.Machine.execClz c y s
  | .rdsr c y => Sys2Proof.Machine.execRdsr c y s
  | .wrsr c y => Sys2Proof.Machine.execWrsr c y s
  | .br c y => Sys2Proof.Machine.execBr c y s
  | .brr c y => Sys2Proof.Machine.execBrr c y s
  | .call c y => Sys2Proof.Machine.execCall c y s
  | .ret c y => Sys2Proof.Machine.execRet c y s
  | .loop c y => Sys2Proof.Machine.execLoop c y s
  | .halt c y => Sys2Proof.Machine.execHalt c y s
  | .stop c y => Sys2Proof.Machine.execStop c y s
  | .ld c y => Sys2Proof.Machine.execLd c y s
  | .lds c y => Sys2Proof.Machine.execLds c y s
  | .st c y => Sys2Proof.Machine.execSt c y s
  | .descLd c y => Sys2Proof.Machine.execDescLd c y s
  | .descSv c y => Sys2Proof.Machine.execDescSv c y s
  | .descAdv c y => Sys2Proof.Machine.execDescAdv c y s
  | .descSts c y => Sys2Proof.Machine.execDescSts c y s
  | .dmaCpy c y => Sys2Proof.Machine.execDmaCpy c y s
  | .dmaXp c y => Sys2Proof.Machine.execDmaXp c y s
  | .dmaGath c y => Sys2Proof.Machine.execDmaGath c y s
  | .dmaScat c y => Sys2Proof.Machine.execDmaScat c y s
  | .dmaScadd c y => Sys2Proof.Machine.execDmaScadd c y s
  | .push c y => Sys2Proof.Machine.execPush c y s
  | .pop c y => Sys2Proof.Machine.execPop c y s
  | .dmaChunk c x => Sys2Proof.Machine.execDmaChunk c x s
  | .dmaTransferComplete c x => Sys2Proof.Machine.execDmaTransferComplete c x s
  | .stagingGrant => Sys2Proof.Machine.execStagingGrant s
  | .phaseSEnd c x => Sys2Proof.Machine.execPhaseSEnd c x s
  | .windowRefill c st => Sys2Proof.Machine.execWindowRefill c st s
  | .windowSpill c st => Sys2Proof.Machine.execWindowSpill c st s
  | .aload c a y => Sys2Proof.Machine.execAload c a y s
  | .amm c a y => Sys2Proof.Machine.execAmm c a y s
  | .adist c a y => Sys2Proof.Machine.execAdist c a y s
  | .adrain c a y => Sys2Proof.Machine.execAdrain c a y s
  | .afill c a y => Sys2Proof.Machine.execAfill c a y s
  | .aclr c a y => Sys2Proof.Machine.execAclr c a y s
  | .tileEnd c a => Sys2Proof.Machine.execTileEnd c a s
  | .bankRelease c a => Sys2Proof.Machine.execBankRelease c a s
  | .abftEvent c => Sys2Proof.Machine.execAbftEvent c s
  | .vadd c h y => Sys2Proof.Machine.execVadd c h y s
  | .vsub c h y => Sys2Proof.Machine.execVsub c h y s
  | .vmul c h y => Sys2Proof.Machine.execVmul c h y s
  | .vfma c h y => Sys2Proof.Machine.execVfma c h y s
  | .vmax c h y => Sys2Proof.Machine.execVmax c h y s
  | .vmin c h y => Sys2Proof.Machine.execVmin c h y s
  | .vabs c h y => Sys2Proof.Machine.execVabs c h y s
  | .vneg c h y => Sys2Proof.Machine.execVneg c h y s
  | .vmov c h y => Sys2Proof.Machine.execVmov c h y s
  | .vcmplt c h y => Sys2Proof.Machine.execVcmplt c h y s
  | .vcmpeq c h y => Sys2Proof.Machine.execVcmpeq c h y s
  | .vexp c h y => Sys2Proof.Machine.execVexp c h y s
  | .vlog c h y => Sys2Proof.Machine.execVlog c h y s
  | .vrcp c h y => Sys2Proof.Machine.execVrcp c h y s
  | .vrsq c h y => Sys2Proof.Machine.execVrsq c h y s
  | .vsqrt c h y => Sys2Proof.Machine.execVsqrt c h y s
  | .vtanh c h y => Sys2Proof.Machine.execVtanh c h y s
  | .vsig c h y => Sys2Proof.Machine.execVsig c h y s
  | .vgelu c h y => Sys2Proof.Machine.execVgelu c h y s
  | .vsilu c h y => Sys2Proof.Machine.execVsilu c h y s
  | .vslope c h y => Sys2Proof.Machine.execVslope c h y s
  | .vld c h y => Sys2Proof.Machine.execVld c h y s
  | .vst c h y => Sys2Proof.Machine.execVst c h y s
  | .xsum c y => Sys2Proof.Machine.execXsum c y s
  | .xsumsq c y => Sys2Proof.Machine.execXsumsq c y s
  | .xmax c y => Sys2Proof.Machine.execXmax c y s
  | .xmin c y => Sys2Proof.Machine.execXmin c y s
  | .xamax c y => Sys2Proof.Machine.execXamax c y s
  | .xargmax c y => Sys2Proof.Machine.execXargmax c y s
  | .xnfin c y => Sys2Proof.Machine.execXnfin c y s
  | .wdma c y => Sys2Proof.Machine.execWdma c y s
  | .weng c y => Sys2Proof.Machine.execWeng c y s
  | .sig c y => Sys2Proof.Machine.execSig c y s
  | .sigArrival cd => Sys2Proof.Machine.execSigArrival cd s
  | .tokw c y => Sys2Proof.Machine.execTokw c y s
  | .twait c y => Sys2Proof.Machine.execTwait c y s
  | .fence c y => Sys2Proof.Machine.execFence c y s
  | .qpost c y => Sys2Proof.Machine.execQpost c y s
  | .yWaitSatisfied c => Sys2Proof.Machine.execYWaitSatisfied c s
  | .kcvt c y => Sys2Proof.Machine.execKcvt c y s
  | .kunp c y => Sys2Proof.Machine.execKunp c y s
  | .qamax c y => Sys2Proof.Machine.execQamax c y s
  | .qseed c y => Sys2Proof.Machine.execQseed c y s
  | .qrot c y => Sys2Proof.Machine.execQrot c y s
  | .qtsc c y => Sys2Proof.Machine.execQtsc c y s
  | .bundleFetch c => Sys2Proof.Machine.execBundleFetch c s
  | .contextStop c => Sys2Proof.Machine.execContextStop c s
  | .stopPropagation k => Sys2Proof.Machine.execStopPropagation k s
  | .cheapPointBank c => Sys2Proof.Machine.execCheapPointBank c s
  | .forcedBank c => Sys2Proof.Machine.execForcedBank c s
  | .periodEnd cd => Sys2Proof.Machine.execPeriodEnd cd s
  | .highArrival cd => Sys2Proof.Machine.execHighArrival cd s
  | .blockDwellExpiry cd => Sys2Proof.Machine.execBlockDwellExpiry cd s
  | .affinityWindowExpiry k v => Sys2Proof.Machine.execAffinityWindowExpiry k v s
  | .placement k v => Sys2Proof.Machine.execPlacement k v s
  | .bind k v => Sys2Proof.Machine.execBind k v s
  | .queDb q tail => Sys2Proof.Machine.execQueDb q tail s
  | .queEnable q => Sys2Proof.Machine.execQueEnable q s
  | .queDisable q => Sys2Proof.Machine.execQueDisable q s
  | .queResume q => Sys2Proof.Machine.execQueResume q s
  | .queDisabled q => Sys2Proof.Machine.execQueDisabled q s
  | .entryFetch q => Sys2Proof.Machine.execEntryFetch q s
  | .entryAdmission q e => Sys2Proof.Machine.execEntryAdmission q e s
  | .notbeforeFiring q e => Sys2Proof.Machine.execNotbeforeFiring q e s
  | .queueTimeout q e => Sys2Proof.Machine.execQueueTimeout q e s
  | .entryNop q e => Sys2Proof.Machine.execEntryNop q e s
  | .launch q e => Sys2Proof.Machine.execLaunch q e s
  | .workItemComplete q e => Sys2Proof.Machine.execWorkItemComplete q e s
  | .mcopy q e => Sys2Proof.Machine.execMcopy q e s
  | .ctxSet q e => Sys2Proof.Machine.execCtxSet q e s
  | .slotAlloc q e => Sys2Proof.Machine.execSlotAlloc q e s
  | .modelFlip q e => Sys2Proof.Machine.execModelFlip q e s
  | .modelRetire q e => Sys2Proof.Machine.execModelRetire q e s
  | .slotAbandon q e => Sys2Proof.Machine.execSlotAbandon q e s
  | .slotEmptied sl => Sys2Proof.Machine.execSlotEmptied sl s
  | .adapterSet q e => Sys2Proof.Machine.execAdapterSet q e s
  | .adapterFlip q e => Sys2Proof.Machine.execAdapterFlip q e s
  | .adapterClear q e => Sys2Proof.Machine.execAdapterClear q e s
  | .adapterVersionEmptied a ver => Sys2Proof.Machine.execAdapterVersionEmptied a ver s
  | .create k => Sys2Proof.Machine.execCreate k s
  | .teardown k => Sys2Proof.Machine.execTeardown k s
  | .kill k => Sys2Proof.Machine.execKill k s
  | .drainComplete k => Sys2Proof.Machine.execDrainComplete k s
  | .drainTimeout k => Sys2Proof.Machine.execDrainTimeout k s
  | .generationAck k => Sys2Proof.Machine.execGenerationAck k s
  | .sweepMarker l vl p => Sys2Proof.Machine.execSweepMarker l vl p s
  | .sweepComplete k => Sys2Proof.Machine.execSweepComplete k s
  | .sweepTimeout k l => Sys2Proof.Machine.execSweepTimeout k l s
  | .xltInval k scope va => Sys2Proof.Machine.execXltInval k scope va s
  | .xltInvalDone => Sys2Proof.Machine.execXltInvalDone s
  | .translationWalk u k va acc => Sys2Proof.Machine.execTranslationWalk u k va acc s
  | .faultRecord => Sys2Proof.Machine.execFaultRecord s
  | .fltHead head => Sys2Proof.Machine.execFltHead head s
  | .fltRespRetry seq => Sys2Proof.Machine.execFltRespRetry seq s
  | .fltRespAbort seq => Sys2Proof.Machine.execFltRespAbort seq s
  | .faultServiceTimeout seq => Sys2Proof.Machine.execFaultServiceTimeout seq s
  | .wheelEntryFiring die => Sys2Proof.Machine.execWheelEntryFiring die s
  | .coarseWatchdogFiring die => Sys2Proof.Machine.execCoarseWatchdogFiring die s
  | .deviceMemoryRead r => Sys2Proof.Machine.execDeviceMemoryRead r s
  | .deviceMemoryWrite w => Sys2Proof.Machine.execDeviceMemoryWrite w s
  | .crcRetry dpa isWrite last => Sys2Proof.Machine.execCrcRetry dpa isWrite last s
  | .cacheEviction dpa => Sys2Proof.Machine.execCacheEviction dpa s
  | .cacheWalk m => Sys2Proof.Machine.execCacheWalk m s
  | .scrubBlock m => Sys2Proof.Machine.execScrubBlock m s
  | .scrubWriteback m => Sys2Proof.Machine.execScrubWriteback m s
  | .periodicRetrain m pair => Sys2Proof.Machine.execPeriodicRetrain m pair s
  | .memoryTraining m pair ok => Sys2Proof.Machine.execMemoryTraining m pair ok s
  | .memoryFill u => Sys2Proof.Machine.execMemoryFill u s
  | .fillDone m => Sys2Proof.Machine.execFillDone m s
  | .kilnYield m => Sys2Proof.Machine.execKilnYield m s
  | .stagingSliceGrant m => Sys2Proof.Machine.execStagingSliceGrant m s
  | .kilnLoad q e => Sys2Proof.Machine.execKilnLoad q e s
  | .kilnRead q e => Sys2Proof.Machine.execKilnRead q e s
  | .kilnWrite q e => Sys2Proof.Machine.execKilnWrite q e s
  | .kilnBlock m src => Sys2Proof.Machine.execKilnBlock m src s
  | .kilnJobComplete m => Sys2Proof.Machine.execKilnJobComplete m s
  | .dataFlitReceive l f => Sys2Proof.Machine.execDataFlitReceive l f s
  | .retryReq l f => Sys2Proof.Machine.execRetryReq l f s
  | .retryReqRepeat l => Sys2Proof.Machine.execRetryReqRepeat l s
  | .idleFlit l f => Sys2Proof.Machine.execIdleFlit l f s
  | .timeFlit l f => Sys2Proof.Machine.execTimeFlit l f s
  | .timeFlitSend l => Sys2Proof.Machine.execTimeFlitSend l s
  | .trainFlit l f => Sys2Proof.Machine.execTrainFlit l f s
  | .laserReady pe => Sys2Proof.Machine.execLaserReady pe s
  | .laserFailure pe => Sys2Proof.Machine.execLaserFailure pe s
  | .lossOfSignal l wave => Sys2Proof.Machine.execLossOfSignal l wave s
  | .retrainTimeout l => Sys2Proof.Machine.execRetrainTimeout l s
  | .lnkEnable l => Sys2Proof.Machine.execLnkEnable l s
  | .lnkDisable l => Sys2Proof.Machine.execLnkDisable l s
  | .lnkRestart l => Sys2Proof.Machine.execLnkRestart l s
  | .roleWrite l role => Sys2Proof.Machine.execRoleWrite l role s
  | .rteModidWrite id => Sys2Proof.Machine.execRteModidWrite id s
  | .flipGo => Sys2Proof.Machine.execFlipGo s
  | .routingFlip => Sys2Proof.Machine.execRoutingFlip s
  | .packetRouting => Sys2Proof.Machine.execPacketRouting s
  | .holdoverEntry => Sys2Proof.Machine.execHoldoverEntry s
  | .holdoverExpiry => Sys2Proof.Machine.execHoldoverExpiry s
  | .ftSet v => Sys2Proof.Machine.execFtSet v s
  | .syncInEdge => Sys2Proof.Machine.execSyncInEdge s
  | .allreduce q e => Sys2Proof.Machine.execAllreduce q e s
  | .reduceScatter q e => Sys2Proof.Machine.execReduceScatter q e s
  | .allgather q e => Sys2Proof.Machine.execAllgather q e s
  | .broadcast q e => Sys2Proof.Machine.execBroadcast q e s
  | .barrier q e => Sys2Proof.Machine.execBarrier q e s
  | .shardPermute q e => Sys2Proof.Machine.execShardPermute q e s
  | .put q e => Sys2Proof.Machine.execPut q e s
  | .waitToken q e => Sys2Proof.Machine.execWaitToken q e s
  | .tevent q e => Sys2Proof.Machine.execTevent q e s
  | .arrive q e => Sys2Proof.Machine.execArrive q e s
  | .gate q e => Sys2Proof.Machine.execGate q e s
  | .gateContrib q e => Sys2Proof.Machine.execGateContrib q e s
  | .seal q e => Sys2Proof.Machine.execSeal q e s
  | .sequencedStart gr => Sys2Proof.Machine.execSequencedStart gr s
  | .ready p => Sys2Proof.Machine.execReady p s
  | .collData p => Sys2Proof.Machine.execCollData p s
  | .armed p => Sys2Proof.Machine.execArmed p s
  | .allarmed p => Sys2Proof.Machine.execAllarmed p s
  | .veto p => Sys2Proof.Machine.execVeto p s
  | .claim p => Sys2Proof.Machine.execClaim p s
  | .grant p => Sys2Proof.Machine.execGrant p s
  | .dup p => Sys2Proof.Machine.execDup p s
  | .done p => Sys2Proof.Machine.execDone p s
  | .busy p => Sys2Proof.Machine.execBusy p s
  | .abort p => Sys2Proof.Machine.execAbort p s
  | .teventAtT gr => Sys2Proof.Machine.execTeventAtT gr s
  | .teventRelease gr => Sys2Proof.Machine.execTeventRelease gr s
  | .claimExpiry gr claim => Sys2Proof.Machine.execClaimExpiry gr claim s
  | .contribHoldTimeout q e => Sys2Proof.Machine.execContribHoldTimeout q e s
  | .localGateCombine gr => Sys2Proof.Machine.execLocalGateCombine gr s
  | .gateVerdict gr => Sys2Proof.Machine.execGateVerdict gr s
  | .gateDeadline gr => Sys2Proof.Machine.execGateDeadline gr s
  | .sealEvaluation q e => Sys2Proof.Machine.execSealEvaluation q e s
  | .colGcmdReset gr seq => Sys2Proof.Machine.execColGcmdReset gr seq s
  | .beaconSend => Sys2Proof.Machine.execBeaconSend s
  | .beacon p => Sys2Proof.Machine.execBeacon p s
  | .twinSilence => Sys2Proof.Machine.execTwinSilence s
  | .attach => Sys2Proof.Machine.execAttach s
  | .attachMessage p => Sys2Proof.Machine.execAttachMessage p s
  | .attachTimeout => Sys2Proof.Machine.execAttachTimeout s
  | .detach => Sys2Proof.Machine.execDetach s
  | .detachMessage p => Sys2Proof.Machine.execDetachMessage p s
  | .passPageSend => Sys2Proof.Machine.execPassPageSend s
  | .page p => Sys2Proof.Machine.execPage p s
  | .commit p => Sys2Proof.Machine.execCommit p s
  | .commitAck p => Sys2Proof.Machine.execCommitAck p s
  | .promote id => Sys2Proof.Machine.execPromote id s
  | .receive id => Sys2Proof.Machine.execReceive id s
  | .xfer p => Sys2Proof.Machine.execXfer p s
  | .xferEnd p => Sys2Proof.Machine.execXferEnd p s
  | .promoStall => Sys2Proof.Machine.execPromoStall s
  | .lost => Sys2Proof.Machine.execLost s
  | .pull bank => Sys2Proof.Machine.execPull bank s
  | .pullReq p => Sys2Proof.Machine.execPullReq p s
  | .clearStore => Sys2Proof.Machine.execClearStore s
  | .kindlingTest c discard => Sys2Proof.Machine.execKindlingTest c discard s
  | .signatureCompare seed => Sys2Proof.Machine.execSignatureCompare seed s
  | .snapshot gr => Sys2Proof.Machine.execSnapshot gr s
  | .snapshotDone status => Sys2Proof.Machine.execSnapshotDone status s
  | .heartbeatSample cd => Sys2Proof.Machine.execHeartbeatSample cd s
  | .healthResend => Sys2Proof.Machine.execHealthResend s
  | .healthAck sess seq => Sys2Proof.Machine.execHealthAck sess seq s
  | .rasVerdict job fepoch dead => Sys2Proof.Machine.execRasVerdict job fepoch dead s
  | .coreReset c dump => Sys2Proof.Machine.execCoreReset c dump s
  | .cdReset cd dump => Sys2Proof.Machine.execCdReset cd dump s
  | .mdReset m dump => Sys2Proof.Machine.execMdReset m dump s
  | .linkReset l dump => Sys2Proof.Machine.execLinkReset l dump s
  | .iodFunctionReset u dump => Sys2Proof.Machine.execIodFunctionReset u dump s
  | .resetDone => Sys2Proof.Machine.execResetDone s
  | .dumpStart trigger => Sys2Proof.Machine.execDumpStart trigger s
  | .dumpUnitRead => Sys2Proof.Machine.execDumpUnitRead s
  | .dumpUnitTimeout => Sys2Proof.Machine.execDumpUnitTimeout s
  | .dumpEnd => Sys2Proof.Machine.execDumpEnd s
  | .jtagTransaction t => Sys2Proof.Machine.execJtagTransaction t s
  | .injArm => Sys2Proof.Machine.execInjArm s
  | .injCancel => Sys2Proof.Machine.execInjCancel s
  | .injectionFiring => Sys2Proof.Machine.execInjectionFiring s
  | .logWrite => Sys2Proof.Machine.execLogWrite s
  | .tracePoint src code data => Sys2Proof.Machine.execTracePoint src code data s
  | .hostLinkTraining t => Sys2Proof.Machine.execHostLinkTraining t s
  | .cxlMemAccess a => Sys2Proof.Machine.execCxlMemAccess a s
  | .biasSnoop dpa isWrite => Sys2Proof.Machine.execBiasSnoop dpa isWrite s
  | .biasToDevice page npm1 => Sys2Proof.Machine.execBiasToDevice page npm1 s
  | .biasToHost page npm1 => Sys2Proof.Machine.execBiasToHost page npm1 s
  | .hostWinWrite v => Sys2Proof.Machine.execHostWinWrite v s
  | .ideKm sess stream viaDoe => Sys2Proof.Machine.execIdeKm sess stream viaDoe s
  | .ideIntegrityFailure stream => Sys2Proof.Machine.execIdeIntegrityFailure stream s
  | .functionLevelReset hot => Sys2Proof.Machine.execFunctionLevelReset hot s
  | .perstN high => Sys2Proof.Machine.execPerstN high s
  | .msixUnmask vec => Sys2Proof.Machine.execMsixUnmask vec s
  | .ethInboundDrop port => Sys2Proof.Machine.execEthInboundDrop port s
  | .stoEnable tgt peer => Sys2Proof.Machine.execStoEnable tgt peer s
  | .stoDisable tgt => Sys2Proof.Machine.execStoDisable tgt s
  | .keepAlive tgt => Sys2Proof.Machine.execKeepAlive tgt s
  | .nvmeCommandTimeout id => Sys2Proof.Machine.execNvmeCommandTimeout id s
  | .nvmeCompletion id status data => Sys2Proof.Machine.execNvmeCompletion id status data s
  | .getVersion o => Sys2Proof.Machine.execGetVersion o s
  | .getNonce o => Sys2Proof.Machine.execGetNonce o s
  | .getCert o => Sys2Proof.Machine.execGetCert o s
  | .getMeasurements o nonce => Sys2Proof.Machine.execGetMeasurements o nonce s
  | .sessionOpen o nonce encap => Sys2Proof.Machine.execSessionOpen o nonce encap s
  | .sessionClose o => Sys2Proof.Machine.execSessionClose o s
  | .sessionTimeout sess => Sys2Proof.Machine.execSessionTimeout sess s
  | .grantMessage o m => Sys2Proof.Machine.execGrantMessage o m s
  | .grantExpiry sess scope => Sys2Proof.Machine.execGrantExpiry sess scope s
  | .ownerSet o hash key sig => Sys2Proof.Machine.execOwnerSet o hash key sig s
  | .svnCommit o => Sys2Proof.Machine.execSvnCommit o s
  | .calSet o overlay => Sys2Proof.Machine.execCalSet o overlay s
  | .regRead o off => Sys2Proof.Machine.execRegRead o off s
  | .regWrite o off v => Sys2Proof.Machine.execRegWrite o off v s
  | .dumpReq o => Sys2Proof.Machine.execDumpReq o s
  | .pldmMonitoringRequest o sensor => Sys2Proof.Machine.execPldmMonitoringRequest o sensor s
  | .requestFirmwareData o off data => Sys2Proof.Machine.execRequestFirmwareData o off data s
  | .verifyComplete o => Sys2Proof.Machine.execVerifyComplete o s
  | .activateFirmware o => Sys2Proof.Machine.execActivateFirmware o s
  | .sensorSample raw => Sys2Proof.Machine.execSensorSample raw s
  | .pmbusPoll rails => Sys2Proof.Machine.execPmbusPoll rails s
  | .watchdogRestart p => Sys2Proof.Machine.execWatchdogRestart p s
  | .aedFwrst v => Sys2Proof.Machine.execAedFwrst v s
  | .restartEnd p => Sys2Proof.Machine.execRestartEnd p s
  | .romBoot => Sys2Proof.Machine.execRomBoot s
  | .imageHealthy => Sys2Proof.Machine.execImageHealthy s
  | .storeCommit => Sys2Proof.Machine.execStoreCommit s
  | .signatureRelease => Sys2Proof.Machine.execSignatureRelease s
  | .powerCeilingTick p10 => Sys2Proof.Machine.execPowerCeilingTick p10 s
  | .junctionDutyTick => Sys2Proof.Machine.execJunctionDutyTick s
  | .junctionTrip => Sys2Proof.Machine.execJunctionTrip s
  | .railFault => Sys2Proof.Machine.execRailFault s
  | .pwrEnHigh => Sys2Proof.Machine.execPwrEnHigh s
  | .pwrEnLow => Sys2Proof.Machine.execPwrEnLow s
  | .resetN high straps mfgTestLow => Sys2Proof.Machine.execResetN high straps mfgTestLow s
  | .refclkStop => Sys2Proof.Machine.execRefclkStop s
  | .blkStsWrite off v => Sys2Proof.Machine.execBlkStsWrite off v s
  | .postedWritePerformed pg => Sys2Proof.Machine.execPostedWritePerformed pg s
  | .blkIndDataWrite pg viaMgmt v => Sys2Proof.Machine.execBlkIndDataWrite pg viaMgmt v s
  | .blkIndDataRead pg viaMgmt => Sys2Proof.Machine.execBlkIndDataRead pg viaMgmt s
  | .indirectFifoEntry pg => Sys2Proof.Machine.execIndirectFifoEntry pg s
  | .accmodeWrite pg indirect => Sys2Proof.Machine.execAccmodeWrite pg indirect s
  | .voteWalk pg => Sys2Proof.Machine.execVoteWalk pg s
  | .counterWord0Read c n => Sys2Proof.Machine.execCounterWord0Read c n s
  | .ftNowLoRead => Sys2Proof.Machine.execFtNowLoRead s
  | .numCtlClr c => Sys2Proof.Machine.execNumCtlClr c s
  | .registerWrite off size v => Sys2Proof.Machine.execRegisterWrite off size v s
  | .resultReady c u => Sys2Proof.Machine.execResultReady c u s
  | .refclkReturn => Sys2Proof.Machine.execRefclkReturn s
  | .tripHoldTimeout => Sys2Proof.Machine.execTripHoldTimeout s
  | .ethPortLinkChange port up => Sys2Proof.Machine.execEthPortLinkChange port up s
  | .hdmDecoderCommit base => Sys2Proof.Machine.execHdmDecoderCommit base s
  | .boundaryScanInstruction ir data => Sys2Proof.Machine.execBoundaryScanInstruction ir data s
  | .congestionNotificationPacket port => Sys2Proof.Machine.execCongestionNotificationPacket port s
  | .priorityFlowControlPause port prio pause => Sys2Proof.Machine.execPriorityFlowControlPause port prio pause s
  | .endpointIdAssignment binding eid => Sys2Proof.Machine.execEndpointIdAssignment binding eid s

end Sys2Proof.Machine
end

