-- ==== Sys2Proof/Machine/Tick.lean ====
section
/-! DEFINITION. Machine/Tick.lean: one tick of fabric time, which step takes when no command waits
(DESIGN CHOICE, notes/assumptions/1.md). -/

namespace Sys2Proof.Machine

/-- Engines of each class in use on a core (Table 10.10): arrays with an operation or a drain, vector halves occupied, the
DMA engine, the core itself. -/
def enginesUsed (k : CoreSt) : List Nat :=
  let busy (u : Nat) : Bool := !(unitOps k u).isEmpty
  [((List.range 3).filter (fun a => busy a || busy (8 + a))).length, ((List.range 2).filter (fun h => busy (3 + h))).length,
    if (xferList k).isEmpty then 0 else 1, 1]

/-- One ns of use by a bound core, charged to its context and to its work item's entry (R283, R291). -/
def chargeCore (s : State) (c : Nat) : State :=
  let k := coreOf s c
  match k.bound with
  | none => s
  | some b =>
    let x := schedOf s (cdOf c)
    let used := ((enginesUsed k).zip (List.range 4)).foldl (fun m p =>
      sset 0 m (4 * b.ctx + p.2) (sget 0 m (4 * b.ctx + p.2) + p.1)) x.used
    let s := setSched s (cdOf c) { x with used := used }
    match k.item with
    | some (q, i) =>
      match entryOf s q i with
      | some e => setEntry s q i (some { e with engNs := e.engNs + 1 })
      | none => s
    | none => s

/-- The dwell of R303 begins, goes on or ends on a CD. -/
def dwellTick (s : State) (cd : Nat) : State :=
  let x := schedOf s cd
  if dwellHolds s cd then
    match x.dwellSince with
    | none => setSched s cd { x with dwellSince := some (ftNow s) }
    | some _ => s
  else setSched s cd { x with dwellSince := none }

/-- Fabric time and ACLK advance: fabric time by a tick and the slew in force (R334, R337), in HOLDOVER at the last
disciplined rate for as long as that lasts (R338), ACLK by 12/5 cycles while the
cores are released (R42). -/
def timeTick (s : State) : State :=
  let f := s.ft
  let rel := getF s F.MOD_STS_CORES_REL 0 == 1
  let hold := getF s F.FT_STS_LSTATE 0 == 2
  let slew : Int := if 0 < f.slewTicks || hold then f.rate else 0
  { s with ft := { f with
      now := ((f.now : Int) + ftUnit + slew).toNat
      slewTicks := if hold then f.slewTicks else f.slewTicks - 1
      aclk5 := if rel then f.aclk5 + 12 else f.aclk5 } }

/-- One 1 ns tick. -/
def tick (s : State) : State :=
  let s := timeTick s
  if getF s F.MOD_STS_CORES_REL 0 = 1 then
    let s := (List.range 128).foldl chargeCore s
    (List.range 8).foldl dwellTick s
  else s

end Sys2Proof.Machine
end

