-- ==== Sys2Proof/Safety.lean ====
section
/-! DEFINITION. Safety.lean: what a sound state is and when a syllable issues, in the terms the statements use. -/

namespace Sys2Proof.Machine

/-- Device memory lists its cells in canonical form. -/
def State.memWf (s : State) : Bool := Memory.wf s.dram

/-- A step ended in a next state. -/
def Completes (o : Host.Outcome State Fault Refusal) : Prop := ∃ t, o = .next t

/-- Core `c` takes syllable `y` as a bundle of its own: bound and running (Table 2.16), no bundle held (R54), no HALT waiting
(R80), duty not 0 after a trip (R490); the syllable passes the checks of R47, and neither an interlock (R56) nor a full queue
(R57) holds it. -/
abbrev Ready (s : State) (c : Nat) (y : Syl) : Prop :=
  (coreOf s c).bound.isSome ∧ coreState s c = 1 ∧ (coreOf s c).fetched = none ∧ (coreOf s c).halting = false ∧
    frozen s = false ∧ sylLegal y = true ∧
    mustWait s c (coreOf s c) [y] ([y].filter (sylActs (coreOf s c))) = false

/-- It also acts (R49): its predicate is true, no gate (R184) or Y-slot condition (R73) holds it, and it gives no stop cause
(Table 2.11). -/
abbrev Acts (s : State) (c : Nat) (y : Syl) : Prop :=
  Ready s c y ∧ sylActs (coreOf s c) y = true ∧ gateWaits s c [y] = false ∧ yWaits s (coreOf s c) [y] = false ∧
    sylCauses s c (coreOf s c) (coreOf s c).hdr [] y = []

/-- Core `c` of `t` is `k` with one more bundle counted, every other core is as in `s`, every register word reads as in `s`,
and nothing but cores and the copies of register words differs. -/
def OnlyCore (s t : State) (c : Nat) (k : CoreSt) : Prop :=
  coreOf t c = { k with issued := (coreOf s c).issued + 1 } ∧ (∀ d, d ≠ c → coreOf t d = coreOf s d) ∧
    (∀ a, rdWord t a = rdWord s a) ∧
    t = { s with cores := t.cores, regs := t.regs, regB := t.regB, regC := t.regC }

/-! ### Device memory and registers -/

/-- BAR0 addresses where an access to device memory counts or logs: the MD pages and TWN_CNT1 (R205, R375). -/
def memWord (a : Nat) : Bool :=
  decide (pageBase .md 0 ≤ a ∧ a < pageBase .md 8) || a == fldAddr F.TWN_CNT1_HOLD_CNT 0

/-- From `s` to `t` nothing was sent but CXL.cache requests (R402). -/
def SnoopsOnly (s t : State) : Prop :=
  ∃ l, t.outbox = s.outbox ++ l ∧ ∀ m ∈ l, ∃ a kind, m = OutMsg.snoop a kind

/-- From `s` to `t` device memory was accessed and nothing else: cells, check differences, flags, caches, what the MDs hold,
twin bits, translation caches and the words of `memWord` may differ, CXL.cache requests may have gone out, all else is as it
was. -/
def MemSide (s t : State) : Prop :=
  (∀ a, memWord a = false → rdWord t a = rdWord s a) ∧ SnoopsOnly s t ∧
    t = { s with regs := t.regs, regB := t.regB, regC := t.regC, dram := t.dram, dramChk := t.dramChk,
                 dramPoison := t.dramPoison, cache := t.cache, mds := t.mds, twin := t.twin, xlt := t.xlt,
                 outbox := t.outbox }

/-- Byte `a` of device memory as a read delivers it: corrected, from the cache or from memory. -/
def lineByte (s : State) (a : Nat) : Byte := (peekLine s (a / 64)).getD (a % 64) 0

/-- Every cached line holds 64 bytes, and a clean one reads as memory does, marked or uncorrectable where memory is: no flip has
struck either alone. -/
def CacheOk (s : State) : Prop :=
  ∀ l c, cacheGet s l = some c → c.data.length = 64 ∧
    (c.dirty = false → (scanLine c.data (cacheDiff c) allGranules).data = storedLine s l ∧
      ((c.poison = true ∨ ∃ g, g < 4 ∧ decodeDiff (cacheDiff c g) = .bad) ↔
        (voteFlag (sget 0 s.dramPoison l) = true ∨ ∃ g, g < 4 ∧ decodeDiff (dramDiff s l g) = .bad)))

/-- Device memory of `t`: the bytes `bs` from DPA `a`, and as in `s` elsewhere. -/
def MemStored (s t : State) (a : Nat) (bs : List Byte) : Prop :=
  ∀ b, lineByte t b = if a ≤ b ∧ b < a + bs.length then bs.getD (b - a) 0 else lineByte s b

/-- Device memory reads as before. -/
def MemKept (s t : State) : Prop := ∀ b, lineByte t b = lineByte s b

/-- Fields written one after another: field, unit, value. -/
def putFields (s : State) (l : List (Fld × Nat × Nat)) : State := l.foldl (fun u e => setF u e.1 e.2.1 e.2.2) s

/-- A counter one higher, or at its maximum. -/
def bump (s : State) (f : Fld) (n : Nat) : Fld × Nat × Nat := (f, n, min (getF s f n + 1) (2 ^ (f.hi + 1 - f.lo) - 1))

/-- Every register word of `t` reads as in `s` but for the fields `l`, which have been written, and the words of `memWord`. -/
def WordsAre (s t : State) (l : List (Fld × Nat × Nat)) : Prop :=
  ∀ a, memWord a = false → rdWord t a = rdWord (putFields s l) a

/-- The command that carries a syllable of core `c`. -/
def sylInstr (c : CoreId) : Syl → Instr
  | .s .nop y => .nop c y
  | .s .add y => .add c y
  | .s .sub y => .sub c y
  | .s .mul y => .mul c y
  | .s .mulh y => .mulh c y
  | .s .and y => .and c y
  | .s .or y => .or c y
  | .s .xor y => .xor c y
  | .s .shl y => .shl c y
  | .s .shr y => .shr c y
  | .s .sar y => .sar c y
  | .s .min y => .min c y
  | .s .max y => .max c y
  | .s .mov y => .mov c y
  | .s .movhi y => .movhi c y
  | .s .cmpeq y => .cmpeq c y
  | .s .cmpne y => .cmpne c y
  | .s .cmplt y => .cmplt c y
  | .s .cmpltu y => .cmpltu c y
  | .s .cmple y => .cmple c y
  | .s .cmpleu y => .cmpleu c y
  | .s .pand y => .pand c y
  | .s .por y => .por c y
  | .s .pxor y => .pxor c y
  | .s .pnot y => .pnot c y
  | .s .pmov y => .pmov c y
  | .s .pget y => .pget c y
  | .s .popc y => .popc c y
  | .s .clz y => .clz c y
  | .s .rdsr y => .rdsr c y
  | .s .wrsr y => .wrsr c y
  | .c .br y => .br c y
  | .c .brr y => .brr c y
  | .c .call y => .call c y
  | .c .ret y => .ret c y
  | .c .loop y => .loop c y
  | .c .halt y => .halt c y
  | .c .stop y => .stop c y
  | .m .ld y => .ld c y
  | .m .lds y => .lds c y
  | .m .st y => .st c y
  | .m .descLd y => .descLd c y
  | .m .descSv y => .descSv c y
  | .m .descAdv y => .descAdv c y
  | .m .descSts y => .descSts c y
  | .d .cpy y => .dmaCpy c y
  | .d .xp y => .dmaXp c y
  | .d .gath y => .dmaGath c y
  | .d .scat y => .dmaScat c y
  | .d .scadd y => .dmaScadd c y
  | .d .push y => .push c y
  | .d .pop y => .pop c y
  | .a r .aload y => .aload c r y
  | .a r .amm y => .amm c r y
  | .a r .adist y => .adist c r y
  | .a r .adrain y => .adrain c r y
  | .a r .afill y => .afill c r y
  | .a r .aclr y => .aclr c r y
  | .v h .vadd y => .vadd c h y
  | .v h .vsub y => .vsub c h y
  | .v h .vmul y => .vmul c h y
  | .v h .vfma y => .vfma c h y
  | .v h .vmax y => .vmax c h y
  | .v h .vmin y => .vmin c h y
  | .v h .vabs y => .vabs c h y
  | .v h .vneg y => .vneg c h y
  | .v h .vmov y => .vmov c h y
  | .v h .vcmplt y => .vcmplt c h y
  | .v h .vcmpeq y => .vcmpeq c h y
  | .v h .vexp y => .vexp c h y
  | .v h .vlog y => .vlog c h y
  | .v h .vrcp y => .vrcp c h y
  | .v h .vrsq y => .vrsq c h y
  | .v h .vsqrt y => .vsqrt c h y
  | .v h .vtanh y => .vtanh c h y
  | .v h .vsig y => .vsig c h y
  | .v h .vgelu y => .vgelu c h y
  | .v h .vsilu y => .vsilu c h y
  | .v h .vslope y => .vslope c h y
  | .v h .vld y => .vld c h y
  | .v h .vst y => .vst c h y
  | .x .xsum y => .xsum c y
  | .x .xsumsq y => .xsumsq c y
  | .x .xmax y => .xmax c y
  | .x .xmin y => .xmin c y
  | .x .xamax y => .xamax c y
  | .x .xargmax y => .xargmax c y
  | .x .xnfin y => .xnfin c y
  | .y .wdma y => .wdma c y
  | .y .weng y => .weng c y
  | .y .sig y => .sig c y
  | .y .tokw y => .tokw c y
  | .y .twait y => .twait c y
  | .y .fence y => .fence c y
  | .y .qpost y => .qpost c y
  | .k .kcvt y => .kcvt c y
  | .k .kunp y => .kunp c y
  | .q .qamax y => .qamax c y
  | .q .qseed y => .qseed c y
  | .q .qrot y => .qrot c y
  | .q .qtsc y => .qtsc c y

end Sys2Proof.Machine
end

