-- ==== Sys2Proof/Certificates/Slice0/Obligations.lean ====
section
/-! DEFINITION. Certificates/Slice0/Obligations.lean: the statements about this model. Acts, Ready and OnlyCore are in
Safety.lean: when a syllable of a core issues and acts, and that a step changed one core alone. -/

namespace Sys2Proof.Machine

/-! ### Terms of the statements about cores -/

/-- The second operand b of Table 2.8: IMM sign-extended where IM is set, else g[RB]. -/
def operandB (k : CoreSt) (y : SSyl) : Word64 := if y.im then y.imm.signExtend 64 else getG k y.rb.toNat

/-- ADD to MOV: constructor, operation, the value from a = g[RA] and b (Table 2.8). -/
def aluTable : List ((CoreId → SSyl → Instr) × SOp × (Word64 → Word64 → Word64)) :=
  [(Instr.add, .add, fun a b => a + b), (Instr.sub, .sub, fun a b => a - b), (Instr.mul, .mul, fun a b => a * b),
   (Instr.mulh, .mulh, fun a b => BitVec.ofInt 64 (a.toInt * b.toInt / 2 ^ 64)), (Instr.and, .and, fun a b => a &&& b),
   (Instr.or, .or, fun a b => a ||| b), (Instr.xor, .xor, fun a b => a ^^^ b),
   (Instr.shl, .shl, fun a b => a <<< (b.toNat % 64)), (Instr.shr, .shr, fun a b => a >>> (b.toNat % 64)),
   (Instr.sar, .sar, fun a b => a.sshiftRight (b.toNat % 64)),
   (Instr.min, .min, fun a b => if a.toInt ≤ b.toInt then a else b),
   (Instr.max, .max, fun a b => if a.toInt ≤ b.toInt then b else a), (Instr.mov, .mov, fun _ b => b)]

/-- CMPEQ to CMPLEU: constructor, operation, the relation of g[RA] and b. -/
def compareTable : List ((CoreId → SSyl → Instr) × SOp × (Word64 → Word64 → Bool)) :=
  [(Instr.cmpeq, .cmpeq, fun a b => a == b), (Instr.cmpne, .cmpne, fun a b => a != b),
   (Instr.cmplt, .cmplt, fun a b => decide (a.toInt < b.toInt)), (Instr.cmpltu, .cmpltu, fun a b => decide (a.toNat < b.toNat)),
   (Instr.cmple, .cmple, fun a b => decide (a.toInt ≤ b.toInt)), (Instr.cmpleu, .cmpleu, fun a b => decide (a.toNat ≤ b.toNat))]

/-- PAND, POR, PXOR: constructor, operation, the value from p[RA] and p[RB]. -/
def predicateTable : List ((CoreId → SSyl → Instr) × SOp × (Word64 → Word64 → Word64)) :=
  [(Instr.pand, .pand, fun a b => a &&& b), (Instr.por, .por, fun a b => a ||| b), (Instr.pxor, .pxor, fun a b => a ^^^ b)]

/-- `n` counts the leading zero bits of `a`, 64 for zero. -/
def CountsLeadingZeros (a : Word64) (n : Nat) : Prop :=
  n ≤ 64 ∧ (∀ i, 64 - n ≤ i → a.getLsbD i = false) ∧ (n < 64 → a.getLsbD (63 - n) = true)

/-- A read of special register `n` that needs no fresh bits (Table 2.2). -/
def specialValue (s : State) (c : Nat) (b : Binding3) (k : CoreSt) : Nat → Word64
  | 0 => BitVec.ofNat 64 c
  | 1 => BitVec.ofNat 64 (b.ctx % 4096 + b.gen % 2 ^ 20 * 4096)
  | 2 => BitVec.ofNat 64 (ftNow s)
  | 3 => BitVec.ofNat 64 (aclk s)
  | 4 => BitVec.ofNat 64 (65536 * k.partLen)
  | 5 => k.lc0.setWidth 64
  | 6 => k.lc1.setWidth 64
  | _ => BitVec.ofNat 64 b.vcore

/-- The core after a taken BR or BRR to `a`: the innermost open level closes where `a` lies outside its body (R63). -/
def branchTo (k : CoreSt) (a : Word64) : CoreSt :=
  { k with
    pc := a
    loops := match k.loops.getLast? with
      | some l => if l.start.toNat ≤ a.toNat ∧ a.toNat ≤ l.stop.toNat then k.loops else k.loops.dropLast
      | none => k.loops }

/-- This header + 8 x OFS. -/
def branchTarget (k : CoreSt) (y : CSyl) : Word64 := k.hdr + (y.ofs.signExtend 64 <<< 3)

/-- Partition address of a scalar load or store: g[RA] + OFS. -/
def loadAddr (k : CoreSt) (y : MSyl) : Nat := (getG k y.ra.toNat + y.ofs.signExtend 64).toNat

/-- One byte at partition address `a` as a read delivers it. -/
def spmByteAt (k : CoreSt) (a : Nat) : List Byte := (spmRead k a 1).1

/-- Byte `a` of the partition of `k'`: byte a - b of the value `v` for the `n` bytes from `b`, and as in `k` outside them. -/
def StoredAt (k k' : CoreSt) (b n v : Nat) : Prop :=
  ∀ a, spmByteAt k' a = if b ≤ a ∧ a < b + n then [BitVec.ofNat 8 (v / 256 ^ (a - b))] else spmByteAt k a

/-- A stop with code `code` (Table 2.11): the core is stopped at the bundle's own address, and its context is told. -/
def StoppedWith (s t : State) (c code : Nat) : Prop :=
  getF t F.CORE_STOP_CODE c = code ∧ getF t F.CORE_STS_STATE c = 4 ∧ (coreOf t c).pc = (coreOf s c).hdr ∧
    (∀ b, (coreOf s c).bound = some b → c ∈ (ctxOf t b.ctx).stops) ∧ t.dram = s.dram ∧ t.pending = s.pending

/-! ### Terms of the statements about units -/

/-- The new operations `l` wait behind those of unit `u` of core `c`, and nothing else changed but the count of bundles issued:
`k` is the core otherwise. -/
def Queued (s t : State) (c u : Nat) (k : CoreSt) (l : List UnitOp) : Prop :=
  OnlyCore s t c (setUnitOps k u (unitOps (coreOf s c) u ++ l))

/-- Columns that a vector syllable's lane mask enables. -/
def laneOn (k : CoreSt) (y : VSyl) (j : Nat) : Bool := j < 64 && (getP k y.pred.toNat).getLsbD j != y.pneg

/-- Element (r, j) of a tile. -/
def tileAt (k : CoreSt) (n r j : Nat) : Word32 := tileGet (tileArr (getTile k n)) r j

/-- B[r][j] of a vector syllable: tile VB, g[GS] or row 0 of VB by BSRC (R149). -/
def vectorB (k : CoreSt) (y : VSyl) (r j : Nat) : Word32 :=
  if y.bsrc = 0 then tileAt k y.vb.toNat r j
  else if y.bsrc = 1 then (getG k y.gs.toNat).setWidth 32 else tileAt k y.vb.toNat 0 j

/-- Vector operations that write VD: constructor, operation, the element from A, B and C. -/
def vectorTable : List ((CoreId → Fin 2 → VSyl → Instr) × VOp × (Word32 → Word32 → Word32 → Word32)) :=
  [(Instr.vadd, .vadd, fun a b _ => fadd a b), (Instr.vsub, .vsub, fun a b _ => fsub a b),
   (Instr.vmul, .vmul, fun a b _ => fmul a b), (Instr.vfma, .vfma, fun a b c => ffma a b c),
   (Instr.vmax, .vmax, fun a b _ => fmax a b), (Instr.vmin, .vmin, fun a b _ => fmin a b),
   (Instr.vabs, .vabs, fun a _ _ => fabs a), (Instr.vneg, .vneg, fun a _ _ => fneg a), (Instr.vmov, .vmov, fun _ b _ => b),
   (Instr.vexp, .vexp, fun a _ _ => (transOp 0x10 a).1), (Instr.vlog, .vlog, fun a _ _ => (transOp 0x11 a).1),
   (Instr.vrcp, .vrcp, fun a _ _ => (transOp 0x12 a).1), (Instr.vrsq, .vrsq, fun a _ _ => (transOp 0x13 a).1),
   (Instr.vsqrt, .vsqrt, fun a _ _ => (transOp 0x14 a).1), (Instr.vtanh, .vtanh, fun a _ _ => (transOp 0x15 a).1),
   (Instr.vsig, .vsig, fun a _ _ => (transOp 0x16 a).1), (Instr.vgelu, .vgelu, fun a _ _ => (transOp 0x17 a).1),
   (Instr.vsilu, .vsilu, fun a _ _ => (transOp 0x18 a).1)]

/-- VCMPLT and VCMPEQ: constructor, operation, relation. -/
def vectorCompareTable : List ((CoreId → Fin 2 → VSyl → Instr) × VOp × (FV → FV → Bool)) :=
  [(Instr.vcmplt, .vcmplt, FV.lt), (Instr.vcmpeq, .vcmpeq, FV.eq)]

/-- The operations of X. -/
def reduceTable : List ((CoreId → XSyl → Instr) × XOp) :=
  [(Instr.xsum, .xsum), (Instr.xsumsq, .xsumsq), (Instr.xmax, .xmax), (Instr.xmin, .xmin), (Instr.xamax, .xamax),
   (Instr.xargmax, .xargmax), (Instr.xnfin, .xnfin)]

/-! ### Terms of the statements about DMA, slot Y and events of a core -/

/-- The transfers of slot D that move tensors: constructor, operation. -/
def transferTable : List ((CoreId → DSyl → Instr) × DOp) :=
  [(Instr.dmaCpy, .cpy), (Instr.dmaXp, .xp), (Instr.dmaGath, .gath), (Instr.dmaScat, .scat), (Instr.dmaScadd, .scadd)]

/-- The core with transfer `x` in place `i`, issued after `n` others. -/
def withXfer (k : CoreSt) (i : Nat) (x : Xfer) : CoreSt :=
  { k with xfers := sset none k.xfers i (some x), xferSeq := k.xferSeq + 1 }

/-- The condition of a slot-Y wait (Table 2.8). -/
def SlotCondition (s : State) (k : CoreSt) (y : YSyl) : YOp → Prop
  | .wdma => ∀ x ∈ xferList k, x.tag ≠ y.imm.toNat % 16
  | .weng => ∀ u, u < 8 → bitAt y.imm.toNat u = true → unitIdle k u = true
  | .twait => (getG k y.ra.toNat).toNat ≤ ftNow s
  | .fence => xferList k = []
  | .tokw => 0 < tokenOf k (y.imm.toNat % 32)
  | _ => True

/-- The five waits of slot Y: constructor, operation. -/
def waitTable : List ((CoreId → YSyl → Instr) × YOp) :=
  [(Instr.wdma, .wdma), (Instr.weng, .weng), (Instr.twait, .twait), (Instr.fence, .fence), (Instr.tokw, .tokw)]

/-- What a wait that is over does to its core: TOKW takes one from its counter. -/
def afterWait (k : CoreSt) (y : YSyl) : YOp → CoreSt
  | .tokw => setToken k (y.imm.toNat % 32) (tokenOf k (y.imm.toNat % 32) - 1)
  | _ => k

/-- Core `c` of `t` is `k`, every other core is as in `s`, the register words are those of `s` with the fields `l` written,
and nothing but cores and register words differs. -/
def CoreIs (s t : State) (c : Nat) (k : CoreSt) (l : List (Fld × Nat × Nat)) : Prop :=
  coreOf t c = k ∧ (∀ d, d ≠ c → coreOf t d = coreOf s d) ∧ (∀ a, rdWord t a = rdWord (putFields s l) a) ∧
    t = { s with cores := t.cores, regs := t.regs, regB := t.regB, regC := t.regC }

/-- What a transfer may touch beside its core: the memory side, staging units and slices. -/
def TransferSide (s t : State) : Prop :=
  MemSide { s with cores := t.cores, regs := t.regs, regB := t.regB, regC := t.regC, stgHeld := t.stgHeld, stgQ := t.stgQ,
                   dsm := t.dsm, faults := t.faults } t

/-! ### Terms of the statements about queues -/

/-- Register words of `t` are those of `s` with the fields `l` written, and nothing else differs. -/
def RegsOnly (s t : State) (l : List (Fld × Nat × Nat)) : Prop :=
  (∀ a, rdWord t a = rdWord (putFields s l) a) ∧ t = { s with regs := t.regs, regB := t.regB, regC := t.regC }

/-- Queue `q` of `t` is `x`, every other queue is as in `s`, the fields `l` are written, and beside them only the memory side
differs. -/
def QueueIs (s t : State) (q : Nat) (x : QueueSt) (l : List (Fld × Nat × Nat)) : Prop :=
  queueOf t q = x ∧ (∀ j, j ≠ q → queueOf t j = queueOf s j) ∧ WordsAre s t l ∧
    MemSide { s with queues := t.queues, regs := t.regs, regB := t.regB, regC := t.regC } t

/-- A queue command ends with result `r`. -/
def queueResult (r : Nat) : List (Fld × Nat × Nat) := [(F.QUE_CMD_STS_RESULT, 0, r), (F.QUE_CMD_STS_BUSY, 0, 0)]

/-- DPA of an entry's completion record: the completion ring's DPA for the management class, else its DVA as the IOD
translates it (R263, R275). -/
def recordAddr (s : State) (q i : Nat) : Option Nat :=
  let d := (queueOf s q).desc
  if qClass d = 3 then some (qCpl d + 32 * i)
  else match (translate s iodDie (qCtx d) (qCpl d + 32 * i) .write).1 with
    | .ok a => some a
    | .fault _ _ _ => none

/-- Its completion passes the check of R255. -/
def recordLive (s : State) (q : Nat) : Prop :=
  let d := (queueOf s q).desc
  qClass d = 3 ∨ staleDie s (cgOf s (qCtx d)) = false

/-- From `s` to `t` the entry (q, i), whose state was `e`, completes with a status and DETAIL: it leaves its queue, no timer of
it runs, its work item is gone, its slot and adapter version are given back (R305), its message is sent when asked for (R283),
its record stands in the completion ring, no other byte of device memory changes, and nothing else does but counters. -/
def EntryDone (s t : State) (q i : Nat) (e : EntrySt) (status detail : Nat) : Prop :=
  let x := queueOf s q
  let late := (armedAs s iodDie (.queueTimeout q i)).any (fun w => decide (w.deadline ≤ ftNow s))
  entryOf s q i = some e ∧
    queueOf t q = { x with entries := sset none x.entries i none, order := x.order.erase i } ∧
    (∀ j, j ≠ q → queueOf t j = queueOf s j) ∧ t.items = s.items.filter (fun w => !(w.q == q && w.i == i)) ∧
    t.launches = s.launches.erase (q, i) ∧
    armedAs t iodDie (.queueTimeout q i) = [] ∧ armedAs t iodDie (.notBefore q i) = [] ∧
    t.slots = (releaseBinding s e).slots ∧ t.adapters = (releaseBinding s e).adapters ∧
    (∃ l, (∀ m ∈ l, ∃ a kind, m = OutMsg.snoop a kind) ∧ t.outbox = s.outbox ++ l ++
      (if (entIrq e.raw || qIrqAll x.desc) && sget false s.msix.unmasked (qVector x.desc) then [.msix (qVector x.desc)]
       else [])) ∧
    (CacheOk s → ∀ a, recordAddr s q i = some a → recordLive s q → a % 32 = 0 → (qCpl x.desc + 32 * i) % 32 = 0 →
      a + 32 ≤ dpaLimit → MemStored s t a (cplBytes e i status detail late (ftNow s))) ∧
    MemSide { s with queues := t.queues, items := t.items, launches := t.launches, wheels := t.wheels, slots := t.slots, adapters := t.adapters,
                     outbox := t.outbox, msix := t.msix, regs := t.regs, regB := t.regB, regC := t.regC } t

/-- The entry (q, i), in state `e`, is admitted and may start, of class `cls` with opcode `op`. -/
def Admitted (s : State) (q i cls op : Nat) (e : EntrySt) : Prop :=
  entryOf s q i = some e ∧ e.stage = 3 ∧ qClass (queueOf s q).desc = cls ∧ entOp e.raw = op

/-- An entry as ENTRY_FETCH keeps it; one read poisoned gets a reserved opcode (the model's choice:
notes/assumptions/37.md). -/
def fetchedEntry (raw : List Byte) (poisoned : Bool) (phase : Bool) (poster : Option Nat) : EntrySt :=
  { raw := if poisoned then 0xFF :: raw.drop 1 else raw, phase := phase, stage := 0, slot := none, epoch := 0,
    adapter := none, poison := false, engNs := 0, poster := poster, prog := 0 }

/-- Module fields of queue `x` stand in its descriptor (Table 10.1). -/
def FieldsStored (s t : State) (q : Nat) (x : QueueSt) : Prop :=
  CacheOk s → queDescAddr s q + 38 ≤ dpaLimit → MemStored s t (queDescAddr s q + 32)
    (leBytes 2 x.head ++ leBytes 2 x.mtail ++ leBytes 1 x.state ++ leBytes 1 (if x.phase then 1 else 0))

/-! ### Terms of the statements about memory and kilns -/

/-- Counter `f` of unit `n` is one higher, or at its maximum. -/
def CountsOne (s t : State) (f : Fld) (n : Nat) : Prop := getF t f n = min (getF s f n + 1) (2 ^ (f.hi + 1 - f.lo) - 1)

/-- The copy of line `l` that a read is served from, once its MD has filled, has an uncorrectable granule. -/
def lineBad (s : State) (l : Nat) : Prop :=
  mdFilled s (dpaMd (64 * l)) = true ∧
    ∃ g, g < 4 ∧ decodeDiff (match cacheGet s l with | some c => cacheDiff c g | none => dramDiff s l g) = .bad

/-- Cached line `c` has an uncorrectable granule. -/
def cacheBad (c : CLine) : Prop := ∃ g, g < 4 ∧ decodeDiff (cacheDiff c g) = .bad

/-- Every write that an MD holds before FILL_DONE lies within its line. -/
def HeldOk (s : State) : Prop :=
  ∀ m l off bs p cls, MemReq.wr l off bs p cls ∈ (mdOf s m).held → off + bs.length ≤ 64

/-- `e` is the first entry of a wheel's list to act at `now` (R27): `l` is `pre`, `e`, `post`; `e` is due, acts before every due
entry ahead of it, and no due entry behind it acts before it. -/
def FirstToAct (now : Nat) (l pre post : List WheelEntry) (e : WheelEntry) : Prop :=
  l = pre ++ e :: post ∧ e.due ≤ now ∧ (∀ x ∈ pre, x.due ≤ now → actsBefore e x = true) ∧
    (∀ x ∈ post, x.due ≤ now → actsBefore x e = false)

/-- The jobs of kiln `m` with that of entry (q, i) replaced by `j`. -/
def jobsWith (s : State) (m : Nat) (j : KilnJob) : List KilnJob :=
  (kilnJobs s m).map (fun x => if x.q = j.q ∧ x.i = j.i then j else x)

/-! ### Terms of the statements about links -/

/-- Only link `l`, messages and register words differ, and link `l` of `t` is `y`. -/
def LinkIs (s t : State) (l : Nat) (y : LinkSt) : Prop :=
  linkOf t l = y ∧ (∀ j, j ≠ l → linkOf t j = linkOf s j) ∧
    t = { s with links := t.links, outbox := t.outbox, regs := t.regs, regB := t.regB, regC := t.regC }

/-- The codewords of a flit that carries no sequence number. -/
def plainFlit (x : LinkSt) (ftype : Nat) (payload : List Byte) : List (BitVec 144) :=
  encodeFlit (hdrNow x ftype 0 false false 0 0) (padTo 240 payload)

/-- Packets of which the link has a last flit that its peer has not acknowledged. -/
def heldPackets (x : LinkSt) : Nat :=
  ((x.replay.map (fun r => r.2) ++ (List.range 4).flatMap (fun v => sget [] x.txWait v)).filter (fun d => d.eop)).length

/-- A packet from link `o` on: it waits on the link as its flits (R318), behind those of its lane, and goes out as credits allow. -/
def SentOn (s t : State) (o : Nat) (p : Packet) (own : Bool) : Prop :=
  let x := linkOf s o
  t = pump (setLink s o { x with txWait := sset [] x.txWait p.vl (sget [] x.txWait p.vl ++ packetFlits p own) }) o

/-! ### Terms of the statements about collectives -/

/-- The command's group entry reads as `g`, is not refused under R345, and `u` is the state after the checks. -/
def GroupOk (s u : State) (q op : Nat) (e : List Byte) (g : List Byte) : Prop :=
  ∃ p v, readGroup s (cGroup op e) = (g, p, v) ∧ groupBad v (qCtx (queueOf s q).desc) op e g p = (false, u)

/-- The command of an entry, with its group. -/
def collCmdOf (s : State) (q i : Nat) (e g : List Byte) : CollCmd :=
  ⟨q, i, qCtx (queueOf s q).desc, (ctxOf s (qCtx (queueOf s q).desc)).gen, e, g⟩

/-- What a step of the collective engine may touch: its own state, packets at the routing stage, queues with what completions
touch, wheels, fault records, cores and virtual cores that a verdict or a signal reaches, and the memory side. -/
def CollSide (s t : State) : Prop :=
  t = { s with col := t.col, routeQ := t.routeQ, wheels := t.wheels, queues := t.queues, items := t.items,
               launches := t.launches, slots := t.slots, adapters := t.adapters, outbox := t.outbox, msix := t.msix, faults := t.faults, freshIdx := t.freshIdx,
               cores := t.cores, vcs := t.vcs, regs := t.regs, regB := t.regB, regC := t.regC, dram := t.dram,
               dramChk := t.dramChk, dramPoison := t.dramPoison, cache := t.cache, mds := t.mds, twin := t.twin, xlt := t.xlt }

/-- The collective packet passes R389 and R255. -/
def PacketCurrent (s : State) (p : Packet) : Prop :=
  let x := ctxOf s (p.ctxgen.toNat % 4096)
  p.fepoch.toNat = (fenceOf s (p.ctxgen.toNat % 4096)).fepoch ∧ x.state ≠ 0 ∧ x.state ≠ 4 ∧ x.gen = p.ctxgen.toNat / 4096

/-- The packet belongs to the running command `r` of a group that is not BROKEN, from its partner of rank `rank`. -/
def ForRun (s : State) (p : Packet) (r : GroupRun) (rank : Nat) : Prop :=
  PacketCurrent s p ∧ gState (readGroup s (pGroup p)).1 ≠ 2 ∧ (groupOf s (pGroup p)).run = some r ∧
    tevOf s (pGroup p) (pHi p) = none ∧
    pHi p = cSeqOf r.cmd.ent ∧ listPending r = false ∧ partnerOf r p = some rank ∧
    s.col.claims.find? (fun c => c.num == pHi p && c.token == p.token.toNat && c.src == p.src.toNat) = none

/-- The packet belongs to the admitted TEVENT `x` of a group that is not BROKEN, from its partner of rank `rank`. -/
def ForTevent (s : State) (p : Packet) (x : TevSt) (rank : Nat) : Prop :=
  PacketCurrent s p ∧ gState (readGroup s (pGroup p)).1 ≠ 2 ∧ tevOf s (pGroup p) (pHi p) = some x ∧
    x.partners.find? (fun m => m.2 == p.src.toNat) = some (rank, p.src.toNat)

/-- A group's running command ends with a status: its entry completes and no command of the group runs. -/
def RunEnds (s t : State) (gr : Nat) (r : GroupRun) (e : EntrySt) (status detail : Nat) : Prop :=
  (groupOf t gr).run = none ∧ CollSide s t ∧ ∃ u, CollSide s u ∧ EntryDone u t r.cmd.q r.cmd.i e status detail

/-! ### Terms of the statements about twins -/

/-- One twin message `msg` with this body goes to the twin, behind the packets that wait for the routing stage. -/
def SendsTwin (s t : State) (msg : Nat) (body : List Byte) : Prop :=
  ∃ p, t.routeQ = s.routeQ ++ [⟨none, 0, p, true, none⟩] ∧ isTwin p msg = true ∧ p.dst = BitVec.ofNat 16 (twinId s) ∧ p.body = body

/-- A TWN command has ended with RESULT `r`, the pair in state `st`. -/
def TwinEnds (t : State) (st r : Nat) : Prop :=
  pairState t = st ∧ getF t F.TWN_STS_BUSY 0 = 0 ∧ getF t F.TWN_STS_RESULT 0 = r

/-- A health record of this kind is raised: held while fewer than 256 are. -/
def Raises (s t : State) (kind : Nat) : Prop :=
  t.aed.healthSeq = (s.aed.healthSeq + 1) % 2 ^ 32 ∧
    (s.aed.health.length < 256 → ∃ b, fieldLE b 4 4 = kind ∧ t.aed.health = s.aed.health ++ [(s.aed.healthSeq, b)])

/-- An image goes to module `dst`: sixteen XFERs for each page, and XFER_END last. -/
def SendsImage (s t : State) (dst pages : Nat) : Prop :=
  ∃ l, t.routeQ = s.routeQ ++ l ∧ l.length = 16 * pages + 1 ∧
    (∀ x ∈ l, x.fromLink = none ∧ x.pkt.dst = BitVec.ofNat 16 dst) ∧
    (∀ i x, l[i]? = some x → isTwin x.pkt (if i < 16 * pages then 6 else 7) = true)

/-! ### Terms of the statements about resets -/

/-- Every word of the page reads as its Reset column says, and the page is under reset. -/
def PageReset (t : State) (p : Page) (n : Nat) : Prop :=
  (∀ off, off < 4096 → rdWord t (pageBase p n + off) = resetAt (pageBase p n + off)) ∧
    (sget PageSt.reset t.pages (pageBase p n)).inReset = true

/-- A domain reset of this unit is under way. -/
def ResetRuns (t : State) (domain unit : Nat) : Prop :=
  getF t F.RST_STS_BUSY 0 = 1 ∧ t.ras.rst = some ⟨domain, unit, 0, false, false⟩

/-- The five reset commands: domain, unit, command. -/
def ResetCommand (c : CoreId) (cd : CdId) (m : MdId) (l : LinkId) (u : BitVec 8) (dump : Bool) (e : Nat × Nat × Instr) : Prop :=
  e ∈ [(1, c.val, Instr.coreReset c dump), (2, cd.val, Instr.cdReset cd dump), (3, m.val, Instr.mdReset m dump),
    (4, l.val, Instr.linkReset l dump), (5, u.toNat, Instr.iodFunctionReset u dump)]

/-! ### Terms of the statements about management, power and registers -/

/-- The state in which a message is answered: its session's 60 s have started again. -/
def heard (s : State) (o : Origin) : State :=
  match o.session with
  | some n => touchSession s n
  | none => s

/-- Aedord runs and firmware answers the management path. -/
def Serving (s : State) : Prop := restarting s 17 = false ∧ firmwareRuns s = true

/-- Neither image nor recovery image runs: the ROM alone answers. -/
def RomAlone (s : State) : Prop := getF s F.MOD_STS_RECOVERY 0 = 1 ∧ getF s F.AED_BOOT_SRC 0 = 3

/-- A PLDM update request is taken, and `u` is the state it is answered in. -/
def UpdateHeard (s u : State) (o : Origin) : Prop :=
  (RomAlone s ∧ o.binding = .smbus ∧ u = s) ∨ (¬RomAlone s ∧ Serving s ∧ u = heard s o)

/-- Management, sessions and persistent state, messages and register words may differ; all else is as in `s`. -/
def MgmtSide (s t : State) : Prop :=
  t = { s with aed := t.aed, outbox := t.outbox, freshIdx := t.freshIdx, regs := t.regs, regB := t.regB, regC := t.regC }

/-- The last message out answers `o`. -/
def Answered (t : State) (o : Origin) (kind : Nat) (data : List Byte) : Prop :=
  t.outbox.getLast? = some (.mgmt (some o.binding) kind (o.session.map (fun n => n.val)) data)

/-- A reserved index waits, or a reservation is on its way, or the key has one left to reserve. -/
def KeyLasts (s : State) : Prop :=
  s.aed.reserved.1 < s.aed.reserved.2 ∨ s.aed.commits.contains .reserve = true ∨ (storeCfg s).nextIdx + 256 ≤ 2 ^ 40

/-- `t` is the module after a cold reset from `s`, but for the pins and power state: flash, store, fuses, what waits to be done
and what lies outside are as before, all else is at reset. -/
def ColdFrom (s t : State) : Prop :=
  t = { State.reset with
    pending := s.pending
    freshIdx := s.freshIdx
    outbox := s.outbox
    hostMem := s.hostMem
    aed := t.aed
    pwr := t.pwr } ∧
    t.aed = { AedSt.reset with flash := s.aed.flash, store := s.aed.store, svn := s.aed.svn, smbAddr := t.aed.smbAddr }

/-- No page holds a write that waits. -/
def NoWriteWaits (s : State) : Prop := ∀ e ∈ s.pages, e.2.fifo = [] ∧ e.2.posted = none

/-- The word of page `p`, `n` at `off` after a write of `v`: each read-write field takes its bits, held in range (Table 16.16),
a W1C field clears where `v` has 1, an RO field stays (R472). -/
def WordWritten (s t : State) (p : Page) (n off : Nat) (v : Word32) : Prop :=
  ∀ f ∈ wordFields p off,
    let old := getAt s (pageBase p n + off) f.hi f.lo
    getAt t (pageBase p n + off) f.hi f.lo =
      (match f.acc with
       | .ro => old
       | .w1c => bitsOf (rdWord s (pageBase p n + off) &&& ~~~v).toNat f.hi f.lo
       | _ => clampFld f (bitsOf v.toNat f.hi f.lo) % 2 ^ (f.hi + 1 - f.lo))

/-- The access is refused: counted, and the page's ACC_ERR is 1. -/
def Refused (s t : State) (b : Nat) : Prop :=
  getAt t (b + 0x014) 1 1 = 1 ∧ CountsOne s t F.MOD_CNT_ACC_ERR_CNT 0 ∧
    t = { s with outbox := t.outbox, msix := t.msix, regs := t.regs, regB := t.regB, regC := t.regC }

/-- Page `b` of `t` is `x`, every other page is as in `s`, and nothing else differs. -/
def PageIs (s t : State) (b : Nat) (x : PageSt) : Prop :=
  sget PageSt.reset t.pages b = x ∧ (∀ j, j ≠ b → sget PageSt.reset t.pages j = sget PageSt.reset s.pages j) ∧
    t = { s with pages := t.pages }

end Sys2Proof.Machine

open Sys2Proof Sys2Proof.Machine

/-! ### The block -/

/-- A step takes the command at the front of the queue and is that command's effect on the state with the queue's rest
(the model's queue: notes/assumptions/1.md). -/
def Obligations.StepRunsFrontCommand : Prop :=
  ∀ (i : Instr) (rest : List Instr) (s : State),
    step { s with pending := i :: rest } = exec i { s with pending := rest }

/-- No command touches the queue of commands that wait (the model's queue: notes/assumptions/1.md). -/
def Obligations.CommandsLeaveQueue : Prop :=
  ∀ (i : Instr) (s t : State), exec i s = .next t → t.pending = s.pending

/-- Every step, of a command or of the clock, keeps device memory in its canonical form: addresses rising, no byte 0 listed
(the model's form of memory: Machine/State.lean). -/
def Obligations.EveryStepKeepsMemoryCanonical : Prop :=
  ∀ s t : State, s.memWf = true → step s = .next t → t.memWf = true

/-- The state after reset: nothing waits, the memory is canonical, every register word reads as its Reset column says, nothing
is bound to a core, no context exists, and fabric time is 0 (R14, R334). -/
def Obligations.ResetState : Prop :=
  State.reset.pending = [] ∧ State.reset.memWf = true ∧ (∀ a, rdWord State.reset a = resetAt a) ∧
    (∀ c, (coreOf State.reset c).bound = none) ∧ (∀ k, (ctxOf State.reset k).state = 0) ∧ ftNow State.reset = 0

/-! ### Scalar syllables (R53, R55) -/

/-- ADD, SUB, MUL, MULH, AND, OR, XOR, SHL, SHR, SAR, MIN, MAX and MOV complete: g[RD] takes the value of Table 2.8 from the
registers as they stood before the bundle, and nothing else changes but the count of bundles issued. MOVHI writes IMM into
the upper half of g[RD] and leaves the lower half; PGET copies p[RA]; POPC counts set bits; CLZ counts leading zeros. Each
changes nothing else. -/
def Obligations.ScalarResults : Prop :=
  (∀ e ∈ aluTable, ∀ (c : CoreId) (y : SSyl) (s : State), Acts s c.val (.s e.2.1 y) →
    ∃ t, exec (e.1 c y) s = .next t ∧
      OnlyCore s t c.val (setG (coreOf s c.val) y.rd.toNat
        (e.2.2 (getG (coreOf s c.val) y.ra.toNat) (operandB (coreOf s c.val) y)))) ∧
  (∀ (c : CoreId) (y : SSyl) (s : State),
    (Acts s c.val (.s .movhi y) → ∃ t, exec (.movhi c y) s = .next t ∧
      OnlyCore s t c.val (setG (coreOf s c.val) y.rd.toNat (y.imm ++ (getG (coreOf s c.val) y.rd.toNat).setWidth 32))) ∧
    (Acts s c.val (.s .pget y) → ∃ t, exec (.pget c y) s = .next t ∧
      OnlyCore s t c.val (setG (coreOf s c.val) y.rd.toNat (getP (coreOf s c.val) y.ra.toNat))) ∧
    (Acts s c.val (.s .popc y) → ∃ t, exec (.popc c y) s = .next t ∧
      OnlyCore s t c.val (setG (coreOf s c.val) y.rd.toNat
        (BitVec.ofNat 64 ((List.range 64).countP (fun i => (getG (coreOf s c.val) y.ra.toNat).getLsbD i))))) ∧
    (Acts s c.val (.s .clz y) → ∃ t n, exec (.clz c y) s = .next t ∧
      CountsLeadingZeros (getG (coreOf s c.val) y.ra.toNat) n ∧
      OnlyCore s t c.val (setG (coreOf s c.val) y.rd.toNat (BitVec.ofNat 64 n))))

/-- CMPEQ, CMPNE, CMPLT, CMPLTU, CMPLE, CMPLEU, PAND, POR, PXOR, PNOT and PMOV complete: p[RD] takes the value of Table 2.8,
all 64 bits of a compare alike; a write of p0 is ignored (R39); nothing else changes. NOP has no effect. RDSR reads a
register of Table 2.2 into g[RD]; RAND reads the next free value of the model, whatever it is, and uses it up. WRSR writes
LC0 or LC1 of an open level and is ignored for a closed one (R63). -/
def Obligations.PredicatesAndSpecialRegisters : Prop :=
  (∀ (c : CoreId) (y : SSyl) (s : State),
    let k := coreOf s c.val
    let w (v : Word64) : CoreSt := if y.rd.toNat = 0 then k else { k with p := sset 0 k.p y.rd.toNat v }
    (∀ e ∈ compareTable, Acts s c.val (.s e.2.1 y) → ∃ t, exec (e.1 c y) s = .next t ∧
      OnlyCore s t c.val (w (if e.2.2 (getG k y.ra.toNat) (operandB k y) then BitVec.allOnes 64 else 0))) ∧
    (∀ e ∈ predicateTable, Acts s c.val (.s e.2.1 y) → ∃ t, exec (e.1 c y) s = .next t ∧
      OnlyCore s t c.val (w (e.2.2 (getP k y.ra.toNat) (getP k y.rb.toNat)))) ∧
    (Acts s c.val (.s .pnot y) → ∃ t, exec (.pnot c y) s = .next t ∧ OnlyCore s t c.val (w (~~~getP k y.ra.toNat))) ∧
    (Acts s c.val (.s .pmov y) → ∃ t, exec (.pmov c y) s = .next t ∧ OnlyCore s t c.val (w (operandB k y)))) ∧
  (∀ (c : CoreId) (y : SSyl) (s : State),
    let k := coreOf s c.val
    (Acts s c.val (.s .nop y) → ∃ t, exec (.nop c y) s = .next t ∧ OnlyCore s t c.val k) ∧
    (∀ b, k.bound = some b → y.imm.toNat ≠ 7 → Acts s c.val (.s .rdsr y) → ∃ t, exec (.rdsr c y) s = .next t ∧
      OnlyCore s t c.val (setG k y.rd.toNat (specialValue s c.val b k y.imm.toNat))) ∧
    (y.imm.toNat = 7 → Acts s c.val (.s .rdsr y) → ∃ t, exec (.rdsr c y) s = .next t ∧
      OnlyCore { s with freshIdx := s.freshIdx + 1 } t c.val (setG k y.rd.toNat (Config.freeBits s.freshIdx))) ∧
    (Acts s c.val (.s .wrsr y) → ∃ t, exec (.wrsr c y) s = .next t ∧
      OnlyCore s t c.val
        (if y.imm = 5 then (if 1 ≤ k.loops.length then { k with lc0 := (getG k y.ra.toNat).setWidth 32 } else k)
         else (if 2 ≤ k.loops.length then { k with lc1 := (getG k y.ra.toNat).setWidth 32 } else k))))

/-! ### Control syllables (R53, R62 to R64) -/

/-- BR, BRR, CALL and RET complete: the program counter takes the target; BR and BRR close the innermost level whose body
they leave; CALL writes the address of the next bundle in sequence to g63; nothing else changes. LOOP with a count of 1 to
2^32 opens a level whose body starts at the next bundle and ends at this header + 8 x OFS, with its LC register at the count
less 1; with a count of 0 or below it goes to the end bundle to pass over it. -/
def Obligations.ControlMovesProgramCounter : Prop :=
  (∀ (c : CoreId) (y : CSyl) (s : State),
    let k := coreOf s c.val
    (Acts s c.val (.c .br y) → ∃ t, exec (.br c y) s = .next t ∧ OnlyCore s t c.val (branchTo k (branchTarget k y))) ∧
    (Acts s c.val (.c .brr y) → ∃ t, exec (.brr c y) s = .next t ∧ OnlyCore s t c.val (branchTo k (getG k y.ra.toNat))) ∧
    (Acts s c.val (.c .call y) → ∃ t, exec (.call c y) s = .next t ∧
      OnlyCore s t c.val { setG k 63 k.pc with pc := branchTarget k y }) ∧
    (Acts s c.val (.c .ret y) → ∃ t, exec (.ret c y) s = .next t ∧ OnlyCore s t c.val { k with pc := getG k 63 })) ∧
  (∀ (c : CoreId) (y : CSyl) (s : State), Acts s c.val (.c .loop y) →
    let k := coreOf s c.val
    let n := (getG k y.ra.toNat).toInt
    let k' : CoreSt := { k with loops := k.loops ++ [⟨k.pc, branchTarget k y⟩] }
    ∃ t, exec (.loop c y) s = .next t ∧
      OnlyCore s t c.val
        (if n ≤ 0 then { k with pc := branchTarget k y, skip := true }
         else if k.loops = [] then { k' with lc0 := BitVec.ofInt 32 (n - 1) } else { k' with lc1 := BitVec.ofInt 32 (n - 1) }))

/-- HALT waits while a unit is busy or a DMA tag has a transfer, and with nothing busy it ends its work item on the core at
once: the core's virtual core is listed as halted in the item. -/
def Obligations.HaltEndsOrWaits : Prop :=
  ∀ (c : CoreId) (y : CSyl) (s : State), Acts s c.val (.c .halt y) →
    let k := coreOf s c.val
    (((allIdle k && (xferList k).isEmpty) = false ∨ k.reports ≠ []) →
      ∃ t, exec (.halt c y) s = .next t ∧ OnlyCore s t c.val { k with halting := true }) ∧
    (∀ b q i w, allIdle k = true → xferList k = [] → k.reports = [] → k.bound = some b → k.item = some (q, i) →
      itemOf s q i = some w →
      ∃ t w', exec (.halt c y) s = .next t ∧ itemOf t q i = some w' ∧ w' = { w with halted := w.halted ++ [b.vcore] })

/-- STOP stops the context on the core: code SW_STOP with g[RA][15:0], no other cause, the core STOPPED at its bundle. A
syllable that fails a check of R47 stops the context with BUNDLE_ILLEGAL, and BRR and RET to a target that is no multiple of
8 do; a LOOP in a case of R64 stops it with LOOP_DEPTH; an LD, LDS, ST, DESC.LD or DESC.SV outside the partition or
misaligned stops it with SPM_ACCESS. -/
def Obligations.StopsAtIssue : Prop :=
  (∀ (c : CoreId) (y : CSyl) (s : State),
    Ready s c.val (.c .stop y) → sylActs (coreOf s c.val) (.c .stop y) = true → (coreOf s c.val).reports = [] →
    ∃ t, exec (.stop c y) s = .next t ∧ StoppedWith s t c.val 7 ∧ getF t F.CORE_STOP_MULTI c.val = 0 ∧
      getF t F.CORE_STOP_SWCODE c.val = (getG (coreOf s c.val) y.ra.toNat).toNat % 65536) ∧
  (∀ (c : CoreId) (y : Syl) (s : State),
    let k := coreOf s c.val
    (k.bound.isSome → coreState s c.val = 1 → k.fetched = none → k.halting = false → frozen s = false → k.reports = [] →
      sylLegal y = false → ∃ t, exec (sylInstr c y) s = .next t ∧ StoppedWith s t c.val 1) ∧
    (Ready s c.val y → sylActs k y = true → k.reports = [] →
      (∀ z, (y = .c .brr z ∧ (getG k z.ra.toNat).toNat % 8 ≠ 0) ∨ (y = .c .ret z ∧ (getG k 63).toNat % 8 ≠ 0) →
        ∃ t, exec (sylInstr c y) s = .next t ∧ StoppedWith s t c.val 1) ∧
      (∀ z, y = .c .loop z → (k.loops.length = 2 ∨ 2 ^ 32 < (getG k z.ra.toNat).toInt ∨
          (1 ≤ (getG k z.ra.toNat).toInt ∧ ∃ l, k.loops = [l] ∧ l.stop.toNat < (branchTarget k z).toNat)) →
        ∃ t, exec (sylInstr c y) s = .next t ∧ StoppedWith s t c.val 3) ∧
      (∀ o z, y = .m o z → o ≠ .descAdv → o ≠ .descSts →
        (partBytes k < loadAddr k z + mSize o z ∨ loadAddr k z % min (mSize o z) 8 ≠ 0) →
        ∃ t, exec (sylInstr c y) s = .next t ∧ StoppedWith s t c.val 4)))

/-! ### Loads, stores and descriptors (R53, R229) -/

/-- LD zero-extends and LDS sign-extends 2^SIZE bytes of the partition into g[RT]; DESC.STS gives validity and the last
refusal code of d[RA[4:0]]. Each changes nothing else. ST stores the low 2^SIZE bytes of g[RT] and DESC.SV the 64 bytes of a
valid d[RT] at g[RA] + OFS of the partition; every other byte reads as before and nothing else changes. DESC.SV of an invalid
register stores 64 free bytes there (notes/assumptions/32.md), whatever they are. -/
def Obligations.LoadsAndStores : Prop :=
  (∀ (c : CoreId) (y : MSyl) (s : State),
    let k := coreOf s c.val
    let v := leNat (spmRead k (loadAddr k y) (2 ^ y.size.toNat)).1
    (Acts s c.val (.m .ld y) → ∃ t, exec (.ld c y) s = .next t ∧
      OnlyCore s t c.val (setG k y.rt.toNat (BitVec.ofNat 64 v))) ∧
    (Acts s c.val (.m .lds y) → ∃ t, exec (.lds c y) s = .next t ∧
      OnlyCore s t c.val (setG k y.rt.toNat (BitVec.ofInt 64 (signedOf (8 * 2 ^ y.size.toNat) v)))) ∧
    (Acts s c.val (.m .descSts y) → ∃ t, exec (.descSts c y) s = .next t ∧
      let d := getD k (y.ra.toNat % 32)
      OnlyCore s t c.val (setG k y.rt.toNat (BitVec.ofNat 64 ((if d.valid then 1 else 0) + 256 * d.refusal.toNat))))) ∧
  (∀ (c : CoreId) (y : MSyl) (s : State),
    let k := coreOf s c.val
    (Acts s c.val (.m .st y) → ∃ t, exec (.st c y) s = .next t ∧
      StoredAt k (coreOf t c.val) (loadAddr k y) (2 ^ y.size.toNat) (getG k y.rt.toNat).toNat ∧
      OnlyCore s t c.val { k with spm := (coreOf t c.val).spm }) ∧
    ((getD k y.rt.toNat).valid = true → Acts s c.val (.m .descSv y) → ∃ t, exec (.descSv c y) s = .next t ∧
      StoredAt k (coreOf t c.val) (loadAddr k y) 64 (getD k y.rt.toNat).raw.toNat ∧
      OnlyCore s t c.val { k with spm := (coreOf t c.val).spm }) ∧
    ((getD k y.rt.toNat).valid = false → Acts s c.val (.m .descSv y) → ∃ t, exec (.descSv c y) s = .next t ∧
      (∀ a, a < loadAddr k y ∨ loadAddr k y + 64 ≤ a → spmByteAt (coreOf t c.val) a = spmByteAt k a) ∧
      OnlyCore { s with freshIdx := s.freshIdx + 8 } t c.val { k with spm := (coreOf t c.val).spm }))

/-- DESC.LD of bytes that pass validation (Table 8.3) makes d[RT] valid with them and writes 1 to p[PD]; a refused one makes
d[RT] invalid, records its code and writes 0 to p[PD]. DESC.ADV of a valid register the same, but refused it leaves d[RT]
valid with its contents and records its code (R229); an invalid register gives 0 in p[PD]. p0 stays all ones (R39). -/
def Obligations.DescriptorLoadAndAdvance : Prop :=
  ∀ (c : CoreId) (y : MSyl) (s : State),
    let k := coreOf s c.val
    let n := y.rt.toNat
    let p (t : State) : Word64 := getP (coreOf t c.val) y.pd.toNat
    let is (v : Word64) : Word64 := if y.pd = 0 then BitVec.allOnes 64 else v
    (Acts s c.val (.m .descLd y) →
      let raw := BitVec.ofNat 512 (leNat (spmRead k (loadAddr k y) 64).1)
      let code := (descValidate s c.val raw).1
      ∃ t, exec (.descLd c y) s = .next t ∧
        (code = 0 → (getD (coreOf t c.val) n).valid = true ∧ (getD (coreOf t c.val) n).raw = raw ∧ p t = is 1) ∧
        (code ≠ 0 → (getD (coreOf t c.val) n).valid = false ∧
          (getD (coreOf t c.val) n).refusal = BitVec.ofNat 8 code ∧ p t = is 0)) ∧
    (Acts s c.val (.m .descAdv y) →
      let d := getD k n
      ∃ t, exec (.descAdv c y) s = .next t ∧
        (d.valid = false → p t = is 0 ∧ getD (coreOf t c.val) n = d) ∧
        (∀ w, d.valid = true → advRaw d.raw.toNat (getG k y.ra.toNat).toInt = some w →
          (descValidate s c.val (BitVec.ofNat 512 w)).1 = 0 →
          p t = is 1 ∧ (getD (coreOf t c.val) n).valid = true ∧ (getD (coreOf t c.val) n).raw = BitVec.ofNat 512 w) ∧
        (∀ code, d.valid = true → code ≠ 0 →
          code = (match advRaw d.raw.toNat (getG k y.ra.toNat).toInt with
            | none => 7
            | some w => (descValidate s c.val (BitVec.ofNat 512 w)).1) →
          p t = is 0 ∧ getD (coreOf t c.val) n = { d with refusal := BitVec.ofNat 8 code }))

/-- A syllable other than of the vector engine whose predicate is false issues and has no effect (R49). A vector syllable
with no lane enabled occupies its half with an operation that has no effect (R150). -/
def Obligations.PredicatesHoldBack : Prop :=
  (∀ (c : CoreId) (y : Syl) (s : State), Ready s c.val y → sylActs (coreOf s c.val) y = false →
    (∀ h o z, y ≠ .v h o z) → ∃ t, exec (sylInstr c y) s = .next t ∧ OnlyCore s t c.val (coreOf s c.val)) ∧
  (∀ (c : CoreId) (h : Fin 2) (o : VOp) (y : VSyl) (s : State), Ready s c.val (.v h o y) →
    (∀ j, laneOn (coreOf s c.val) y j = false) →
    ∃ t x, exec (sylInstr c (.v h o y)) s = .next t ∧ Queued s t c.val (3 + h.val) (coreOf s c.val) [x] ∧ x.effs = [])

/-! ### Vector engine and reduction unit (R149 to R161) -/

/-- VADD, VSUB, VMUL, VFMA, VMAX, VMIN, VABS, VNEG, VMOV, VEXP, VLOG, VRCP, VRSQ, VSQRT, VTANH, VSIG, VGELU, VSILU and VSLOPE
complete: one operation joins the queue of the half, whose effects write the cells of VD in rows ROW0 to ROW0 + NRM1 and the
enabled columns, each with the value of Table 2.8, and no other cell; with a lane enabled it clears the tile's rotation tag.
Nothing else changes. VCMPLT and VCMPEQ complete: one operation joins the queue of the half; it writes the bits of p[PD] that
the lane mask enables with the comparison of row ROW0 and keeps the others; a compare into p0 writes nothing (R39). -/
def Obligations.VectorResults : Prop :=
  (∀ (c : CoreId) (h : Fin 2) (y : VSyl) (s : State),
    let k := coreOf s c.val
    (∀ e ∈ vectorTable, Acts s c.val (.v h e.2.1 y) → ∃ t o cells, exec (e.1 c h y) s = .next t ∧
      Queued s t c.val (3 + h.val) (spoilScales [.v h e.2.1 y] k) [o] ∧ Eff.tile y.vd.toNat cells ∈ o.effs ∧
      Eff.tag y.vd.toNat 0 ∈ o.effs ∧
      ∀ i v, (i, v) ∈ cells ↔ ∃ r j, y.row0.toNat ≤ r ∧ r ≤ y.row0.toNat + y.nrm1.toNat ∧ laneOn k y j = true ∧
        i = 64 * r + j ∧ v = e.2.2 (tileAt k y.va.toNat r j) (vectorB k y r j) (tileAt k y.vc.toNat r j)) ∧
    (Acts s c.val (.v h .vslope y) → ∃ t o cells, exec (.vslope c h y) s = .next t ∧
      Queued s t c.val (3 + h.val) (spoilScales [.v h .vslope y] k) [o] ∧ Eff.tile y.vd.toNat cells ∈ o.effs ∧
      ∀ i v, (i, v) ∈ cells ↔ ∃ r j, y.row0.toNat ≤ r ∧ r ≤ y.row0.toNat + y.nrm1.toNat ∧ laneOn k y j = true ∧
        i = 64 * r + j ∧
        v = f32OfNat (slopeCode (FV.eq (f32 (tileAt k y.vc.toNat 0 0)) FV.one) (tileAt k y.va.toNat r j)))) ∧
  (∀ (c : CoreId) (h : Fin 2) (y : VSyl) (s : State), ∀ e ∈ vectorCompareTable, Acts s c.val (.v h e.2.1 y) →
    let k := coreOf s c.val
    ∃ t o, exec (e.1 c h y) s = .next t ∧ Queued s t c.val (3 + h.val) k [o] ∧
      (y.pd = 0 → o.effs = []) ∧
      (y.pd ≠ 0 → ∃ v, Eff.pred y.pd.toNat v ∈ o.effs ∧
        ∀ j, j < 64 → v.getLsbD j =
          if laneOn k y j then e.2.2 (f32 (tileAt k y.va.toNat y.row0.toNat j)) (f32 (vectorB k y y.row0.toNat j))
          else (getP k y.pd.toNat).getLsbD j))

/-- VLD of good data queues an operation that writes rows of VD with the tensor's elements widened to FP32, zeros beyond it;
VST writes the enabled elements within the tensor at once and no byte outside the partition's SPM, tag or register. XSUM,
XSUMSQ, XMAX, XMIN, XAMAX, XARGMAX and XNFIN complete: one operation joins X's queue. AXIS 2 writes g[GD] with the reduction
of rows ROW0 to ROW0 + NRM1 (an integer for XARGMAX and XNFIN, else the FP32 result zero-extended, g[GD][31:0] added first
where ACCG is set on a sum); AXIS 0 writes column 0 of TD row by row, AXIS 1 row 0 of TD column by column. -/
def Obligations.VectorTransfersAndReductions : Prop :=
  (∀ (c : CoreId) (h : Fin 2) (y : VSyl) (s : State),
    let k := coreOf s c.val
    let d := (getD k y.dn.toNat).tens
    (Acts s c.val (.v h .vld y) → (vLoad k y).2 = false → ∃ t o cells, exec (.vld c h y) s = .next t ∧
      Queued s t c.val (3 + h.val) (spoilScales [.v h .vld y] k) [o] ∧ Eff.tile y.vd.toNat cells ∈ o.effs ∧
      Eff.tpoison y.vd.toNat false ∈ o.effs ∧
      ∀ i v, (i, v) ∈ cells ↔ ∃ r j, r ≤ y.nrm1.toNat ∧ laneOn k y j = true ∧ i = 64 * (y.row0.toNat + r) + j ∧
        v = if r < d.lanes ∧ j < d.size 0 then (loadElem k d (sget 0 k.tscale y.dn.toNat) r j).1 else 0) ∧
    (Acts s c.val (.v h .vld y) → (vLoad k y).2 = true → ∃ t, exec (.vld c h y) s = .next t ∧
      OnlyCore s t c.val { spoilScales [.v h .vld y] k with reports := k.reports ++ [⟨6, 0⟩] }) ∧
    (Acts s c.val (.v h .vst y) → ∃ t o, exec (.vst c h y) s = .next t ∧
      Queued s t c.val (3 + h.val) { k with spm := (vStore s c.val k h.val y).1.spm } [o] ∧
      o.effs = (vStore s c.val k h.val y).2)) ∧
  (∀ (c : CoreId) (y : XSyl) (s : State), ∀ e ∈ reduceTable, Acts s c.val (.x e.2 y) →
    let k := coreOf s c.val
    let ta := tileArr (getTile k y.ta.toNat)
    let rows := vRows y.row0 y.nrm1
    let word (x : Word32 × Nat) : Word32 := if e.2 = .xargmax ∨ e.2 = .xnfin then f32OfNat x.2 else x.1
    ∃ t o, exec (e.1 c y) s = .next t ∧ Queued s t c.val 5 (spoilScales [.x e.2 y] k) [o] ∧
      (y.axis = 2 → ∃ r, r = xReduce e.2 ta rows (List.range 64) (fun r j => 64 * r + j) ∧
        Eff.gpr y.gd.toNat (if e.2 = .xargmax ∨ e.2 = .xnfin then BitVec.ofNat 64 r.2
          else if y.accg = true ∧ (e.2 = .xsum ∨ e.2 = .xsumsq) then (fadd r.1 ((getG k y.gd.toNat).setWidth 32)).setWidth 64
          else r.1.setWidth 64) ∈ o.effs) ∧
      (y.axis = 0 → Eff.tile y.td.toNat (rows.map (fun r =>
        (64 * r, word (xReduce e.2 ta [r] (List.range 64) (fun _ j => j))))) ∈ o.effs) ∧
      (y.axis = 1 → Eff.tile y.td.toNat ((List.range 64).map (fun j =>
        (j, word (xReduce e.2 ta rows [j] (fun r _ => r))))) ∈ o.effs))

/-! ### Conversion and scale units (R121 to R137, R184, R185) -/

/-- KCVT, not gated off, of good data writes its tensor, scale bytes and header at once and queues an operation of K with its
counts; a gated one in SKIP writes nothing and counts GATE_SKIP_CNT. KUNP of good data queues an operation that writes t[TS]
whole, and its rotation tag; of data that cannot be corrected it gives a stop report UNCORRECTABLE and writes nothing (R513).
QAMAX fills the scale buffer for its tile, register and kind; QSEED sets the seed of d[DN] and makes its sign vector current,
or none for seed 0; QTSC sets the per-tensor scale of d[DN] to g[GS][31:0]; QSEED and QTSC of the buffer's register end its
match (R123); QROT queues the rotation of t[TS] with the tag of the current seed. Each joins Q's queue. -/
def Obligations.ConversionsAndScales : Prop :=
  (∀ (c : CoreId) (y : KSyl) (s : State),
    let k := coreOf s c.val
    let r := kcvtOperate s c.val k y
    (Acts s c.val (.k .kcvt y) → (gated y && gateState s c.val == 3) = false → r.2.2 = false →
      ∃ t o, exec (.kcvt c y) s = .next t ∧ o.effs = r.2.1 ∧ o.gated = gated y ∧
        Queued { s with freshIdx := if y.rnd = 2 then s.freshIdx + 4096 else s.freshIdx } t c.val 6 { k with spm := r.1.spm } [o]) ∧
    (Acts s c.val (.k .kcvt y) → (gated y && gateState s c.val == 3) = true →
      ∃ t o, exec (.kcvt c y) s = .next t ∧ o.effs = [] ∧ (coreOf t c.val).spm = k.spm ∧
        unitOps (coreOf t c.val) 6 = unitOps k 6 ++ [o] ∧
        getF t F.BWD_GATE_CNT_GATE_SKIP_CNT c.val = min (getF s F.BWD_GATE_CNT_GATE_SKIP_CNT c.val + 1) (2 ^ 16 - 1)) ∧
    (Acts s c.val (.k .kunp y) → (kunpOperate k y).2 = false → ∃ t o, exec (.kunp c y) s = .next t ∧
      Queued s t c.val 6 (spoilScales [.k .kunp y] k) [o] ∧ o.effs = (kunpOperate k y).1 ∧
      (y.rot = true → Eff.tag y.ts.toNat 0 ∈ o.effs)) ∧
    (Acts s c.val (.k .kunp y) → (kunpOperate k y).2 = true → ∃ t, exec (.kunp c y) s = .next t ∧
      OnlyCore s t c.val { spoilScales [.k .kunp y] k with reports := k.reports ++ [⟨6, 0⟩] })) ∧
  (∀ (c : CoreId) (y : QSyl) (s : State),
    let k := coreOf s c.val
    let ended (k : CoreSt) : CoreSt :=
      if k.scaleBuf.dn = y.dn.toNat then { k with scaleBuf := { k.scaleBuf with valid := false } } else k
    let sd : Word16 := (getG k y.gs.toNat).setWidth 16
    (Acts s c.val (.q .qamax y) → ∃ t o, exec (.qamax c y) s = .next t ∧ o.effs = [] ∧
      Queued s t c.val 7 { k with scaleBuf := ⟨true, y.ts.toNat, y.dn.toNat, y.kind.toNat, qamaxScales k y⟩ } [o]) ∧
    (Acts s c.val (.q .qseed y) → ∃ t o, exec (.qseed c y) s = .next t ∧ o.effs = [] ∧
      Queued s t c.val 7 (ended { k with
        seeds := sset 0 k.seeds y.dn.toNat sd, curVec := if sd = 0 then none else some y.dn.toNat }) [o]) ∧
    (Acts s c.val (.q .qtsc y) → ∃ t o, exec (.qtsc c y) s = .next t ∧ o.effs = [] ∧
      Queued s t c.val 7 (ended { k with tscale := sset 0 k.tscale y.dn.toNat ((getG k y.gs.toNat).setWidth 32) }) [o]) ∧
    (Acts s c.val (.q .qrot y) → ∃ t o, exec (.qrot c y) s = .next t ∧
      Queued s t c.val 7 (spoilScales [.q .qrot y] k) [o] ∧
      Eff.tag y.ts.toNat (BitVec.ofNat 16 (seedOf k (k.curVec.getD 0))) ∈ o.effs ∧
      o.effs = qrotOperate k y))

/-! ### Arrays (R86 to R94) -/

/-- ALOAD of an accepted operand queues the load of the stationary register; AMM and ADIST of accepted operands queue one step
for each bank they write (one under OS), the last one marked; ADRAIN queues a copy of bank ACC to t[TD] with tag 0 and the
bank's poison, AFILL the copy back, ACLR a zero bank with its poison bit cleared. An operand refused by R86 gives its lowest
code in ARR_STS and a stop report DESC_INVALID, and nothing is queued; an ADRAIN or AFILL that meets a parity error of the
drain path queues nothing and gives a stop report UNCORRECTABLE (R110). -/
def Obligations.ArrayOperationsQueue : Prop :=
  ∀ (c : CoreId) (a : ArrId) (y : ASyl) (s : State),
    let k := coreOf s c.val
    let b := 4 * a.val + y.acc.toNat
    (Acts s c.val (.a a .aload y) → opndRefusal c.val (getD k y.da.toNat).tens = 0 → sget false k.injPar a.val = false →
      (loadStation k (getD k y.da.toNat).tens (scaleOf k y.da.toNat) y.dfl.toNat).2 = false →
      ∃ t o, exec (.aload c a y) s = .next t ∧ unitOps (coreOf t c.val) a.val = unitOps k a.val ++ [o] ∧
        o.effs = [.station a.val (loadStation k (getD k y.da.toNat).tens (scaleOf k y.da.toNat) y.dfl.toNat).1]) ∧
    (∀ e ∈ [(Instr.amm, AOp.amm), (Instr.adist, AOp.adist)],
      let n := aSteps k y
      let steps := if y.dfl = 1 then 1 else n
      Acts s c.val (.a a e.2 y) →
      (∀ p q, aOperands k a.val y n 0 = (p, q) → macRefusal c.val a.val k e.2 y p q = 0) → sget false k.injPar a.val = false →
      (∀ i p q, i < steps → aOperands k a.val y n i = (p, q) → p.bad = false ∧ q.bad = false) →
      ∃ t l, exec (e.1 c a y) s = .next t ∧ unitOps (coreOf t c.val) a.val = unitOps k a.val ++ l ∧ l.length = steps ∧
        ∀ i o, l[i]? = some o → o.bank = some (4 * a.val + if y.dfl = 1 then y.acc.toNat else (y.acc.toNat + i) % 4) ∧
          (o.last = true ↔ i + 1 = steps)) ∧
    (∀ e ∈ [(Instr.amm, AOp.amm), (Instr.adist, AOp.adist)], Acts s c.val (.a a e.2 y) →
      ∀ p q, aOperands k a.val y (aSteps k y) 0 = (p, q) → macRefusal c.val a.val k e.2 y p q ≠ 0 →
      ∃ t, exec (e.1 c a y) s = .next t ∧ getF t F.ARR_STS_REFUSE c.val = macRefusal c.val a.val k e.2 y p q % 8 ∧
        unitOps (coreOf t c.val) a.val = unitOps k a.val ∧ (coreOf t c.val).reports = k.reports ++ [⟨2, 0⟩]) ∧
    (sget false k.drainPar a.val = false → Acts s c.val (.a a .adrain y) → ∃ t o, exec (.adrain c a y) s = .next t ∧
      Queued s t c.val (8 + a.val) (spoilScales [.a a .adrain y] k) [o] ∧
      Eff.tile y.td.toNat (allCells (getBank k b)) ∈ o.effs ∧ Eff.tag y.td.toNat 0 ∈ o.effs ∧
      Eff.tpoison y.td.toNat (bankPoison s c.val b) ∈ o.effs) ∧
    (sget false k.drainPar a.val = false → Acts s c.val (.a a .afill y) → ∃ t o, exec (.afill c a y) s = .next t ∧
      Queued s t c.val (8 + a.val) k [o] ∧
      o.effs = [.bank b (allCells (getTile k y.td.toNat)), .bpoison b (tilePoison s c.val y.td.toNat)]) ∧
    (∀ e ∈ [(Instr.adrain, AOp.adrain), (Instr.afill, AOp.afill)], sget false k.drainPar a.val = true →
      Acts s c.val (.a a e.2 y) → ∃ t, exec (e.1 c a y) s = .next t ∧
        OnlyCore s t c.val { spoilScales [.a a e.2 y] k with
          drainPar := sset false k.drainPar a.val false, reports := k.reports ++ [⟨6, 0⟩] }) ∧
    (Acts s c.val (.a a .aclr y) → ∃ t o, exec (.aclr c a y) s = .next t ∧ Queued s t c.val a.val k [o] ∧
      o.bank = some b ∧ o.effs = [.bank b (gridCells (fun _ _ => 0)), .bpoison b false])

/-! ### DMA engine and woodpile (R167 to R178, R231 to R251) -/

/-- DMA.CPY, DMA.XP, DMA.GATH, DMA.SCAT and DMA.SCADD complete: the transfer takes a free place of the command queue. Source
and destination that do not meet: nothing else changes. Where they meet in n bytes it asks for ceil(n / 64 KiB) staging units
(R246): granted in arrival order while 512 suffice, the free ones, and phase S begins; else it waits and STG_WAIT_CNT counts
it. PUSH completes: its transfer takes a place of the command queue, WP_SP of its stream rises by the entry's size at once,
and MARKER_CNT counts an entry that the soft limit turns into a marker. POP takes a place and leaves WP_SP. Nothing else
changes. -/
def Obligations.TransfersAndPortsIssue : Prop :=
  (∀ (c : CoreId) (y : DSyl) (s : State) (b : Binding3), ∀ e ∈ transferTable, Acts s c.val (.d e.2 y) →
    (coreOf s c.val).bound = some b →
    let k := coreOf s c.val
    let x := newXfer s c.val k e.2 y
    let n := rangeBytes (meetRanges x.ds.tens x.dd.tens)
    let u := cdiv n 65536
    let r : StgUser := ⟨b.ctx, b.vcore, k.xferSeq⟩
    x.ds = getD k y.ds.toNat ∧ x.dd = getD k y.dd.toNat ∧ x.tag = y.tag.toNat ∧ x.prog = 0 ∧ x.id = k.xferSeq ∧
    ∀ i, freeXfer k = some i → (∀ z ∈ xferList k, z.id ≠ k.xferSeq) →
      (n = 0 → ∃ t, exec (e.1 c y) s = .next t ∧ OnlyCore s t c.val (withXfer k i x)) ∧
      (n ≠ 0 → s.stgQ = [] → stgUsed s + u ≤ 512 → coreAt s b.ctx b.vcore = some c.val → ∃ t, exec (e.1 c y) s = .next t ∧
        xferOf (coreOf t c.val) i = some { x with phase := .s, units := u } ∧
        (∀ j, j ≠ i → xferOf (coreOf t c.val) j = xferOf k j) ∧ (∀ d, d ≠ c.val → coreOf t d = coreOf s d) ∧
        t.stgHeld = s.stgHeld ++ [(r, (freeUnits s).take u)] ∧ t.stgQ = [] ∧ t.dram = s.dram ∧ t.pending = s.pending) ∧
      (n ≠ 0 → s.stgQ ≠ [] ∨ 512 < stgUsed s + u → ∃ t, exec (e.1 c y) s = .next t ∧
        xferOf (coreOf t c.val) i = some { x with phase := .wait, units := u } ∧
        (∀ j, j ≠ i → xferOf (coreOf t c.val) j = xferOf k j) ∧ (∀ d, d ≠ c.val → coreOf t d = coreOf s d) ∧
        t.stgQ = s.stgQ ++ [(r, u)] ∧ t.stgHeld = s.stgHeld ∧
        WordsAre s t [bump s F.DMA_CNT2_STG_WAIT_CNT c.val] ∧ t.dram = s.dram ∧ t.pending = s.pending)) ∧
  (∀ (c : CoreId) (y : DSyl) (s : State),
    let k := coreOf s c.val
    ∀ i, freeXfer k = some i →
      (Acts s c.val (.d .push y) →
        let x := newXfer s c.val k .push y
        ∃ t, exec (.push c y) s = .next t ∧
          CoreIs s t c.val { withXfer k i x with issued := k.issued + 1 }
            ((spFld x.stream, c.val, spOf s c.val x.stream + x.size) ::
              if x.marker then [bump s F.BWD_WP_CNT_MARKER_CNT c.val] else [])) ∧
      (Acts s c.val (.d .pop y) → ∃ t, exec (.pop c y) s = .next t ∧
        OnlyCore s t c.val (withXfer k i (newXfer s c.val k .pop y))))

/-- DMA_CHUNK, DMA_TRANSFER_COMPLETE, STAGING_GRANT and PHASE_S_END: a chunk of a tensor transfer that ends well moves the
transfer on by one chunk, a translation fault suspends it, and data that cannot be corrected ends it; every chunk moved, the
transfer leaves its place and gives back its staging; a request at the head of the queue that 512 units allow takes free
units and begins phase S; phase S ends in phase W, or a fault suspends the transfer in it. WINDOW_SPILL writes the oldest
pushed bytes of a stream that wait, as the window holds them, to the stream's place in device memory and takes them off the
list; WINDOW_REFILL reads up to 4 KiB below the window's bound, which it lowers, while the window has room, nothing waits to
be spilled and no transfer of the stream runs. A fault of either suspends the stream's window traffic and gives a stop report
XLATE_FAULT (R264). -/
def Obligations.TransfersMoveTensors : Prop :=
  (∀ (c : CoreId) (i : Fin 16) (s : State) (x : Xfer),
    let k := coreOf s c.val
    (xferOf k i = some x → x.state = 0 → x.prog < xferChunks x → x.phase = .plain ∨ x.phase = .w → x.opc ≤ 0x14 →
      ∃ t, exec (.dmaChunk c i) s = .next t ∧ TransferSide s t ∧
        ((plainChunk s c.val x).1 = .ok → ∃ x', xferOf (coreOf t c.val) i = some x' ∧ x'.prog = x.prog + 1 ∧ x'.state = 0) ∧
        (∀ f a, (plainChunk s c.val x).1 = .fault f a →
          ∃ x', xferOf (coreOf t c.val) i = some x' ∧ x'.prog = x.prog ∧ x'.state = 1 ∧ x'.fva = f.va ∧
            ⟨5, 0⟩ ∈ (coreOf t c.val).reports) ∧
        ((plainChunk s c.val x).1 = .uncorrectable → xferOf (coreOf t c.val) i = none ∧ ⟨6, 0⟩ ∈ (coreOf t c.val).reports)) ∧
    (xferOf k i = some x → x.state = 0 → xferChunks x ≤ x.prog → x.opc ≤ 0x14 → k.halting = false →
      ∃ t, exec (.dmaTransferComplete c i) s = .next t ∧ xferOf (coreOf t c.val) i = none ∧
        (∀ j, j ≠ i.val → xferOf (coreOf t c.val) j = xferOf k j) ∧ (∀ h ∈ t.stgHeld, h.1 ≠ stgUser s c.val x) ∧
        (optSts x.opts.toNat = false → (coreOf t c.val).spm = k.spm) ∧ t.dram = s.dram ∧
        WordsAre s t (if 0 < x.idxflt then [bump s F.DMA_CNT0_PARTIAL_CNT c.val] else [])) ∧
    (∀ r u q, s.stgQ = (r, u) :: q → stgUsed s + u ≤ 512 → coreAt s r.ctx r.vcore = some c.val →
      xferById k r.xfer = some (i.val, x) →
      ∃ t, exec .stagingGrant s = .next t ∧ t.stgQ = q ∧ t.stgHeld = s.stgHeld ++ [(r, (freeUnits s).take u)] ∧
        xferOf (coreOf t c.val) i = some { x with phase := .s } ∧ t.dram = s.dram ∧ t.pending = s.pending) ∧
    (xferOf k i = some x → x.phase = .s → x.state = 0 →
      (∀ m, m < 8 → ∀ h ∈ (mdOf (askSlices s c.val x) m).stgWait, h.1 ≠ stgUser s c.val x) →
      ∃ t, exec (.phaseSEnd c i) s = .next t ∧ TransferSide s t ∧
        (xferOf (coreOf t c.val) i = none → ⟨6, 0⟩ ∈ (coreOf t c.val).reports) ∧
        ∀ x', xferOf (coreOf t c.val) i = some x' →
          (x'.phase = .w → x'.state = 0) ∧ (x'.phase ≠ .w → x'.phase = .s ∧ x'.state = 1 ∧ ⟨5, 0⟩ ∈ (coreOf t c.val).reports))) ∧
  (∀ (c : CoreId) (st : Fin 16) (s : State), windowHeld s c.val st = false →
    let k := coreOf s c.val
    let lo := winLoOf s c.val st
    let n := min 4096 (min lo (winSize s c.val - (spOf s c.val st - lo)))
    (∀ r l, spillsOf s c.val st = r :: l →
      let w := commitWrites s c.val 0 .normal
        (byteWrites (streamBase s c.val st + r.1) (winGet s c.val st r.1 (r.2 - r.1)))
      (w.1 = .ok () → ∃ t, exec (.windowSpill c st) s = .next t ∧ TransferSide s t ∧
        spillsOf t c.val st = l ∧ (coreOf t c.val).reports = k.reports) ∧
      (∀ f, w.1 = .error f → ∃ t, exec (.windowSpill c st) s = .next t ∧ TransferSide s t ∧
        spillsOf t c.val st = r :: l ∧ windowHeld t c.val st = true ∧ (coreOf t c.val).reports = k.reports ++ [⟨5, 0⟩])) ∧
    (0 < n → spOf s c.val st - lo ≤ winSize s c.val → spillsOf s c.val st = [] →
      (∀ x ∈ xferList k, ¬(0x15 ≤ x.opc ∧ x.stream = st)) →
      let w := readBytes s c.val 0 (streamBase s c.val st + lo - n) n
      (∀ l, w.1 = .ok l → ∃ t, exec (.windowRefill c st) s = .next t ∧ TransferSide s t ∧
        winLoOf t c.val st = lo - n ∧ (coreOf t c.val).reports = k.reports) ∧
      (∀ f, w.1 = .error f → ∃ t, exec (.windowRefill c st) s = .next t ∧ TransferSide s t ∧
        winLoOf t c.val st = lo ∧ windowHeld t c.val st = true ∧ (coreOf t c.val).reports = k.reports ++ [⟨5, 0⟩])))

/-! ### Slot Y (R65, R66, R73, R287) -/

/-- WDMA, WENG, TWAIT, FENCE and TOKW issue once their condition of Table 2.8 holds, and TOKW takes one from its counter;
until then the bundle is held and the core's state is the Y-slot wait, from which Y_WAIT_SATISFIED issues it. SIG puts a
signal on its way to its target's home die, nothing else. SIG_ARRIVAL takes the oldest: a target of another generation or
beyond the context's cores, and a counter that stands at 65,535, drop it and SIG_DROP_CNT of the sender counts it (R66); a
resident target's counter rises by one (R65); for any other, only device memory is touched, or the drop counted. -/
def Obligations.WaitsAndSignals : Prop :=
  (∀ (c : CoreId) (y : YSyl) (s : State), ∀ e ∈ waitTable,
    let k := coreOf s c.val
    let b : Bundle := ⟨k.hdr, false, 0, 0, [.y e.2 y]⟩
    (Ready s c.val (.y e.2 y) → sylActs k (.y e.2 y) = true →
      (SlotCondition s k y e.2 → ∃ t, exec (e.1 c y) s = .next t ∧ OnlyCore s t c.val (afterWait k y e.2)) ∧
      (¬ SlotCondition s k y e.2 → ∃ t, exec (e.1 c y) s = .next t ∧
        CoreIs s t c.val { k with fetched := some b } [(F.CORE_STS_STATE, c.val, 2)])) ∧
    (k.fetched = some b → coreState s c.val = 2 → frozen s = false → k.halting = false → sylActs k (.y e.2 y) = true →
      mustWait s c.val k [.y e.2 y] [.y e.2 y] = false → SlotCondition s k y e.2 →
      ∃ t, exec (.yWaitSatisfied c) s = .next t ∧
        CoreIs s t c.val { afterWait k y e.2 with fetched := none, issued := k.issued + 1 } [(F.CORE_STS_STATE, c.val, 1)])) ∧
  ((∀ (c : CoreId) (y : YSyl) (s : State) (b : Binding3), Acts s c.val (.y .sig y) → (coreOf s c.val).bound = some b →
    let k := coreOf s c.val
    let v := (getG k y.ra.toNat).toNat
    let d := if (ctxOf s b.ctx).ncore ≤ v then cdOf c.val else homeCd s b.ctx v
    ∃ t, exec (.sig c y) s = .next t ∧
      OnlyCore { s with sigs := sset [] s.sigs d (sget [] s.sigs d ++ [⟨c.val, b.ctx, b.gen, v, y.imm.toNat % 32⟩]) } t c.val k) ∧
  (∀ (d : CdId) (s : State) (m : SigMsg) (l : List SigMsg), sget [] s.sigs d.val = m :: l → m.src < 128 →
    let vc := vcOf s m.ctx m.target
    let u : State := { s with sigs := sset [] s.sigs d.val l }
    let known := (ctxOf s m.ctx).gen = m.gen ∧ m.target < (ctxOf s m.ctx).ncore
    let n := tokenOf (coreOf s vc.core) m.ctr
    let drop := [bump s F.CORE_CNT_SIG_DROP_CNT m.src]
    ∃ t, exec (.sigArrival d) s = .next t ∧
      (¬ known ∨ (vc.dir = 1 ∧ 65535 ≤ n) → CoreIs u t m.src (coreOf s m.src) drop) ∧
      (known → vc.dir = 1 → n < 65535 → CoreIs u t vc.core (setToken (coreOf s vc.core) m.ctr (n + 1)) []) ∧
      (known → vc.dir ≠ 1 → MemSide (putFields u drop) t ∨ MemSide u t)))

/-- QPOST of an entry that its queue does not take (R287) counts QPOST_DROP_CNT and has no other effect. One that it takes goes
to the ring slot at MTAIL, MTAIL moves on, and the queue remembers the posting core; the entry's bytes stand in memory (PZ in
a gate contribution, R180) and only they and the descriptor's module fields may change; a gate contribution arms the core's
gate for its step (R184). -/
def Obligations.PostsReachQueue : Prop :=
  ∀ (c : CoreId) (y : YSyl) (s : State) (b : Binding3), Acts s c.val (.y .qpost y) → (coreOf s c.val).bound = some b →
    let k := coreOf s c.val
    let q := (getG k y.rb.toNat).toNat % 65536
    let x := queueOf s q
    let n := qSize x.desc
    let raw := (spmRead k (getG k y.ra.toNat).toNat 64).1
    let gate := decide (entOp raw = 0x11) && qClass x.desc == 2
    let ent := postEntry k gate raw
    let r := devRead s (queDescAddr s q + 28) 2
    let eligible := x.state = 1 ∧ x.disabling = false ∧ qPostOk x.desc = true ∧ qClass x.desc < 3 ∧ qCtx x.desc = b.ctx ∧
      (ctxOf s b.ctx).gen = b.gen
    let va := qRing x.desc + 64 * x.mtail
    (¬ eligible → ∃ t, exec (.qpost c y) s = .next t ∧
      CoreIs s t c.val { k with issued := k.issued + 1 } [bump s F.QUE_CNT0_QPOST_DROP_CNT 0]) ∧
    (eligible → (x.mtail + n - leNat r.1 % n) % n ≠ n - 1 → ∃ t, exec (.qpost c y) s = .next t ∧
      MemSide { s with cores := t.cores, queues := t.queues, regs := t.regs, regB := t.regB, regC := t.regC } t ∧
      queueOf t q = { x with mtail := (x.mtail + 1) % n, posters := sset none x.posters x.mtail (some b.vcore) } ∧
      (∀ j, j ≠ q → queueOf t j = queueOf s j) ∧
      coreOf t c.val =
        { k with
          issued := k.issued + 1
          gateStep := if gate then BitVec.ofNat 32 (fieldLE raw 16 19) else k.gateStep
          pzArmed := if gate then false else k.pzArmed } ∧
      (gate = true → getF t F.BWD_GATE_STS_STATE c.val = 1 ∧
        getF t F.BWD_GATE_STS_STEP c.val = fieldLE raw 16 19 % 2 ^ 24) ∧
      ∀ d, (translate r.2.2 iodDie b.ctx va .write).1 = .ok d → va % 64 = 0 → d % 64 = 0 → d + 64 ≤ dpaLimit →
        CacheOk s → ∀ a, ¬(queDescAddr s q + 32 ≤ a ∧ a < queDescAddr s q + 38) →
          (¬(d ≤ a ∧ a < d + 64) → lineByte t a = lineByte s a) ∧
          (d ≤ a → a < d + 64 → staleDie s (cgOf s b.ctx) = false → lineByte t a = ent.getD (a - d) 0)) ∧
    (eligible → (x.mtail + n - leNat r.1 % n) % n = n - 1 → ∃ t, exec (.qpost c y) s = .next t ∧
      MemSide { s with cores := t.cores, regs := t.regs, regB := t.regB, regC := t.regC } t ∧
      coreOf t c.val = { k with issued := k.issued + 1 } ∧
      getF t F.QUE_CNT0_QPOST_DROP_CNT 0 = min (getF s F.QUE_CNT0_QPOST_DROP_CNT 0 + 1) (2 ^ 16 - 1))

/-! ### Events of a core (R46, R48, R61, R76 to R79, R93, R103) -/

/-- RESULT_READY takes the oldest operation of a unit, once it runs (R57), off and makes its effects, each register, tile, bank or stationary
register as the operation has it; TILE_END does so for a step of an array, which leaves its bank to be released; BANK_RELEASE
gives the oldest such bank back; ABFT_EVENT hands the oldest event to the scheduler processor, which puts the core at the head
of its test order (R385), or keeps it while it restarts (R440). -/
def Obligations.UnitEvents : Prop :=
  ∀ (c : CoreId) (s : State),
    let k := coreOf s c.val
    (∀ (u : UnitId) o l, unitOps k u.val = o :: l → o.bank = none → frozen s = false → k.halting = false →
      (u.val < 3 → arrayRuns k u.val = true) → (8 ≤ u.val → drainRuns k (u.val - 8) = true) → (∀ n, Eff.escape n ∉ o.effs) →
      ∃ t, exec (.resultReady c u) s = .next t ∧ unitOps (coreOf t c.val) u.val = l ∧
        (∀ d, d ≠ c.val → coreOf t d = coreOf s d) ∧
        t = { s with cores := t.cores, regs := t.regs, regB := t.regB, regC := t.regC } ∧
        (∀ n v, o.effs = [.gpr n v] → coreOf t c.val = setUnitOps (setG k n v) u.val l) ∧
        (∀ n v, o.effs = [.pred n v] → coreOf t c.val = setUnitOps (setP k n v) u.val l) ∧
        (∀ n v, o.effs = [.tile n v] → coreOf t c.val = setUnitOps (setTile k n (putCells (getTile k n) v)) u.val l) ∧
        (∀ n v, o.effs = [.bank n v] → coreOf t c.val = setUnitOps (setBank k n (putCells (getBank k n) v)) u.val l) ∧
        (∀ n v, o.effs = [.station n v] →
          coreOf t c.val = { setUnitOps k u.val l with station := sset Station.reset k.station n v })) ∧
    (∀ (a : ArrId) o l b, unitOps k a.val = o :: l → o.bank = some b → frozen s = false → arrayRuns k a.val = true →
      (∀ n, Eff.escape n ∉ o.effs) →
      ∃ t, exec (.tileEnd c a) s = .next t ∧ unitOps (coreOf t c.val) a.val = l ∧
        releasesOf (coreOf t c.val) a.val = releasesOf k a.val ++ [b] ∧ (∀ d, d ≠ c.val → coreOf t d = coreOf s d) ∧
        t = { s with cores := t.cores, queues := t.queues, regs := t.regs, regB := t.regB, regC := t.regC }) ∧
    (∀ (a : ArrId), k.halting = false → ∃ t, exec (.bankRelease c a) s = .next t ∧
      CoreIs s t c.val (setReleases k a.val (releasesOf k a.val).tail) []) ∧
    (∀ e l, k.events = e :: l → ∃ t, exec (.abftEvent c) s = .next t ∧ (coreOf t c.val).events = l ∧
      (restarting s (9 + cdOf c.val) = false → e.kind = 0 →
        CoreIs { s with ras := { s.ras with order := e.core :: s.ras.order.erase e.core } } t c.val { k with events := l } []) ∧
      (restarting s (9 + cdOf c.val) = true → (schedOf s (cdOf c.val)).notices.length < 256 →
        (schedOf t (cdOf c.val)).notices = (schedOf s (cdOf c.val)).notices ++ [e] ∧
        t = { s with cores := t.cores, sched := t.sched }))

/-- BUNDLE_FETCH of a running core whose instruction cache holds the line of its program counter, as memory does, and in it the
whole bundle: the bundle decoded there is tried, with the program counter at the next bundle. CONTEXT_STOP with one report stops the core at the first
bundle not issued, with the report's code, and answers a bank request (R79); XLATE_FAULT suspends it instead (R77,
R264). STOP_PROPAGATION stops every core of
the context, halts its compute queues and completes every admitted entry of them (R285). -/
def Obligations.FetchAndStops : Prop :=
  (∀ (c : CoreId) (s : State) (b : Bundle) (old : List Byte),
    let k := coreOf s c.val
    let a := k.pc.toNat % 2 ^ 48
    let h := leNat ((old.drop (a % 64)).take 8)
    let len := 8 * (1 + bitsOf h 29 26)
    k.bound.isSome → coreState s c.val = 1 → k.fetched = none → k.halting = false → frozen s = false → k.item.isSome →
      k.skip = false → sget [] k.icache (a / 64) = old → old.length = 64 → a % 64 + len ≤ 64 → a % 64 + 8 ≤ 64 →
      (fetchRead s (cdOf c.val) (boundOf k).ctx (64 * (a / 64))).1 = .ok (old, false) → (headerSlots h).isSome →
      decodeBundle k.pc (wordsOf (len / 8) ((old.drop (a % 64)).take len)) = some b →
      ∃ t, exec (.bundleFetch c) s = .next t ∧
        t = tryIssue (setCore s c.val { k with hdr := k.pc, pc := k.pc + BitVec.ofNat 64 len }) c.val b) ∧
  (∀ (c : CoreId) (s : State) (r : StopCause) (b : Binding3),
    let k := coreOf s c.val
    k.reports = [r] → k.bound = some b → coreState s c.val ∈ [1, 2, 3] → r.code ∈ [1, 2, 3, 4, 5, 6, 7] →
      ∃ t, exec (.contextStop c) s = .next t ∧ getF t F.CORE_STOP_CODE c.val = r.code ∧ getF t F.CORE_STOP_MULTI c.val = 0 ∧
        getF t F.CORE_STS_BANK_REQ c.val = 0 ∧
        (coreOf t c.val).pc = nextBundle k ∧ (coreOf t c.val).reports = [] ∧ t.dram = s.dram ∧ t.pending = s.pending ∧
        (r.code = 5 → coreState t c.val = 5 ∧ (ctxOf t b.ctx).stops = (ctxOf s b.ctx).stops) ∧
        (r.code ≠ 5 → coreState t c.val = 4 ∧ (ctxOf t b.ctx).stops = (ctxOf s b.ctx).stops ++ [c.val])) ∧
  (∀ (x : CtxId) (s : State), (ctxOf s x.val).stops ≠ [] →
    ∃ t, exec (.stopPropagation x) s = .next t ∧ (ctxOf t x.val).stops = [] ∧
      (∀ c b, c < 128 → (coreOf s c).bound = some b → b.ctx = x.val → coreState t c = 4) ∧
      (∀ q, (queueOf s q).state = 1 ∨ (queueOf s q).state = 2 → qClass (queueOf s q).desc = 0 → qCtx (queueOf s q).desc = x.val →
        (queueOf t q).state = 2 ∧ ∀ i e, i ∈ (queueOf s q).order → entryOf s q i = some e → 3 ≤ e.stage → entryOf t q i = none) ∧
      (∀ v, v < 128 → (vcOf t x.val v).items = [] ∧ (vcOf t x.val v).cur = none) ∧ t.pending = s.pending)

/-! ### Queues (R275 to R287) -/

/-- QUE_DB moves MTAIL of an ENABLED host queue to TAIL modulo its size, and is ignored and counted for any other (R276). QUE_CMD
while BUSY is ignored with OVERRUN. ENABLE of a DISABLED queue with a good descriptor enables it empty, with RESULT 0; another
state gives RESULT 1, a poisoned descriptor 4, a malformed one 3. DISABLE holds the queue back and sets BUSY; QUE_DISABLED ends
it once nothing is outstanding. RESUME enables a HALTED queue (R278). -/
def Obligations.QueueCommands : Prop :=
  ∀ (q : QueueId) (s : State),
    let x := queueOf s q.val
    let busy := getF s F.QUE_CMD_STS_BUSY 0 = 1
    let r := devRead s (queDescAddr s q.val) 64
    let fresh : QueueSt := { QueueSt.reset with state := 1, desc := r.1 }
    (∀ tail : BitVec 16, (x.state = 1 ∧ qPostOk x.desc = false →
        ∃ t, exec (.queDb q tail) s = .next t ∧ QueueIs s t q.val { x with mtail := tail.toNat % qSize x.desc } [] ∧
          FieldsStored s t q.val { x with mtail := tail.toNat % qSize x.desc }) ∧
      (x.state ≠ 1 ∨ qPostOk x.desc = true →
        ∃ t, exec (.queDb q tail) s = .next t ∧ RegsOnly s t [bump s F.QUE_CNT0_DB_IGNORE_CNT 0])) ∧
    (busy → ∀ e ∈ [Instr.queEnable q, .queDisable q, .queResume q],
      ∃ t, exec e s = .next t ∧ RegsOnly s t [(F.QUE_CMD_STS_OVERRUN, 0, 1)]) ∧
    (¬busy → x.state ≠ 0 → ∃ t, exec (.queEnable q) s = .next t ∧ RegsOnly s t (queueResult 1)) ∧
    (¬busy → x.state = 0 → r.2.1 = true → ∃ t, exec (.queEnable q) s = .next t ∧ QueueIs s t q.val x (queueResult 4)) ∧
    (¬busy → x.state = 0 → r.2.1 = false → descOk r.1 = false →
      ∃ t, exec (.queEnable q) s = .next t ∧ QueueIs s t q.val x (queueResult 3)) ∧
    (¬busy → x.state = 0 → r.2.1 = false → descOk r.1 = true →
      (qClass r.1 = 3 ∧ qRing r.1 + 64 * qSize r.1 ≤ dpaLimit ∧ qCpl r.1 + 32 * qSize r.1 ≤ dpaLimit) ∨
      (qClass r.1 ≠ 3 ∧ (ctxOf s (qCtx r.1)).state = 1 ∧ ∃ l u, pinCheck r.2.2 (qCtx r.1) (ctxOf s (qCtx r.1)).ptRoot
        (ctxOf s (qCtx r.1)).gen true (pagesOf (qRing r.1) (64 * qSize r.1) ++ pagesOf (qCpl r.1) (32 * qSize r.1)) = (.ok l, u) ∧
        locksFit u iodDie l = true) →
      ∃ t, exec (.queEnable q) s = .next t ∧ QueueIs s t q.val fresh (queueResult 0)) ∧
    (¬busy → x.state ≠ 0 → ∃ t, exec (.queDisable q) s = .next t ∧
      QueueIs s t q.val { x with disabling := true } [(F.QUE_CMD_STS_BUSY, 0, 1)] ∧ t.dram = s.dram) ∧
    (¬busy → x.state = 0 → ∃ t, exec (.queDisable q) s = .next t ∧ RegsOnly s t (queueResult 1)) ∧
    (¬busy → x.state = 2 → ∃ t, exec (.queResume q) s = .next t ∧ QueueIs s t q.val { x with state := 1 } (queueResult 0) ∧
      FieldsStored s t q.val { x with state := 1 }) ∧
    (¬busy → x.state ≠ 2 → ∃ t, exec (.queResume q) s = .next t ∧ RegsOnly s t (queueResult 1)) ∧
    (x.disabling = true → x.order = [] → ∃ t, exec (.queDisabled q) s = .next t ∧
      QueueIs s t q.val { x with state := 0, disabling := false } (queueResult 0))

/-- ENTRY_FETCH of an ENABLED queue with an entry at HEAD, fewer than eight of those fetched not started, keeps it behind those
fetched before it and moves HEAD on, turning PHASE where the ring wraps (R276, R283). ENTRY_ADMISSION: a bad entry completes
with BAD_ENTRY and the offset of its first bad byte (R280); one with a NOTBEFORE arms an event of the IOD's wheel, or
completes with TIMER_FULL; a LAUNCH without an admissible model or adapter completes with NO_MODEL or MISMATCH (R305); any other
is admitted, its counts taken and its queue timeout armed (R282). NOTBEFORE_FIRING lets the entry go on. -/
def Obligations.EntriesAreAdmitted : Prop :=
  ∀ (q : QueueId) (i : EntryIdx) (s : State) (e : EntrySt),
    let x := queueOf s q.val
    let r := ringRead s x.desc (qRing x.desc + 64 * x.head) 64
    let h := (x.head + 1) % qSize x.desc
    let x' : QueueSt :=
      { x with
        entries := sset none x.entries x.head (some (fetchedEntry r.1 r.2.1 x.phase (sget none x.posters x.head)))
        order := x.order ++ [x.head]
        head := h
        phase := if h = 0 then !x.phase else x.phase }
    let ready := entryOf s q.val i.val = some e ∧ x.state = 1 ∧ (e.stage = 0 ∨ e.stage = 2) ∧ inOrder x i.val = true ∧
      admissible s x.desc = true ∧ armedAs s iodDie (.queueTimeout q.val i.val) = []
    let later := e.stage = 0 ∧ entNotBefore e.raw ≠ 0
    let good := entryBad s x.desc e.raw = none
    let barred := entBarrier e.raw = true ∧ earlier x i.val ≠ []
    (x.state = 1 → x.disabling = false → x.head ≠ x.mtail → unstarted x < 8 →
      ∃ t, exec (.entryFetch q) s = .next t ∧ QueueIs s t q.val x' []) ∧
    (∀ n, ready → entryBad s x.desc e.raw = some n →
      ∃ t, exec (.entryAdmission q i) s = .next t ∧ EntryDone s t q.val i.val e 6 n) ∧
    (ready → good → later → armSched s iodDie (entNotBefore e.raw) (.notBefore q.val i.val) = none →
      ∃ t, exec (.entryAdmission q i) s = .next t ∧ EntryDone (timerFull s iodDie) t q.val i.val e 0x0A 0) ∧
    (∀ u, ready → good → later → armSched s iodDie (entNotBefore e.raw) (.notBefore q.val i.val) = some u →
      ∃ t, exec (.entryAdmission q i) s = .next t ∧ entryOf t q.val i.val = some { e with stage := 1 } ∧
        t = { u with queues := t.queues } ∧ ∀ j, j ≠ q.val → queueOf t j = queueOf s j) ∧
    (ready → good → ¬later → barred → exec (.entryAdmission q i) s = .next s) ∧
    (∀ st d, ready → good → ¬later → ¬barred → entryBinding s x.desc e.raw = .error (st, d) →
      ∃ t, exec (.entryAdmission q i) s = .next t ∧ EntryDone s t q.val i.val e st d) ∧
    (∀ sl ep ad, ready → good → ¬later → ¬barred → entryBinding s x.desc e.raw = .ok (sl, ep, ad) →
      ∃ t, exec (.entryAdmission q i) s = .next t ∧
        entryOf t q.val i.val = some { e with stage := 3, slot := sl, epoch := ep, adapter := ad } ∧
        (∀ n, sl = some n → (slotOf t n).inflight = (slotOf s n).inflight + 1) ∧
        (∀ a v, ad = some (a, v) → (adpVer (adpOf t a) v).inflight = (adpVer (adpOf s a) v).inflight + 1) ∧
        (qWdogEn x.desc = true → armedAs t iodDie (.queueTimeout q.val i.val) ≠ []) ∧
        t.launches = (if qClass x.desc = 0 ∧ entOp e.raw = 1 then s.launches ++ [(q.val, i.val)] else s.launches) ∧
        t = { s with queues := t.queues, slots := t.slots, adapters := t.adapters, launches := t.launches, wheels := t.wheels,
                     regs := t.regs, regB := t.regB, regC := t.regC }) ∧
    (hasFired s iodDie (.notBefore q.val i.val) = true → entryOf s q.val i.val = some e → e.stage = 1 →
      ∃ t, exec (.notbeforeFiring q i) s = .next t ∧ entryOf t q.val i.val = some { e with stage := 2 } ∧
        hasFired t iodDie (.notBefore q.val i.val) = false ∧ t = { s with queues := t.queues, wheels := t.wheels })

/-- An admitted NOP completes with OK (Table 10.4); a work item whose virtual cores have all halted completes its LAUNCH with OK
(R281); a queue timeout that has fired takes the entry from its queue, which remembers it, and halts a compute queue (R286).
LAUNCH, in the order of admission of its context's, makes a work item of the entry with the image and adapter addresses of its binding, queued on each of its virtual cores;
an idle resident one starts it with g0 to g3 and its program counter set (R281). -/
def Obligations.EntriesRunAndComplete : Prop :=
  ∀ (q : QueueId) (i : EntryIdx) (s : State) (e : EntrySt),
    let x := queueOf s q.val
    let k := qCtx x.desc
    let v0 := fieldLE e.raw 32 33
    let img := match e.slot with | some n => (slotOf s n).imgDva | none => 0
    let adp := match e.adapter with | some (a, v) => (adpVer (adpOf s a) v).dva | none => 0
    (entryOf s q.val i.val = some e → e.stage = 3 → entOp e.raw = 0 →
      ∃ t, exec (.entryNop q i) s = .next t ∧ EntryDone s t q.val i.val e 0 0) ∧
    (∀ w, entryOf s q.val i.val = some e → itemOf s q.val i.val = some w → (∀ j, j < w.cnt → w.vc0 + j ∈ w.halted) →
      ∃ t, exec (.workItemComplete q i) s = .next t ∧ EntryDone s t q.val i.val e 0 0) ∧
    (entryOf s q.val i.val = some e → hasFired s iodDie (.queueTimeout q.val i.val) = true →
      ∃ t, exec (.queueTimeout q i) s = .next t ∧ entryOf t q.val i.val = none ∧
        (qClass x.desc ≠ 2 ∨ (s.col.groups = [] ∧ s.col.puts = []) → i.val ∈ (queueOf t q.val).timedOut) ∧
        (qClass x.desc = 0 → (queueOf t q.val).state = 2) ∧ t.pending = s.pending) ∧
    (Admitted s q.val i.val 0 1 e → launchTurn s k q.val i.val = true → ∃ t, exec (.launch q i) s = .next t ∧
      entryOf t q.val i.val = some { e with stage := 4 } ∧
      t.items = s.items ++ [⟨q.val, i.val, k, v0, fieldLE e.raw 34 35, BitVec.ofNat 64 (fieldLE e.raw 16 23),
        BitVec.ofNat 64 (fieldLE e.raw 24 31), BitVec.ofNat 64 img, BitVec.ofNat 64 adp, BitVec.ofNat 32 e.epoch, []⟩] ∧
      t.launches = s.launches.erase (q.val, i.val) ∧
      t = { s with items := t.items, launches := t.launches, queues := t.queues, vcs := t.vcs, cores := t.cores, regs := t.regs, regB := t.regB,
                   regC := t.regC } ∧
      (∀ v, fieldLE e.raw 34 35 = 1 → v = v0 → v < 128 →
        ((vcOf s k v).cur ≠ none ∨ (vcOf s k v).dir ≠ 1) →
        (vcOf t k v).items = (vcOf s k v).items ++ [(q.val, i.val)] ∧ t.cores = s.cores) ∧
      (∀ v, fieldLE e.raw 34 35 = 1 → v = v0 → v < 128 → (vcOf s k v).cur = none → (vcOf s k v).dir = 1 →
        (vcOf s k v).items = [] → itemOf s q.val i.val = none →
        let c := coreOf t (vcOf s k v).core
        (vcOf t k v).cur = some (q.val, i.val) ∧ getG c 0 = BitVec.ofNat 64 (fieldLE e.raw 24 31) ∧
          getG c 1 = BitVec.ofNat 64 img ∧ getG c 2 = BitVec.ofNat 64 adp ∧ getG c 3 = BitVec.ofNat 64 (e.epoch % 2 ^ 32) ∧
          c.pc = BitVec.ofNat 64 (fieldLE e.raw 16 23) ∧ coreState t (vcOf s k v).core = 1))

/-- MCOPY of at most the rest of a destination line whose addresses translate copies its bytes and completes with OK; any MCOPY
either completes or is suspended with a fault record that covers it (R264). CTX_SET of a context that is not ACTIVE completes
with BAD_STATE and its state, of bad fields with BAD_ENTRY and the offset of one (notes/assumptions/19.md); a change of cores waits until no work item of the context runs;
otherwise the fields take their values and it completes with OK, SHARE and PRIO in force staying to the period's end (R290). -/
def Obligations.CopyAndContextSet : Prop :=
  ∀ (q : QueueId) (i : EntryIdx) (s : State) (e : EntrySt),
    let k := qCtx (queueOf s q.val).desc
    let len := fieldLE e.raw 32 39
    let src := fieldLE e.raw 16 23
    let dst := fieldLE e.raw 24 31
    let n := fieldLE e.raw 16 17 % 4096
    let x := ctxOf s n
    let f : CtxFields := ⟨fieldLE e.raw 22 23, fieldLE e.raw 18 19, fieldLE e.raw 20 20, fieldLE e.raw 21 21, x.spmseg, x.dsmu,
      x.tmpl, x.emberSize⟩
    let moves := f.cdmask ≠ x.cdmask ∨ f.ncore ≠ x.ncore
    let y := templateBad x.tmpl f.ncore s
    (Admitted s q.val i.val 1 1 e → ∃ t, exec (.mcopy q i) s = .next t ∧ t.pending = s.pending ∧
      (entryOf t q.val i.val = none ∨ (coveredOpen t (.kiln q.val i.val) = true ∧
        ∃ e', entryOf t q.val i.val = some e' ∧ e'.stage = 4 ∧ e'.prog < len))) ∧
    (∀ b p u d, Admitted s q.val i.val 1 1 e → e.prog = 0 → 0 < len → dst % 64 + len ≤ 64 → CacheOk s →
      dvaRead (setEntry s q.val i.val (some { e with stage := 4 })) iodDie k src len .stream = (.ok (b, p), u) → (translate u iodDie k dst .write).1 = .ok d →
      d % 64 = dst % 64 → d + len ≤ dpaLimit → staleDie s (cgOf s k) = false →
      ∃ t u', exec (.mcopy q i) s = .next t ∧ MemStored s u' d b ∧ b.length = len ∧
        EntryDone u' t q.val i.val { e with stage := 4, prog := len } 0 0) ∧
    (Admitted s q.val i.val 3 1 e → x.state ≠ 1 →
      ∃ t, exec (.ctxSet q i) s = .next t ∧ EntryDone s t q.val i.val e 9 x.state) ∧
    (Admitted s q.val i.val 3 1 e → x.state = 1 → fieldsBad f = true →
      ∃ t, exec (.ctxSet q i) s = .next t ∧
        EntryDone (setCtx s n { x with setHold := false }) t q.val i.val e 6 (ctxSetOff f x.cdmask)) ∧
    (Admitted s q.val i.val 3 1 e → x.state = 1 → fieldsBad f = false → y.1 = false → moves → itemsRun s n = true →
      ∃ t, exec (.ctxSet q i) s = .next t ∧ MemSide (setCtx s n { x with setHold := true }) t) ∧
    (∀ l u, Admitted s q.val i.val 3 1 e → x.state = 1 → fieldsBad f = false → y.1 = false →
      (¬moves ∨ itemsRun s n = false) → pinCheck y.2 n x.ptRoot x.gen true (pagesOf x.emberBase (x.emberSize * 65536)) = (.ok l, u) →
      emberFits u ((f.cdmask ||| x.cdmask) - x.cdmask) l = true → movedCores u n f.cdmask f.ncore = [] →
      ∃ t u', exec (.ctxSet q i) s = .next t ∧ EntryDone u' t q.val i.val e 0 0 ∧
        ctxOf u' n = { x with share := f.share, prio := f.prio, cdmask := f.cdmask, ncore := f.ncore, setHold := false } ∧
        (∀ j, j ≠ n → ctxOf u' j = ctxOf s j) ∧ (∀ cd, cd < 8 → (sget none (schedOf u' cd).oldShare n).isSome) ∧
        MemSide { s with ctxs := u'.ctxs, sched := u'.sched, regs := u'.regs, regB := u'.regB, regC := u'.regC } u')

/-! ### Resident models (R304 to R309) -/

/-- SLOT_ALLOC makes an EMPTY slot LOADING; MODEL_FLIP makes a LOADING slot of the model CURRENT at the next epoch in one
step with the old slot's retirement, waiting while a kiln job names the slot; MODEL_RETIRE and the flip's old slot wait in
RETIRING, and SLOT_EMPTIED empties a RETIRING slot with nothing in flight and completes the entry that waits; SLOT_ABANDON
empties a LOADING slot that no kiln job names. Each in another state completes with BAD_STATE and that state. ADAPTER_SET
makes the version that is not current SET when it is EMPTY; ADAPTER_FLIP makes a SET version current in one step with the old
version's retirement; ADAPTER_CLEAR retires the current version; ADAPTER_VERSION_EMPTIED empties a RETIRING version with
nothing in flight and completes the flip that waits (R308). Each in another state completes with BAD_STATE. -/
def Obligations.ModelsAndAdapters : Prop :=
  (∀ (q : QueueId) (i : EntryIdx) (s : State) (e : EntrySt),
    let b0 := fieldLE e.raw 16 16
    let b1 := fieldLE e.raw 17 17
    let x0 := slotOf s b0
    let x1 := slotOf s b1
    let md := modelOf s b0
    let ep := (md.lastEpoch + 1) % 2 ^ 32
    let u := setModel (setSlot s b1 { x1 with state := 2, epoch := ep }) b0 ⟨some b1, ep⟩
    let det (old : Nat) := old + b1 * 256 + (ftNow s % 2 ^ 48) * 2 ^ 16
    (Admitted s q.val i.val 3 0x10 e → x0.state = 0 → ∃ t, exec (.slotAlloc q i) s = .next t ∧
      EntryDone (setSlot s b0 { SlotSt.reset with
        state := 1, model := b1, imgDva := fieldLE e.raw 24 31, imgDpa := fieldLE e.raw 32 39,
        size := fieldLE e.raw 40 47 }) t q.val i.val e 0 0) ∧
    (Admitted s q.val i.val 3 0x10 e → x0.state ≠ 0 →
      ∃ t, exec (.slotAlloc q i) s = .next t ∧ EntryDone s t q.val i.val e 9 x0.state) ∧
    (Admitted s q.val i.val 3 0x11 e → x1.state ≠ 1 ∨ x1.model ≠ b0 →
      ∃ t, exec (.modelFlip q i) s = .next t ∧ EntryDone s t q.val i.val e 9 x1.state) ∧
    (Admitted s q.val i.val 3 0x11 e → x1.state = 1 → x1.model = b0 → kilnNames s b1 = true →
      exec (.modelFlip q i) s = .next s) ∧
    (Admitted s q.val i.val 3 0x11 e → x1.state = 1 → x1.model = b0 → kilnNames s b1 = false → md.slot = none →
      ∃ t, exec (.modelFlip q i) s = .next t ∧ EntryDone u t q.val i.val e 0 (det 255)) ∧
    (∀ o, Admitted s q.val i.val 3 0x11 e → x1.state = 1 → x1.model = b0 → kilnNames s b1 = false → md.slot = some o → o ≠ b1 →
      ∃ t, exec (.modelFlip q i) s = .next t ∧ entryOf t q.val i.val = some { e with stage := 4 } ∧
        slotOf t b1 = { x1 with state := 2, epoch := ep } ∧ modelOf t b0 = ⟨some b1, ep⟩ ∧
        slotOf t o = { slotOf s o with state := 3, waiter := some (q.val, i.val, det o) } ∧
        t = { s with slots := t.slots, models := t.models, queues := t.queues }) ∧
    (∀ o, Admitted s q.val i.val 3 0x12 e → md.slot = some o →
      ∃ t, exec (.modelRetire q i) s = .next t ∧ entryOf t q.val i.val = some { e with stage := 4 } ∧
        modelOf t b0 = { md with slot := none } ∧
        slotOf t o = { slotOf s o with state := 3, waiter := some (q.val, i.val, 0) } ∧
        t = { s with slots := t.slots, models := t.models, queues := t.queues }) ∧
    (Admitted s q.val i.val 3 0x12 e → md.slot = none →
      ∃ t, exec (.modelRetire q i) s = .next t ∧ EntryDone s t q.val i.val e 9 0) ∧
    (Admitted s q.val i.val 3 0x13 e → x0.state = 1 → kilnNames s b0 = false →
      ∃ t, exec (.slotAbandon q i) s = .next t ∧ EntryDone (setSlot s b0 SlotSt.reset) t q.val i.val e 0 0) ∧
    (Admitted s q.val i.val 3 0x13 e → x0.state ≠ 1 ∨ kilnNames s b0 = true →
      ∃ t, exec (.slotAbandon q i) s = .next t ∧ EntryDone s t q.val i.val e 9 x0.state) ∧
    (∀ (n : Fin 64) d, (slotOf s n.val).state = 3 → (slotOf s n.val).inflight = 0 →
      (slotOf s n.val).waiter = some (q.val, i.val, d) → entryOf s q.val i.val = some e →
      ∃ t, exec (.slotEmptied n) s = .next t ∧ EntryDone (setSlot s n.val SlotSt.reset) t q.val i.val e 0 d)) ∧
  (∀ (q : QueueId) (i : EntryIdx) (s : State) (e : EntrySt),
    let a := fieldLE e.raw 16 17
    let x := adpOf s a
    let v := 1 - x.cur
    let old := adpVer x x.cur
    let det (o : Nat) := o + v * 256 + (ftNow s % 2 ^ 48) * 2 ^ 16
    (Admitted s q.val i.val 3 0x20 e → (adpVer x v).state = 0 → ∃ t, exec (.adapterSet q i) s = .next t ∧
      EntryDone (setAdp s a (setAdpVer x v { AdpVer.reset with
        state := 1, model := fieldLE e.raw 18 18, dva := fieldLE e.raw 24 31, base := fieldLE e.raw 32 35 })) t q.val i.val e 0 0) ∧
    (Admitted s q.val i.val 3 0x20 e → (adpVer x v).state ≠ 0 →
      ∃ t, exec (.adapterSet q i) s = .next t ∧ EntryDone s t q.val i.val e 9 (adpVer x v).state) ∧
    (Admitted s q.val i.val 3 0x21 e → (adpVer x v).state ≠ 1 →
      ∃ t, exec (.adapterFlip q i) s = .next t ∧ EntryDone s t q.val i.val e 9 (adpVer x v).state) ∧
    (Admitted s q.val i.val 3 0x21 e → (adpVer x v).state = 1 → old.state ≠ 2 → ∃ t, exec (.adapterFlip q i) s = .next t ∧
      EntryDone (setAdp s a { setAdpVer x v { adpVer x v with state := 2 } with cur := v }) t q.val i.val e 0 (det 255)) ∧
    (Admitted s q.val i.val 3 0x21 e → (adpVer x v).state = 1 → old.state = 2 → x.cur < 2 →
      ∃ t, exec (.adapterFlip q i) s = .next t ∧ entryOf t q.val i.val = some { e with stage := 4 } ∧
        (adpOf t a).cur = v ∧ (adpVer (adpOf t a) v).state = 2 ∧
        adpVer (adpOf t a) x.cur = { old with state := 3, waiter := some (q.val, i.val, det x.cur) } ∧
        t = { s with adapters := t.adapters, queues := t.queues }) ∧
    (Admitted s q.val i.val 3 0x22 e → old.state = 2 → ∃ t, exec (.adapterClear q i) s = .next t ∧
      EntryDone (setAdp s a (setAdpVer x x.cur { old with state := 3 })) t q.val i.val e 0 0) ∧
    (Admitted s q.val i.val 3 0x22 e → old.state ≠ 2 →
      ∃ t, exec (.adapterClear q i) s = .next t ∧ EntryDone s t q.val i.val e 9 old.state) ∧
    (∀ (n : Fin 4096) (w : Fin 2) d, (adpVer (adpOf s n.val) w.val).state = 3 → (adpVer (adpOf s n.val) w.val).inflight = 0 →
      (adpVer (adpOf s n.val) w.val).waiter = some (q.val, i.val, d) → entryOf s q.val i.val = some e →
      ∃ t, exec (.adapterVersionEmptied n w) s = .next t ∧
        EntryDone (setAdp s n.val (setAdpVer (adpOf s n.val) w.val AdpVer.reset)) t q.val i.val e 0 d))

/-! ### Scheduling (R67, R291 to R303) -/

/-- A core that a bank request finds at a cheap point with no stop cause there (R79), which then reads STATE 3, is banked
once its units are idle and nothing of it is in phase W, by its live-range entry; one is forced once its wait is over or
while it is suspended. The core is freed: nothing is bound to it, its state is IDLE and its bank request is answered; its
virtual core is saved, with a sequence number one higher, in the state BANKED (SUSPENDED for a suspended core) and the kind
of the save. PLACEMENT gives a waiting virtual core of a HIGH context, or of a CD without an affinity window, once none
served before it can be placed (R293), the first free eligible core in the search order (R294); AFFINITY_WINDOW_EXPIRY does
so at its window's end. BIND of a placed one, its pages pinned and its DSM at hand, binds it: the core runs with its
context's identity, and the virtual core is RESIDENT (R295). -/
def Obligations.BankingAndPlacement : Prop :=
  (∀ (c : CoreId) (s : State) (b : Binding3),
    let k := coreOf s c.val
    let due := ∃ a, sget none (schedOf s (cdOf c.val)).bankReq (c.val % 16) = some a ∧ a ≤ ftNow s
    let saved (t : State) (kind dir : Nat) : Prop :=
      (coreOf t c.val).bound = none ∧ coreState t c.val = 0 ∧ getF t F.CORE_STS_BANK_REQ c.val = 0 ∧
        (vcOf t b.ctx b.vcore).dir = dir ∧ (vcOf t b.ctx b.vcore).kind = kind ∧ (vcOf t b.ctx b.vcore).core = c.val ∧
        (vcOf t b.ctx b.vcore).seq = (ctxOf s b.ctx).bankseq + 1 ∧ (∀ d, d ≠ c.val → coreOf t d = coreOf s d) ∧
        t.pending = s.pending
    k.bound = some b → k.heldWr = [] → k.spills = [] → k.reports = [] → phaseWRuns k = false →
      (∀ u, k.fetched = some u → u.yld = true → u.lrm < getF s F.CORE_LRM_CNT_COUNT c.val →
        getF s F.CORE_STS_BANK_REQ c.val = 1 → coreState s c.val ∈ [1, 2, 3] → frozen s = false →
        coreState (tryIssue s c.val u) c.val = 3 →
        (allIdle k = true → (emberRead (tryIssue s c.val u) (cdOf c.val) b.ctx
            (getPair s F.CORE_LRM_BASE_LO_BASE_LO F.CORE_LRM_BASE_HI_BASE_HI c.val + 32 * u.lrm) 32).1 ≠ [] →
          ∃ t, exec (.cheapPointBank c) s = .next t ∧ saved t 0 2) ∧
        (allIdle k = false → ∃ t, exec (.cheapPointBank c) s = .next t ∧ coreState t c.val = 3 ∧
          (coreOf t c.val).bound = some b ∧ (coreOf t c.val).fetched = some u ∧ t.dram = s.dram)) ∧
      (getF s F.CORE_STS_BANK_REQ c.val = 1 → coreState s c.val = 5 → ∃ t, exec (.forcedBank c) s = .next t ∧ saved t 1 3) ∧
      (getF s F.CORE_STS_BANK_REQ c.val = 1 → coreState s c.val = 1 ∨ coreState s c.val = 2 ∨ (coreState s c.val = 4 ∧ k.item = none) →
        due →
        ∃ t, exec (.forcedBank c) s = .next t ∧ saved t 1 2)) ∧
  (∀ (n : CtxId) (v : VCoreId) (s : State),
    let cd := homeCd s n.val v.val
    let x := vcOf s n.val v.val
    let y := ctxOf s n.val
    let l := eligibleCores s cd (cclassOf s n.val v.val)
    let placed (t : State) : Prop := t = setVc s n.val v.val { x with placed := l.find? (coreFree s), affSince := none }
    restarting s (9 + cd) = false →
    (placeTurn s cd n.val v.val = true → x.affSince = none → vcWaits s n.val v.val = true → prioOf s cd n.val = 1 ∨ (schedOf s cd).affWin = 0 →
      (l.find? (coreFree s)).isSome → ∃ t, exec (.placement n v) s = .next t ∧ placed t) ∧
    (∀ a, x.affSince = some a → a + 1000 * (schedOf s cd).affWin ≤ ftNow s → vcWaits s n.val v.val = true →
      (l.find? (coreFree s)).isSome → ∃ t, exec (.affinityWindowExpiry n v) s = .next t ∧ placed t) ∧
    (∀ c p l' u, x.placed = some c → c < 128 → coreState s c = 0 → y.state = 1 → v.val < y.ncore → coveredOpen s (.bind n.val v.val) = false →
      templateOf s n.val v.val = p → pinCheck p.2.2 n.val y.ptRoot y.gen false (bindPages p.1) = (.ok l', u) →
      locksFit u (cdOf c) l' = true →
      y.dsmu = 0 ∨ (schedOf s (cdOf c)).dsmAlloc.any (fun a => a.1 == n.val) = true →
      ∃ t, exec (.bind n v) s = .next t ∧ (coreOf t c).bound = some ⟨n.val, y.gen, v.val⟩ ∧ coreState t c = 1 ∧
        (vcOf t n.val v.val).dir = 1 ∧ (vcOf t n.val v.val).core = c ∧ (vcOf t n.val v.val).placed = none ∧
        (coreOf t c).partLen = y.spmseg ∧ (∀ d, d ≠ c → coreOf t d = coreOf s d) ∧ t.pending = s.pending))

/-- PERIOD_END of released cores, its period over, updates the credit of each eligible context by its share of the period less
its use, within 100 periods either way (R292), and starts the next period with the SCH fields in force (R310). HIGH_ARRIVAL of a
waiting HIGH virtual core without a free core asks the NORMAL context of lowest score for its last bankable core, which it gets
where nothing bars it (R302).
BLOCK_DWELL_EXPIRY asks the lowest context's cores to bank for the first waiting context (R303). -/
def Obligations.SchedulerPeriods : Prop :=
  ∀ (cd : CdId) (s : State),
    let x := schedOf s cd.val
    let l := eligibleCtxs s cd.val
    let total := (l.map (fun k => shareOf s cd.val k)).foldl (· + ·) 0
    restarting s (9 + cd.val) = false →
    (getF s F.MOD_STS_CORES_REL 0 = 1 → x.periodStart + 1000 * x.period ≤ ftNow s →
      ∃ t, exec (.periodEnd cd) s = .next t ∧ (schedOf t cd.val).periodStart = ftNow s ∧
        (schedOf t cd.val).period = getF s F.SCH_CFG_PERIOD_US cd.val ∧
        (schedOf t cd.val).affWin = getF s F.SCH_TIMES_AFF_WIN_US cd.val ∧
        (schedOf t cd.val).cheapWait = getF s F.SCH_TIMES_CHEAP_WAIT_US cd.val ∧ (schedOf t cd.val).used = [] ∧
        (cd.val ∈ s.aed.spanned → (schedOf t cd.val).credit = x.credit ∧ cd.val ∉ t.aed.spanned) ∧
        (cd.val ∉ s.aed.spanned → l.Nodup → ∀ k ∈ l, ∀ j, j < 4 →
          let lim : Int := 100 * (x.period * 1000 * classCap j : Nat)
          creditOf t cd.val k j = max (-lim) (min lim (creditOf s cd.val k j +
            (x.period * 1000 * classCap j * shareOf s cd.val k / max 1 total : Nat) - (sget 0 x.used (4 * k + j) : Nat)))) ∧
        t = { s with vcs := t.vcs, sched := t.sched, aed := t.aed, regs := t.regs, regB := t.regB, regC := t.regC }) ∧
    (∀ n v j c r, highWaiters s cd.val = [(n, v)] → placeTarget s n v false = none →
      lowestBy (scoreOf s cd.val) ((residentCtxs s cd.val).filter (fun j => prioOf s cd.val j == 0 && !(bankable s cd.val j).isEmpty)) =
        some j → bankable s cd.val j = c :: r → cdOf c = cd.val →
      ∃ t, exec (.highArrival cd) s = .next t ∧ getF t F.CORE_STS_BANK_REQ c = 1 ∧
        sget none (schedOf t cd.val).bankReq (c % 16) = some (ftNow s + 1000 * x.cheapWait) ∧
        (classAllows (cclassOf s n v) c = true → coreSuspect s c = false → coreTaken s c = false →
          (vcOf t n v).placed = some c) ∧
        t = { s with sched := t.sched, vcs := t.vcs, regs := t.regs, regB := t.regB, regC := t.regC }) ∧
    (∀ a k r j, x.dwellSince = some a → a + 1000 * x.dwell ≤ ftNow s → dwellWaiters s cd.val = k :: r → dwellHolds s cd.val = true →
      lowestBy (scoreOf s cd.val) (sortBy (fun a b => decide (a ≤ b)) (residentCtxs s cd.val)) = some j →
      ∃ t, exec (.blockDwellExpiry cd) s = .next t ∧ (schedOf t cd.val).dwellSince = none ∧
        (∀ p ∈ (bankable s cd.val j).zip (waitersOf s cd.val k), getF t F.CORE_STS_BANK_REQ p.1 = 1) ∧
        t = { s with sched := t.sched, vcs := t.vcs, regs := t.regs, regB := t.regB, regC := t.regC })

/-! ### Contexts and faults (R253 to R273) -/

/-- CREATE of a FREE context from a good table entry whose ember area is pinned makes it ACTIVE with the entry's fields, its
generation kept (R254, R273); the refusals of R288 give their RESULT and leave the context alone, as does a CTX_CMD while BUSY,
which sets OVERRUN. TEARDOWN and KILL of an ACTIVE context run its fence through phase 1 to DRAINING with BUSY set (R270, R271);
of a FREE one they give RESULT 1. DRAIN_COMPLETE, or DRAIN_TIMEOUT after 500 µs, advances the generation. -/
def Obligations.ContextLifecycle : Prop :=
  ∀ (n : CtxId) (s : State),
    let x := ctxOf s n.val
    let busy := getF s F.CTX_CMD_STS_BUSY 0 = 1
    let r := devRead s (ctxEntryAddr s n.val) 64
    let f := templateBad (fieldLE r.1 40 47) (fieldLE r.1 28 29) r.2.2
    let normal := getF s F.DBG_STS_MFG_TEST 0 = 0
    (busy → ∀ e ∈ [Instr.create n, .teardown n, .kill n],
      ∃ t, exec e s = .next t ∧ RegsOnly s t [(F.CTX_CMD_STS_OVERRUN, 0, 1)]) ∧
    (¬busy → normal → x.state ≠ 0 → ∃ t, exec (.create n) s = .next t ∧ getF t F.CTX_CMD_STS_RESULT 0 = 1 ∧
      t = { s with regs := t.regs, regB := t.regB, regC := t.regC }) ∧
    (¬busy → normal → x.state = 0 → r.2.1 = true → ∃ t, exec (.create n) s = .next t ∧ getF t F.CTX_CMD_STS_RESULT 0 = 3 ∧
      MemSide { s with regs := t.regs, regB := t.regB, regC := t.regC } t) ∧
    (¬busy → normal → x.state = 0 → r.2.1 = false → tableBad r.1 = true ∨ f.1 = true →
      ∃ t, exec (.create n) s = .next t ∧ getF t F.CTX_CMD_STS_RESULT 0 = 4 ∧
        MemSide { s with regs := t.regs, regB := t.regB, regC := t.regC } t) ∧
    (¬busy → getF s F.DBG_STS_MFG_TEST 0 = 1 → ∃ t, exec (.create n) s = .next t ∧
      t = { s with freshIdx := s.freshIdx + 1, regs := t.regs, regB := t.regB, regC := t.regC } ∧
      getF t F.CTX_CMD_STS_RESULT 0 = (Config.freeBits s.freshIdx).toNat % 8) ∧
    (∀ l u, ¬busy → normal → x.state = 0 → r.2.1 = false → tableBad r.1 = false → f.1 = false →
      pinCheck f.2 n.val (fieldLE r.1 8 15) x.gen true (pagesOf (fieldLE r.1 16 23) (fieldLE r.1 24 27 * 65536)) = (.ok l, u) →
      emberFits u (fieldLE r.1 35 35) l = true →
      ∃ t, exec (.create n) s = .next t ∧ ctxOf t n.val = freshCtx x r.1 ∧ (∀ j, j ≠ n.val → ctxOf t j = ctxOf s j) ∧
        getF t F.CTX_CMD_STS_RESULT 0 = 0 ∧ getF t F.CTX_CMD_STS_BUSY 0 = 0 ∧
        getF t F.CTX_CMD_STS_GEN 0 = x.gen % 2 ^ (F.CTX_CMD_STS_GEN.hi + 1 - F.CTX_CMD_STS_GEN.lo) ∧
        (∀ v, v < 128 → vcOf t n.val v = VcSt.reset) ∧
        MemSide { s with ctxs := t.ctxs, vcs := t.vcs, sched := t.sched, col := t.col, regs := t.regs, regB := t.regB,
                         regC := t.regC } t) ∧
    (∀ e ∈ [Instr.teardown n, .kill n], (¬busy → x.state = 0 → ∃ t, exec e s = .next t ∧ getF t F.CTX_CMD_STS_RESULT 0 = 1 ∧
        t = { s with regs := t.regs, regB := t.regB, regC := t.regC }) ∧
      (¬busy → x.state = 1 → ∃ t, exec e s = .next t ∧ (ctxOf t n.val).state = 3 ∧ (ctxOf t n.val).cmdBusy = true ∧
        (ctxOf t n.val).gen = x.gen ∧ getF t F.CTX_CMD_STS_BUSY 0 = 1 ∧
        (∀ c b, c < 128 → (coreOf s c).bound = some b → b.ctx = n.val → coreState t c = 4) ∧
        (∀ q, (queueOf s q).state = 1 ∨ (queueOf s q).state = 2 → qClass (queueOf s q).desc ≠ 3 → qCtx (queueOf s q).desc = n.val →
          (queueOf t q).state = 3) ∧ t.pending = s.pending)) ∧
    (x.state = 3 → x.gen = x.dieGen → ∃ t, exec (.drainComplete n) s = .next t ∧
      ctxOf t n.val = { x with gen := (x.gen + 1) % 2 ^ 20 } ∧ (∀ j, j ≠ n.val → ctxOf t j = ctxOf s j) ∧
      MemSide { s with ctxs := t.ctxs } t) ∧
    (x.state = 3 → x.gen = x.dieGen → x.since + 500000 ≤ ftNow s → ∃ t, exec (.drainTimeout n) s = .next t ∧
      ctxOf t n.val = { x with gen := (x.gen + 1) % 2 ^ 20, endinfo := x.endinfo ||| 2 } ∧
      (∀ j, j ≠ n.val → ctxOf t j = ctxOf s j) ∧ WordsAre s t [bump s F.CTX_CNT1_DRAIN_TIMEOUT_CNT 0] ∧
      MemSide { s with ctxs := t.ctxs, regs := t.regs, regB := t.regB, regC := t.regC } t)

/-- GENERATION_ACK puts the context in QUARANTINE at the advanced generation, drops every translation of it, and a sweep marker
of every lane is due; an echo of that generation takes its lane off (SWEEP_MARKER), a marker is echoed on a link that is UP or
retrains, and SWEEP_TIMEOUT after 2 ms takes a link off and records it.
SWEEP_COMPLETE with nothing due frees the context and its cores and ends the CTX_CMD that waits with RESULT 0 (R271, R272). -/
def Obligations.QuarantineSweep : Prop :=
  ∀ (n : CtxId) (s : State),
    let x := ctxOf s n.val
    (x.state = 3 → x.gen ≠ x.dieGen → ∃ t, exec (.generationAck n) s = .next t ∧
      (ctxOf t n.val).state = 4 ∧ (ctxOf t n.val).gen = x.gen ∧ (ctxOf t n.val).dieGen = x.gen ∧
      (∀ l v, l < 48 → v < 4 → (l, v) ∈ (ctxOf t n.val).markers) ∧ (∀ d e, d < 9 → e ∈ xltOf t d → e.ctx ≠ n.val) ∧
      (∀ j, j ≠ n.val → ctxOf t j = ctxOf s j) ∧ t.pending = s.pending) ∧
    (∀ (l : LinkId) (v : Fin 4) (p : Packet), p.op = 0x09 → p.ctxgen.toNat % 4096 = n.val →
      (x.state = 4 → x.gen = p.ctxgen.toNat / 4096 → ∃ t, exec (.sweepMarker l v p) s = .next t ∧
        t = setCtx s n.val { x with markers := x.markers.erase (l.val, v.val) }) ∧
      (x.state ≠ 4 ∨ x.gen ≠ p.ctxgen.toNat / 4096 → exec (.sweepMarker l v p) s = .next s)) ∧
    (∀ (l : LinkId) (v : Fin 4) (p : Packet), p.op = 0x08 → linkState s l.val ≠ 2 → linkState s l.val ≠ 3 →
      exec (.sweepMarker l v p) s = .next s) ∧
    (∀ (l : LinkId) (v : Fin 4) (p : Packet), p.op = 0x08 → linkState s l.val = 2 ∨ linkState s l.val = 3 →
      ∃ t, exec (.sweepMarker l v p) s = .next t ∧ t = sendOn s l.val { sweepPacket s l.val v 0x09 p.ctxgen with dst := p.src } false) ∧
    (∀ l : LinkId, x.state = 4 → x.markers.any (fun m => m.1 == l.val) = true → x.since + 2000000 ≤ ftNow s →
      ∃ t, exec (.sweepTimeout n l) s = .next t ∧
        ctxOf t n.val = { x with endinfo := x.endinfo ||| 4, markers := x.markers.filter (fun m => m.1 != l.val) } ∧
        MemSide { s with ctxs := t.ctxs } t) ∧
    (x.state = 4 → x.markers = [] → x.flr = false → ∃ t, exec (.sweepComplete n) s = .next t ∧
      (ctxOf t n.val).state = 0 ∧ (ctxOf t n.val).gen = x.gen ∧
      (∀ c b, c < 128 → (coreOf s c).bound = some b → b.ctx = n.val → (coreOf t c).bound = none ∧ coreState t c = 0) ∧
      (x.cmdBusy = true → getF t F.CTX_CMD_STS_RESULT 0 = 0 ∧ getF t F.CTX_CMD_STS_BUSY 0 = 0) ∧
      (∀ cd a, cd < 8 → a ∈ (schedOf t cd).dsmAlloc → a.1 ≠ n.val) ∧ t.pending = s.pending)

/-- XLT_INVAL stores its fields; with a good scope and no locked translation in it, it drops every translation in the scope
on every die and sets BUSY, which XLT_INVAL_DONE clears once no staged transfer in phase W uses one of them; a locked one, a
bad scope or BUSY leaves every translation (R247, R260, R274). TRANSLATION_WALK that succeeds caches its page at the die and
changes no context or core; one of a core that faults gives the core a stop report XLATE_FAULT and a fault record that covers
it (R258, R264). FAULT_RECORD moves the oldest waiting record to the ring slot at FLT_TAIL with the next sequence number,
arms its service bound and moves FLT_TAIL on, unless the ring is full (R265, R267). FLT_HEAD frees slots. FLT_RESP RETRY of
an awaited record closes it and resumes what it covers; ABORT closes it and ends the context's activity as a KILL does; one
that no record awaits is counted and ignored; the service bound does as ABORT does (R266, R267). -/
def Obligations.TranslationAndFaults : Prop :=
  (∀ (n : CtxId) (s : State),
    let busy := getF s F.XLT_INVAL_STS_BUSY 0 = 1
    (∀ (sc : Fin 4) (va : BitVec 48),
      let badScope := sc = 3 ∨ (sc = 1 ∧ va.toNat / 65536 % 32 ≠ 0) ∨ (ctxOf s n.val).state = 0
      let stored := [(F.XLT_INVAL_LO_VA_LO, 0, va.toNat / 65536 % 65536), (F.XLT_INVAL_HI_VA_HI, 0, va.toNat / 2 ^ 32),
        (F.XLT_INVAL_HI_CTX, 0, n.val), (F.XLT_INVAL_HI_SCOPE, 0, sc.val)]
      let locked := ∃ d e, d < 9 ∧ e ∈ xltOf s d ∧ e.locked = true ∧ xltInScope n.val sc.val va.toNat e = true
      (busy → ∃ t, exec (.xltInval n sc va) s = .next t ∧ RegsOnly s t [(F.XLT_INVAL_STS_OVERRUN, 0, 1)]) ∧
      (¬busy → badScope → ∃ t, exec (.xltInval n sc va) s = .next t ∧ RegsOnly s t (stored ++ [(F.XLT_INVAL_STS_RESULT, 0, 2)])) ∧
      (¬busy → ¬badScope → locked → ∃ t, exec (.xltInval n sc va) s = .next t ∧
        RegsOnly s t (stored ++ [(F.XLT_INVAL_STS_RESULT, 0, 1)])) ∧
      (¬busy → ¬badScope → ¬locked → ∃ t, exec (.xltInval n sc va) s = .next t ∧
        (∀ d, d < 9 → xltOf t d = (xltOf s d).filter (fun e => !xltInScope n.val sc.val va.toNat e)) ∧
        (∀ d, 9 ≤ d → xltOf t d = xltOf s d) ∧
        (∀ a, rdWord t a = rdWord (putFields s (stored ++ [(F.XLT_INVAL_STS_RESULT, 0, 0), (F.XLT_INVAL_STS_BUSY, 0, 1)])) a) ∧
        t = { s with xlt := t.xlt, regs := t.regs, regB := t.regB, regC := t.regC })) ∧
    (pinsInScope s = false → ∃ t, exec .xltInvalDone s = .next t ∧ RegsOnly s t [(F.XLT_INVAL_STS_BUSY, 0, 0)]) ∧
    (∀ (c : CoreId) (va : BitVec 48) (acc : Access) (b : Binding3), (coreOf s c.val).bound = some b → b.ctx = n.val →
      (ctxOf s n.val).state = 1 →
      (∀ d u, translate s (cdOf c.val) n.val va.toNat acc = (.ok d, u) →
        ∃ t, exec (.translationWalk (.core c) n va acc) s = .next t ∧ t = u ∧ MemSide s t ∧
          ∃ e ∈ xltOf t (cdOf c.val), xltHit e n.val (ctxOf s n.val).gen (va.toNat / 65536) = true ∧ xltAddr e va.toNat = d) ∧
      (∀ f l p u, translate s (cdOf c.val) n.val va.toNat acc = (.fault f l p, u) →
        ∃ t, exec (.translationWalk (.core c) n va acc) s = .next t ∧
          (coreOf t c.val).reports = (coreOf s c.val).reports ++ [⟨5, 0⟩] ∧ coveredOpen t (.core n.val b.vcore) = true ∧
          MemSide { s with cores := t.cores, faults := t.faults } t)) ∧
    (∀ (u : XUnit) (va : BitVec 48) (acc : Access), ∃ t, exec (.translationWalk u n va acc) s = .next t ∧ t.pending = s.pending)) ∧
  (∀ (s : State),
    let tail := getF s F.FLT_TAIL_TAIL 0
    let n := fltRingSize s
    let base := getPair s F.FLT_RING_BASE_LO_BASE_LO F.FLT_RING_BASE_HI_BASE_HI 0
    (∀ r l, s.faults.waiting = r :: l → (tail + 1) % n ≠ getF s F.FLT_HEAD_HEAD 0 % n → ∃ t, exec .faultRecord s = .next t ∧
      t.faults.waiting = l ++ s.faults.beyond.take 1 ∧ t.faults.beyond = s.faults.beyond.drop 1 ∧
      t.faults.opened = s.faults.opened ++ [{ r with seq := s.faults.seq }] ∧ t.faults.seq = (s.faults.seq + 1) % 2 ^ 32 ∧
      (∀ a, sget 0 t.hostMem a = if base + 64 * tail ≤ a ∧ a < base + 64 * tail + 64 then
        (faultBytes { r with seq := s.faults.seq } (ftNow s)).getD (a - (base + 64 * tail)) 0 else sget 0 s.hostMem a) ∧
      armedAs t iodDie (.faultService s.faults.seq) ≠ [] ∧
      t = { s with faults := t.faults, hostMem := t.hostMem, wheels := t.wheels, outbox := t.outbox, msix := t.msix,
                   regs := t.regs, regB := t.regB, regC := t.regC }) ∧
    (∀ h : BitVec 16, ∃ t, exec (.fltHead h) s = .next t ∧ RegsOnly s t [(F.FLT_HEAD_HEAD, 0, h.toNat)]) ∧
    (∀ seq : BitVec 24, (∀ r ∈ s.faults.opened, r.seq % 2 ^ 24 ≠ seq.toNat) → (∀ m ∈ s.faults.expired, m % 2 ^ 24 ≠ seq.toNat) →
      ∀ e ∈ [Instr.fltRespRetry seq, .fltRespAbort seq],
        ∃ t, exec e s = .next t ∧ RegsOnly s t [bump s F.CTX_CNT0_FRESP_STALE_CNT 0]) ∧
    (∀ (seq : BitVec 24) r l, s.faults.opened = r :: l → r.seq % 2 ^ 24 = seq.toNat → (ctxOf s r.ctx).state = 1 →
      (ctxOf s r.ctx).gen = r.gen →
      (r.covers = [] → ∃ t, exec (.fltRespRetry seq) s = .next t ∧ t.faults.opened = l ∧
        armedAs t iodDie (.faultService r.seq) = [] ∧
        t = { s with faults := t.faults, wheels := t.wheels, regs := t.regs, regB := t.regB, regC := t.regC }) ∧
      (∀ v, r.covers = [.core r.ctx v] → v < 128 → (vcOf s r.ctx v).dir = 1 → coreState s (vcOf s r.ctx v).core = 5 →
        xferSuspended (coreOf s (vcOf s r.ctx v).core).xfers = false →
        (coreOf s (vcOf s r.ctx v).core).winFault = [] → (coreOf s (vcOf s r.ctx v).core).halting = false →
        (∀ r' ∈ s.faults.waiting ++ l ++ s.faults.beyond, ∀ z ∈ r'.covers,
          z ≠ .core r.ctx v ∧ ∀ i, z ≠ .xfer r.ctx v i ∧ z ≠ .window r.ctx v i) →
        ∃ t, exec (.fltRespRetry seq) s = .next t ∧ t.faults.opened = l ∧ coreState t (vcOf s r.ctx v).core = 1 ∧
          coreOf t (vcOf s r.ctx v).core = { coreOf s (vcOf s r.ctx v).core with icache := [] } ∧
          ∀ d, d ≠ (vcOf s r.ctx v).core → coreOf t d = coreOf s d) ∧
      (r.ctx < 4096 → ∃ t, exec (.fltRespAbort seq) s = .next t ∧ (ctxOf t r.ctx).state = 3 ∧ t.pending = s.pending)) ∧
    (∀ (seq : BitVec 32) r l, s.faults.opened = r :: l → r.seq = seq.toNat → hasFired s iodDie (.faultService seq.toNat) = true →
      (ctxOf s r.ctx).state = 1 → r.ctx < 4096 →
      ∃ t, exec (.faultServiceTimeout seq) s = .next t ∧ (ctxOf t r.ctx).state = 3 ∧ seq.toNat ∈ t.faults.expired ∧
        t.pending = s.pending))

/-! ### Device memory (R195 to R217, R373, R375) -/

/-- DEVICE_MEMORY_READ answers with the bytes at the DPA, corrected, marked poisoned where a line is flagged or
uncorrectable, and leaves every byte as it was; DEVICE_MEMORY_WRITE puts its bytes there, no other byte changes, its poison
marks each line and each window page it touches is noted in both banks. The accesses to a line whose MD has not reported
FILL_DONE wait at that MD, and the answer to a read with them (R217). A stale read reads as zeros marked poisoned, a stale
write is dropped (R255), and so is an access that ends beyond device memory (R197). CRC_RETRY counts each reissue; the third
repeat of a write that fails too flags the line (R208). CACHE_EVICTION takes the line out of the cache, a dirty one written
back (R211); CACHE_WALK corrects the cached lines of an MD and drops those it cannot correct, a dirty one written back
flagged (R213). SCRUB_BLOCK moves the scrubber on, flags lines that cannot be corrected and keeps in staging slice 0 what it
corrects, which SCRUB_WRITEBACK stores unless the line was written since (R214, R215). PERIODIC_RETRAIN changes nothing
(R196). -/
def Obligations.MemoryAccessAndScrub : Prop :=
  ((∀ (r : MemRead) (s : State),
    let a := r.dpa.toNat
    let stale := ∃ cg, r.ctxgen = some cg ∧ staleDie s cg = true
    (stale ∨ dpaLimit < a + r.len → ∃ t, exec (.deviceMemoryRead r) s = .next t ∧
      t.outbox = s.outbox ++ [.readResp (List.replicate r.len 0) true] ∧
      t = { s with outbox := t.outbox, regs := t.regs, regB := t.regB, regC := t.regC }) ∧
    (CacheOk s → HeldOk s → ¬stale → a + r.len ≤ dpaLimit → ∃ t bs p, exec (.deviceMemoryRead r) s = .next t ∧
      (unfilledMds s a r.len = [] →
        t.outbox = s.outbox ++ snoopsFor s (linesOf a r.len) 0 ++ [.readResp bs p] ∧ t.answers = s.answers) ∧
      (unfilledMds s a r.len ≠ [] → t.outbox = s.outbox ++ snoopsFor s (linesOf a r.len) 0 ∧
        t.answers = s.answers ++ [⟨unfilledMds s a r.len, bs, p, 0⟩]) ∧
      bs.length = r.len ∧ (∀ i, i < r.len → bs.getD i 0 = lineByte s (a + i)) ∧
      (p = true ↔ ∃ l ∈ linesOf a r.len, peekPoison s l = true ∨ lineBad s l) ∧ MemKept s t ∧
      (∀ m, (mdOf t m).held = (mdOf s m).held ++
        ((linesOf a r.len).filter (fun l => dpaMd (64 * l) == m && !mdFilled s m)).map (fun l => MemReq.rd l r.cls)) ∧
      MemSide { s with outbox := t.outbox, answers := t.answers } t)) ∧
  (∀ (w : MemWrite) (s : State),
    let a := w.dpa.toNat
    let n := w.data.length
    let stale := ∃ cg, w.ctxgen = some cg ∧ staleDie s cg = true
    (stale → ∃ t, exec (.deviceMemoryWrite w) s = .next t ∧ RegsOnly s t [bump s F.MD_ECC_CNT3_STALE_DROP_CNT (dpaMd a)]) ∧
    (¬stale → dpaLimit < a + n → ∃ t, exec (.deviceMemoryWrite w) s = .next t ∧
      RegsOnly s t [bump s F.MD_ECC_CNT3_RANGE_CNT 0]) ∧
    (CacheOk s → ¬stale → a + n ≤ dpaLimit → ∃ t, exec (.deviceMemoryWrite w) s = .next t ∧ MemStored s t a w.data ∧
      (∀ l ∈ linesOf a n, (w.poison = true → peekPoison t l = true) ∧
        (mdFilled s (dpaMd (64 * l)) = true → ∀ pg, windowPage s (64 * l) = some pg → sget 0 t.twin.w pg = 3)) ∧
      (∀ x ∈ linePieces (n + 1) a w.data, mdFilled s (dpaMd (64 * x.1)) = false →
        MemReq.wr x.1 x.2.1 x.2.2 w.poison w.cls ∈ (mdOf t (dpaMd (64 * x.1))).held) ∧ MemSide s t))) ∧
  ((∀ (dpa : BitVec 40) (w last : Bool) (s : State),
    let m := dpaMd dpa.toNat
    let l := dpa.toNat / 64
    let n := match (mdOf s m).crc with
      | some (k, v, j) => if k = l ∧ v = w then j + 1 else 1
      | none => 1
    ∃ t, exec (.crcRetry dpa w last) s = .next t ∧ CountsOne s t F.MD_ECC_CNT1_CRC_RETRY_CNT m ∧ MemKept s t ∧
      (w = true ∧ last = true ∧ n = 3 → sget 0 t.dramPoison l = 7 ∧ ∀ k, k ≠ l → peekPoison t k = peekPoison s k) ∧
      (¬(w = true ∧ last = true ∧ n = 3) → t.dramPoison = s.dramPoison) ∧
      mdOf t m = { mdOf s m with crc := if n < 3 then some (l, w, n) else none } ∧ (∀ j, j ≠ m → mdOf t j = mdOf s j) ∧
      t = { s with mds := t.mds, dramPoison := t.dramPoison, regs := t.regs, regB := t.regB, regC := t.regC }) ∧
  (∀ (dpa : BitVec 40) (s : State), CacheOk s →
    let l := dpa.toNat / 64
    (cacheGet s l = none → exec (.cacheEviction dpa) s = .next s) ∧
    (∀ c, cacheGet s l = some c → ∃ t, exec (.cacheEviction dpa) s = .next t ∧ cacheGet t l = none ∧
      (∀ k, k ≠ l → cacheGet t k = cacheGet s k) ∧ MemKept s t ∧ MemSide s t ∧
      (c.dirty = false → t = cacheDrop s l) ∧
      (c.dirty = true → (sget 0 t.dramPoison l = 7 ↔ c.poison = true ∨ cacheBad c) ∧
        ∀ g, g < 4 → dramDiff t l g = 0))) ∧
  (∀ (m : MdId) (s : State), swf none s.cache = true → CacheOk s → ∃ t, exec (.cacheWalk m) s = .next t ∧ MemKept s t ∧
    MemSide s t ∧
    (∀ l c, cacheGet s l = some c → dpaMd (64 * l) = m.val →
      (¬cacheBad c → cacheGet t l = some { c with data := (scanLine c.data (cacheDiff c) allGranules).data, chk := 0 }) ∧
      (cacheBad c → cacheGet t l = none ∧ (c.dirty = true → sget 0 t.dramPoison l = 7))) ∧
    (∀ l, dpaMd (64 * l) ≠ m.val ∨ cacheGet s l = none → cacheGet t l = cacheGet s l)) ∧
  (∀ (m : MdId) (s : State),
    let pos := getF s F.MD_SCRUB_POS_BLOCK m.val
    let stopped := getF s F.MD_SCRUB_RATE_PERIOD m.val = 0 ∨ getF s F.MD_STS_FILL_DONE m.val = 0
    (stopped → exec (.scrubBlock m) s = .next s) ∧
    (¬stopped → (mdOf s m.val).scrub = [] → ∃ t, exec (.scrubBlock m) s = .next t ∧
      getF t F.MD_SCRUB_POS_BLOCK m.val = (pos + 1) % scrubBlocks ∧ MemKept s t ∧ MemSide s t ∧
      ∀ slot, slot < 7 →
        let l := dpaOfBlock m.val (pos % 6) (pos / 6) slot / 64
        let r := scanLine (dramLine s l) (dramDiff s l) allGranules
        (∀ c, cacheGet s l = some c → c.dirty = false) →
          (r.bads ≠ [] → sget 0 t.dramPoison l = 7) ∧
          (r.bads = [] → r.fixes ≠ [] →
            ⟨l, flagSplit (sget 0 s.dramPoison l), false⟩ ∈ (mdOf t m.val).scrub ∧ stgGet t m.val 0 (64 * slot) 64 = (r.data, false)))) ∧
  (∀ (m : MdId) (s : State), ((mdOf s m.val).scrub.map (fun f => f.line)).Nodup →
    ∃ t, exec (.scrubWriteback m) s = .next t ∧ (mdOf t m.val).scrub = [] ∧ t.cache = s.cache ∧ MemSide s t ∧
      (∀ f ∈ (mdOf s m.val).scrub,
        let held := stgGet s m.val 0 (64 * dpaSlot (64 * f.line)) 64
        dramLine t f.line = (if f.overwritten then dramLine s f.line else held.1) ∧
        voteFlag (sget 0 t.dramPoison f.line) = (voteFlag (sget 0 s.dramPoison f.line) || (!f.overwritten && held.2))) ∧
      (∀ l, (∀ f ∈ (mdOf s m.val).scrub, f.line ≠ l) → dramLine t l = dramLine s l)) ∧
  (∀ (m : MdId) (pair : Fin 6) (s : State), exec (.periodicRetrain m pair) s = .next s))

/-- MEMORY_TRAINING of a booted MD: a good attempt trains its pair, and the last pair sets TRAIN_DONE; a third failed one sets the
pair's bit of PAIR_FAIL and TRAIN_FAIL, whatever the other pairs did (R195). MEMORY_FILL of a trained MD, of a DSM or of an SPM
leaves zeros and clear flags, and the last of all releases the cores of a booted module (R216). FILL_DONE lets what the MD held
go on, and the answers that waited for it alone leave (R217). KILN_YIELD gives up a slice that overlap staging waits for, and
STAGING_SLICE_GRANT gives a free one to the first that waits (R33, R34). -/
def Obligations.TrainingFillStaging : Prop :=
  ∀ (m : MdId) (s : State),
    let x := mdOf s m.val
    (∀ (pair : Fin 6), getF s F.MOD_STS_BOOTED 0 = 1 → sget 0 x.tries pair.val < 3 → sget false x.trained pair.val = false →
      (∃ t, exec (.memoryTraining m pair true) s = .next t ∧ sget false (mdOf t m.val).trained pair.val = true ∧
        ((∀ p, p < 6 → p ≠ pair.val → sget false x.trained p = true) → getF t F.MD_STS_TRAIN_DONE m.val = 1) ∧
        t = { s with mds := t.mds, regs := t.regs, regB := t.regB, regC := t.regC }) ∧
      (∃ t, exec (.memoryTraining m pair false) s = .next t ∧ sget 0 (mdOf t m.val).tries pair.val = sget 0 x.tries pair.val + 1 ∧
        (2 ≤ sget 0 x.tries pair.val → getF t F.MD_STS_TRAIN_FAIL m.val = 1 ∧
          (getF t F.MD_STS_PAIR_FAIL m.val).testBit pair.val = true) ∧
        t = { s with mds := t.mds, regs := t.regs, regB := t.regB, regC := t.regC, outbox := t.outbox, msix := t.msix })) ∧
    (getF s F.MD_STS_TRAIN_DONE m.val = 1 → getF s F.MD_STS_FILL_DONE m.val = 0 →
      ∃ t, exec (.memoryFill (.md m)) s = .next t ∧ mdOf t m.val = { x with filled := true, stg := Sram.zero, recent := [] } ∧
        (∀ j, j ≠ m.val → mdOf t j = mdOf s j) ∧
        (∀ l, dpaMd (64 * l) = m.val → dramLine t l = List.replicate 64 0 ∧ (∀ g, g < 4 → dramDiff t l g = 0) ∧
          sget 0 t.dramPoison l = 0 ∧ cacheGet t l = none) ∧
        (∀ l, dpaMd (64 * l) ≠ m.val → dramLine t l = dramLine s l ∧ (∀ g, g < 4 → dramDiff t l g = dramDiff s l g) ∧
          sget 0 t.dramPoison l = sget 0 s.dramPoison l ∧ cacheGet t l = cacheGet s l) ∧
        t = { s with dram := t.dram, dramChk := t.dramChk, dramPoison := t.dramPoison, cache := t.cache, mds := t.mds }) ∧
    (∀ d : CdId, (sget false s.sramFilled d.val = true → exec (.memoryFill (.dsm d)) s = .next s) ∧
      (sget false s.sramFilled d.val = false → ∃ t, exec (.memoryFill (.dsm d)) s = .next t ∧
        sget Sram.zero t.dsm d.val = Sram.zero ∧ (∀ j, j ≠ d.val → sget Sram.zero t.dsm j = sget Sram.zero s.dsm j) ∧
        t.sramFilled = sset false s.sramFilled d.val true ∧
        (allFilled t = true → getF s F.MOD_STS_BOOTED 0 = 1 → getF s F.DBG_STS_MFG_TEST 0 = 0 → getF t F.MOD_STS_CORES_REL 0 = 1) ∧
        t = { s with dsm := t.dsm, sramFilled := t.sramFilled, ft := t.ft, regs := t.regs, regB := t.regB, regC := t.regC })) ∧
    (∀ c : CoreId, (sget false s.sramFilled (8 + c.val) = true → exec (.memoryFill (.spm c)) s = .next s) ∧
      (sget false s.sramFilled (8 + c.val) = false → ∃ t, exec (.memoryFill (.spm c)) s = .next t ∧
        coreOf t c.val = { coreOf s c.val with spm := Sram.zero } ∧ (∀ d, d ≠ c.val → coreOf t d = coreOf s d) ∧
        t.sramFilled = sset false s.sramFilled (8 + c.val) true ∧
        (allFilled t = true → getF s F.MOD_STS_BOOTED 0 = 1 → getF s F.DBG_STS_MFG_TEST 0 = 0 → getF t F.MOD_STS_CORES_REL 0 = 1) ∧
        t = { s with cores := t.cores, sramFilled := t.sramFilled, ft := t.ft, regs := t.regs, regB := t.regB, regC := t.regC })) ∧
    (x.filled = false ∨ getF s F.MD_STS_FILL_DONE m.val = 1 → exec (.fillDone m) s = .next s) ∧
    (x.filled = true → getF s F.MD_STS_FILL_DONE m.val = 0 →
      let l := s.answers.map (fun a => { a with mds := a.mds.erase m.val })
      ∃ t o, exec (.fillDone m) s = .next t ∧ getF t F.MD_STS_FILL_DONE m.val = 1 ∧ (mdOf t m.val).held = [] ∧
        (∀ z ∈ o, ∃ a kind, z = OutMsg.snoop a kind) ∧
        t.outbox = s.outbox ++ o ++ (l.filter (fun a => a.mds.isEmpty)).map (fun a => OutMsg.readResp a.data a.poison) ∧
        t.answers = l.filter (fun a => !a.mds.isEmpty) ∧
        (CacheOk s → (∀ k, dpaMd (64 * k) = m.val → dramLine s k = List.replicate 64 0 ∧ cacheGet s k = none ∧
            ∀ g, g < 4 → dramDiff s k g = 0) →
          (∀ r ∈ x.held, match r with
            | .rd k _ => dpaMd (64 * k) = m.val
            | .wr k off bs _ _ => dpaMd (64 * k) = m.val ∧ off + bs.length ≤ 64) → MemKept s t) ∧
        MemSide { s with outbox := t.outbox, answers := t.answers, ft := t.ft, regs := t.regs, regB := t.regB, regC := t.regC } t) ∧
    (x.stgWait ≠ [] → freeSlices x = [] → x.stgKiln ≠ [] → ∃ t, exec (.kilnYield m) s = .next t ∧
      mdOf t m.val = { x with stgKiln := x.stgKiln.dropLast } ∧ (∀ j, j ≠ m.val → mdOf t j = mdOf s j) ∧
      CountsOne s t F.MD_STG_CNT_KILN_YIELD_CNT m.val ∧
      t = { s with mds := t.mds, regs := t.regs, regB := t.regB, regC := t.regC }) ∧
    (∀ u l n r, x.stgWait = u :: l → freeSlices x = n :: r →
      let all := x.stgOvl.length = 5
      ∃ t, exec (.stagingSliceGrant m) s = .next t ∧
        mdOf t m.val = { x with stgOvl := x.stgOvl ++ [(u.1, n)], stgWait := if all then l.map (fun z => (z.1, true)) else l } ∧
        (∀ j, j ≠ m.val → mdOf t j = mdOf s j) ∧
        getF t F.MD_STG_CNT_OVL_WAIT_CNT m.val = (if all then
          min (getF s F.MD_STG_CNT_OVL_WAIT_CNT m.val + (l.filter (fun z => !z.2)).length)
            (2 ^ (F.MD_STG_CNT_OVL_WAIT_CNT.hi + 1 - F.MD_STG_CNT_OVL_WAIT_CNT.lo) - 1)
          else getF s F.MD_STG_CNT_OVL_WAIT_CNT m.val) ∧
        t = { s with mds := t.mds, regs := t.regs, regB := t.regB, regC := t.regC })

/-- WHEEL_ENTRY_FIRING fires the entry whose deadline tick comes first, a scheduled event before a timeout of the same tick
(R27), and COARSE_WATCHDOG_FIRING the first due timeout (R28): it leaves its list and stands fired until its action's step;
with nothing due nothing changes. TEVENT_AT_T vetoes where a member is not armed, too few arrived, time is not LOCKED or the
wheel refused; TEVENT_RELEASE ends it with TIMER_FULL, VETO or OK (R362). CLAIM_EXPIRY ends a silent claim and frees the slot
that it holds (R360). CONTRIB_HOLD_TIMEOUT completes the contribution that no GATE took (R355); LOCAL_GATE_COMBINE forms the
local value in the order of the virtual cores (R181); GATE_VERDICT ends the GATE with APPLY or SKIP and its cause (R182,
R183), GATE_DEADLINE with SKIP for TIMEOUT (R187); SEAL_EVALUATION takes the seal, a number higher, when every core of the
context meets R188, a banked one by its saved state, and completes with it. -/
def Obligations.TimersAndGates : Prop :=
  (∀ (die : DieId) (s : State),
    let w := wheelOf s die.val
    (∀ pre post e, FirstToAct (ftNow s) w.entries pre post e → ∃ t, exec (.wheelEntryFiring die) s = .next t ∧
      t = setWheel s die.val { w with entries := pre ++ post, fired := w.fired ++ [e] }) ∧
    ((∀ e ∈ w.entries, ftNow s < e.due) → exec (.wheelEntryFiring die) s = .next s) ∧
    (∀ pre post e, FirstToAct (ftNow s) w.coarse pre post e → ∃ t, exec (.coarseWatchdogFiring die) s = .next t ∧
      t = setWheel s die.val { w with coarse := pre ++ post, fired := w.fired ++ [e] }) ∧
    ((∀ e ∈ w.coarse, ftNow s < e.due) → exec (.coarseWatchdogFiring die) s = .next s)) ∧
  ((∀ (gr : GroupId) (s : State) (r : GroupRun) (e : EntrySt),
    let q := r.cmd.q
    let i := r.cmd.i
    let kind := fieldLE r.cmd.ent 20 20
    let n := cSeqOf r.cmd.ent
    (groupOf s gr.val).run = some r → entryOf s q i = some e →
    (∀ x, tevOf s gr.val n = some x → x.atT = true →
      hasFired s iodDie (.teventEnd gr.val n) = true ∨ (x.refused = true ∧ tRelease r.cmd ≤ ftNow s) →
      (x.refused = true → ∃ t, exec (.teventRelease gr) s = .next t ∧ RunEnds s t gr.val r e 0x0A 0) ∧
      (∀ m, x.refused = false → x.vetoed = some m →
        ∃ t, exec (.teventRelease gr) s = .next t ∧ RunEnds s t gr.val r e 0x55 m) ∧
      (x.refused = false → x.vetoed = none → ∃ t u, exec (.teventRelease gr) s = .next t ∧ RunEnds s u gr.val r e 0 0 ∧
        t = { u with col := { u.col with
          due := s.col.due ++ (if kind = 0 then [] else [(gr.val, kind, cDst r.cmd.ent, tT r.cmd)]) } })) ∧
    (entOp r.cmd.ent = 0x10 → r.lval = none → r.contribs.length = gNlocal r.cmd →
      ∃ t r', exec (.localGateCombine gr) s = .next t ∧ (groupOf t gr.val).run = some r' ∧ r'.cmd = r.cmd ∧
        r'.contribs = r.contribs ∧ r'.lval = some (localValue (fieldLE r.cmd.ent 20 23) r.contribs) ∧ CollSide s t) ∧
    (∀ w x, entOp r.cmd.ent = 0x10 → (∀ c ∈ r.contribs, ¬(c.q = q ∧ c.i = i)) → collGo s gr.val = w →
      (groupOf w gr.val).run = some x → x.susp = false → treeDone x = true →
      let v := gateOf x.gval
      let late := (armedAs w iodDie (.gateDeadline gr.val)).any (fun n => decide (n.deadline ≤ ftNow s))
      let cause := gateCause v + (if late then 16 else 0)
      let verdict := if v.nf = 0 ∧ isFin32 v.ssq = true ∧ v.pz = false ∧ v.mis = false then 0 else 1
      ∃ t, exec (.gateVerdict gr) s = .next t ∧ RunEnds s t gr.val r e 0 (verdict + 256 * cause) ∧
        (∀ c, x.contribs = [c] → (ctxOf s c.ctx).state = 1 → (ctxOf s c.ctx).gen = c.gen → c.vcore < (ctxOf s c.ctx).ncore →
          (vcOf s c.ctx c.vcore).dir = 1 →
          (coreOf s (vcOf s c.ctx c.vcore).core).gateStep.toNat = fieldLE r.cmd.ent 20 23 →
          getF t F.BWD_GATE_STS_STATE (vcOf s c.ctx c.vcore).core = 2 + verdict)) ∧
    (entOp r.cmd.ent = 0x10 → hasFired s iodDie (.gateDeadline gr.val) = true → (∀ c ∈ r.contribs, ¬(c.q = q ∧ c.i = i)) →
      ∃ t u, exec (.gateDeadline gr) s = .next t ∧ RunEnds s u gr.val r e 0 (1 + 8 * 256) ∧ t = { u with col := t.col } ∧
        (groupOf t gr.val).run = none ∧ (groupOf t gr.val).timedGate = (groupOf s gr.val).timedGate ++
          (if (gateOwed r).2.isEmpty then [] else [(n, gateOwed r)]))) ∧
  (∀ (gr : GroupId) (s : State) (x : TevSt),
    let n := cSeqOf x.cmd.ent
    let few := sget 0 (groupOf s gr.val).arrivals n < tNarrive x.cmd
    let doubt := x.allArmed = false ∨ few ∨ getF s F.FT_STS_LSTATE 0 ≠ 1 ∨ x.refused = true
    (groupOf s gr.val).tevs.find? (tevDue s gr.val) = some x → tevOf s gr.val n = some x →
    ∃ t y, exec (.teventAtT gr) s = .next t ∧ tevOf t gr.val n = some y ∧ y.atT = true ∧ (¬doubt → y.vetoed = x.vetoed) ∧
      (doubt → y.vetoed.isSome) ∧ CollSide s t) ∧
  (∀ (gr : GroupId) (n : BitVec 16) (s : State) (c : ClaimSt),
    s.col.claims.find? (fun c => c.num == n.toNat && c.gr == gr.val && c.live) = some c → c.last + 1000 * c.expUs ≤ ftNow s →
    ∃ t, exec (.claimExpiry gr n) s = .next t ∧ (∀ d ∈ t.col.claims, d.num = n.toNat → d.live = false) ∧
      CountsOne s t F.COL_CNT2_CLAIM_EXP_CNT 0 ∧ CollSide s t ∧
      ∀ u, CacheOk s → readTok s c.slot = ((c.token, 1, c.src), u) → c.slot % 16 = 0 → c.slot + 16 ≤ dpaLimit →
        MemStored s t c.slot (List.replicate 16 0)) ∧
  (∀ (q : QueueId) (i : EntryIdx) (s : State) (gr : Nat) (c : Contrib) (e : EntrySt),
    hasFired s iodDie (.contribHold q.val i.val) = true → s.col.groups.map (fun g => g.1) = [gr] → (groupOf s gr).held = [c] →
    c.q = q.val → c.i = i.val → entryOf s q.val i.val = some e →
    ∃ t u, exec (.contribHoldTimeout q i) s = .next t ∧ CollSide s u ∧ EntryDone u t q.val i.val e 0 0 ∧
      (groupOf t gr).held = []) ∧
  (∀ (q : QueueId) (i : EntryIdx) (s : State) (e : EntrySt),
    let k := qCtx (queueOf s q.val).desc
    let fails := (ctxCores s k).map (fun c => sealFails s c (fieldLE e.raw 16 19) (fieldLE e.raw 20 21)) ++
      (bankedVcs s k).map (fun v => savedFails s k v (fieldLE e.raw 16 19) (fieldLE e.raw 20 21))
    let num := (sget 0 s.col.sealNum k + 1) % 2 ^ 32
    entryOf s q.val i.val = some e → e.stage = 4 → entOp e.raw = 0x12 → e.prog = 0 → coveredOpen s (.coll q.val i.val) = false →
    sealFired s q.val i.val = true → fieldLE e.raw 24 31 + 1000 ≤ ftNow s →
    ((∀ f ∈ fails, f = 0) → ∃ t, exec (.sealEvaluation q i) s = .next t ∧ sget 0 t.col.sealNum k = num ∧
      (∀ c ∈ ctxCores s k, getF t F.BWD_SEAL_NUM_SEALNUM c = num ∧ (coreOf t c).pz = false) ∧
      (∀ v ∈ bankedVcs s k, (vcOf t k v).savedPz = false) ∧
      (entryOf t q.val i.val = none ∨ coveredOpen t (.coll q.val i.val) = true) ∧ t.pending = s.pending) ∧
    ((∃ f ∈ fails, f ≠ 0) → ∃ t, exec (.sealEvaluation q i) s = .next t ∧ sget 0 t.col.sealNum k = sget 0 s.col.sealNum k ∧
      t.twin.pass.isSome = s.twin.pass.isSome ∧
      (entryOf t q.val i.val = none ∨ coveredOpen t (.coll q.val i.val) = true) ∧ CollSide s t)))

/-! ### Kilns (R416 to R425) -/

/-- KILN_LOAD, KILN_READ and KILN_WRITE: an admitted entry whose slot is not LOADING completes with SLOT_STATE, one whose
plan is poisoned with POISON, one whose plan is bad with BAD_PLAN and the offset of its first bad byte, one whose known range
lies outside its slot's image with SLOT_STATE, one whose target is not UP with the target; one whose plan faults is suspended
by a fault record; any other becomes the last job of its kiln, with nothing finished (R416, R417, R422, R423). KILN_BLOCK
lets the current job of a kiln finish one block of an uncoded source: a KILN_WRITE issues an NVMe write of the block read, a
KILN_READ stores the block at DST + 65,536 x the block's number, a KILN_LOAD commits the quantised elements; the bytes that
have come from elsewhere must be there, else the job waits. A fault suspends the job, poison ends it with POISON, a failed
source with its own status and a bad frame of a coded one with DECODE (R418 to R422). KILN_JOB_COMPLETE completes the entry
of the first job that has ended, with its status and DETAIL (R424). -/
def Obligations.KilnTransfers : Prop :=
  (∀ (q : QueueId) (i : EntryIdx) (s : State) (e : EntrySt),
    ∀ c ∈ [(Instr.kilnLoad q i, 0x10), (Instr.kilnRead q i, 0x11), (Instr.kilnWrite q i, 0x12)],
    let op : Nat := c.2
    let sl := fieldLE e.raw 24 24
    let slot := if bitAt sl 7 && op != 0x12 then some (sl % 64) else none
    let started := setEntry s q.val i.val (some { e with stage := 4 })
    let k := qCtx (queueOf s q.val).desc
    let plan := dvaRead started iodDie k (fieldLE e.raw 16 23) 128 .normal
    let doneWith (st d : Nat) := ∃ t u, exec c.1 s = .next t ∧ MemSide started u ∧
      EntryDone u t q.val i.val { e with stage := 4 } st d
    Admitted s q.val i.val 1 op e → kilnOf s q.val i.val = none → coveredOpen s (.kiln q.val i.val) = false →
      (∀ n, slot = some n → (slotOf s n).state ≠ 1 →
        ∃ t, exec c.1 s = .next t ∧ EntryDone s t q.val i.val e 0x44 (slotOf s n).state) ∧
      ((∀ n, slot = some n → (slotOf s n).state = 1) →
        (∀ f u, plan = (.error f, u) → ∃ t, exec c.1 s = .next t ∧ entryOf t q.val i.val = some { e with stage := 4 } ∧
          coveredOpen t (.kiln q.val i.val) = true ∧ MemSide { started with faults := t.faults } t) ∧
        (∀ p u, plan = (.ok (p, true), u) → doneWith 0x46 0) ∧
        (∀ p u off, plan = (.ok (p, false), u) → planBad op p = some off → doneWith 0x40 off) ∧
        (∀ p u n, plan = (.ok (p, false), u) → planBad op p = none → slot = some n →
          (jobRanges op p).all (inImage s n) = false → doneWith 0x44 1) ∧
        (∀ p u, plan = (.ok (p, false), u) → planBad op p = none → (∀ n, slot = some n → (jobRanges op p).all (inImage s n) = true) →
          let m := if kKiln p = 255 then leastKiln s else kKiln p % 8
          (op = 0x12 ∨ kKind p = 0 → (tgtOf s (kTgt p)).state ≠ 2 → doneWith 0x45 (kTgt p)) ∧
          ((op = 0x12 ∨ kKind p = 0 → (tgtOf s (kTgt p)).state = 2) → ∃ t j, exec c.1 s = .next t ∧
            kilnJobs t m = kilnJobs s m ++ [j] ∧ (∀ n, n ≠ m → kilnJobs t n = kilnJobs s n) ∧
            getF t F.KLN_STS_JOBS m = min 255 ((kilnJobs s m).length + 1) ∧
            j.q = q.val ∧ j.i = i.val ∧ j.ctx = k ∧ j.op = op ∧ j.plan = p ∧ j.slot = slot ∧ j.blocks = 0 ∧ j.van = 0 ∧
            j.susp = false ∧ (j.ended.isSome = true ↔ op ≠ 0x10 ∧ kCodec p = 0 ∧ kSlen p = 0) ∧
            t.queues = started.queues ∧ t.pending = s.pending)))) ∧
  (∀ (m : MdId) (src : SourceData) (s : State),
    (currentJob s m.val = none → exec (.kilnBlock m src) s = .next s) ∧
    (∀ j, currentJob s m.val = some j → kilnOf s j.q j.i = some m.val →
      (∀ x ∈ kilnJobs s m.val, x.q = j.q → x.i = j.i → x = j) →
      let p := j.plan
      let n := blockLen (kSlen p) j.blocks
      let own := j.op = 0x12 ∨ kKind p = 2
      let after (j : KilnJob) (van : Nat) (last : Bool) : KilnJob :=
        { j with blocks := j.blocks + 1, van := j.van + van,
                 ended := if last then some (0, min (j.blocks + 1) (2 ^ 32 - 1) + min (j.van + van) (2 ^ 32 - 1) * 2 ^ 32) else none }
      let final := decide (kSlen p ≤ 65536 * j.blocks + n)
      (own → j.op = 0x12 ∨ kCodec p ≠ 1 →
        let rd := dvaRead s iodDie j.ctx ((if j.op = 0x12 then kDst p else kSrc p) + 65536 * j.blocks) n .stream
        (∀ f u, rd = (.error f, u) → ∃ t, exec (.kilnBlock m src) s = .next t ∧
          kilnJobs t m.val = jobsWith s m.val { j with susp := true } ∧ coveredOpen t (.kiln j.q j.i) = true ∧
          getF t F.KLN_STS_SUSP m.val = 1) ∧
        (∀ d u, rd = (.ok (d, true), u) → ∃ t, exec (.kilnBlock m src) s = .next t ∧
          kilnJobs t m.val = jobsWith s m.val { j with ended := some (0x46, j.blocks) }) ∧
        (∀ d u, j.op = 0x12 → rd = (.ok (d, false), u) → (∀ x ∈ s.sto.cmds, x.id < s.sto.next) → ∃ t x, exec (.kilnBlock m src) s = .next t ∧
          kilnJobs t m.val = jobsWith s m.val (after j 0 final) ∧ x ∈ t.sto.cmds ∧ x.tgt = kTgt p ∧ x.isWrite = true ∧
          x.lba = kSrc p + 16 * j.blocks ∧ x.nlb = cdiv n 4096 ∧ x.data = d ∧ x.owner = .kiln j.q j.i j.blocks) ∧
        (∀ d u w, j.op = 0x11 → kCodec p = 0 → rd = (.ok (d, false), u) → d.length = n → j.slot = none →
          dvaWrite u iodDie j.ctx (kDst p + 65536 * j.blocks) d false .normal = (.ok (), w) →
          ∃ t, exec (.kilnBlock m src) s = .next t ∧ kilnJobs t m.val = jobsWith s m.val (after j 0 final) ∧
            (∀ b, lineByte t b = lineByte w b) ∧ t.pending = s.pending)) ∧
      (¬own → src.poison = true → ∃ t, exec (.kilnBlock m src) s = .next t ∧
        kilnJobs t m.val = jobsWith s m.val { j with ended := some (0x46, j.blocks) } ∧
        (kKind p = 3 → CountsOne s t F.HOST_CNT_POISON_RX_CNT 0) ∧ t.dram = s.dram ∧ t.cache = s.cache) ∧
      (¬own → src.poison = false → src.failed = true → ∃ t, exec (.kilnBlock m src) s = .next t ∧
        kilnJobs t m.val = jobsWith s m.val { j with ended := some (sourceError j src) } ∧ t.dram = s.dram ∧ t.cache = s.cache) ∧
      (¬own → src.poison = false → src.failed = false →
        let come := if kKind p = 3 then landStored j (4096 * j.got.length) (src.data.take (j.asked - 4096 * j.got.length)) else j
        let s1 := if kKind p = 3 then hostArrives s j src.data else s
        let bs := (storedFrom come (cdiv n 4096) (16 * j.blocks)).take n
        (kCodec p = 0 → bs.length < n → ∃ t, exec (.kilnBlock m src) s = .next t ∧ kilnJobs t m.val = jobsWith s m.val come ∧
          t.dram = s.dram ∧ t.cache = s.cache) ∧
        (∀ w, j.op = 0x11 → kCodec p = 0 → bs.length = n → j.slot = none →
          dvaWrite s1 iodDie j.ctx (kDst p + 65536 * j.blocks) bs false .normal = (.ok (), w) →
          ∃ t k, exec (.kilnBlock m src) s = .next t ∧ kilnJobs t m.val = jobsWith s m.val { after come 0 final with asked := k } ∧
            (∀ b, lineByte t b = lineByte w b) ∧ t.pending = s.pending) ∧
        (∀ w u v, j.op = 0x10 → kCodec p = 0 → kSlen p = loadBytes p → bs.length = n → loadWrites p j.blocks bs = w →
          kilnCommit s1 j.ctx w.1 = (.ok (), u) →
          (if final && fmtScaled (kDfmt p) then
            dvaWrite u iodDie j.ctx (kScl p)
              (headerBytes (kTscale p) (if kRot p then kSeed p else 0) (fmtSmode (kDfmt p)) (kDfmt p) 0) false .normal
          else (.ok (), u)) = (.ok (), v) → ∃ t k, exec (.kilnBlock m src) s = .next t ∧
            kilnJobs t m.val = jobsWith s m.val { after come w.2.2 final with asked := k } ∧ (∀ b, lineByte t b = lineByte v b) ∧
            t.pending = s.pending) ∧
        (kCodec p = 1 → Config.zstdFrame ((storedFrom come (cdiv (kSlen p) 4096) 0).take (kSlen p)) j.blocks = .bad →
          ∃ t, exec (.kilnBlock m src) s = .next t ∧
            kilnJobs t m.val = jobsWith s m.val { come with ended := some (0x42, j.blocks) } ∧ t.dram = s.dram ∧ t.cache = s.cache))) ∧
    (∀ j st d e, (kilnJobs s m.val).find? (fun j => j.ended.isSome && !(j.op == 0x12 && jobCmds s j.q j.i)) = some j →
      j.ended = some (st, d) → entryOf s j.q j.i = some e → ∃ t u, exec (.kilnJobComplete m) s = .next t ∧
        EntryDone u t j.q j.i e st d ∧ kilnJobs t m.val = (kilnJobs s m.val).erase j ∧
        u = { s with mds := u.mds, sto := u.sto, host := u.host, regs := u.regs, regB := u.regB, regC := u.regC }))

/-! ### Links, routing and fabric time (R313 to R340) -/

/-- On an UP link a DATA flit that decodes and bears the expected sequence number joins its lane's buffer; the first flit of a
packet brings the packet to the routing stage and the last one completes it there (R330); any other starts a discard with a
RETRY_REQ for the expected number (R320). A RETRY_REQ resends from its number on (R321), an acknowledgement takes flits off the
replay buffer and credit counts add (R319, R322), RETRY_REQ repeats up to sixteen times and then retrains; TIME flits carry the
stamps of R336; a TRAIN flit of the same role brings a TRAINING link UP with its peer's FREE as credits (R323), a RETRAINING
link back UP and an UP link through a retraining (R324; the last is the model's choice, notes/assumptions/6.md), and none
arrives while an injected loss of signal lasts (R397). -/
def Obligations.FlitsOfLinks : Prop :=
  ∀ (l : LinkId) (f : RxFlit) (s : State),
    let d := decodeFlit f
    let x := linkOf s l.val
    let h := d.hdr
    let up := linkState s l.val = 2
    let lane := sget [] x.rxBuf h.vl ++ [⟨h.vl, h.sop, h.eop, d.payload.take h.len, none⟩]
    let pkt := parsePacket h.vl (lane.flatMap (fun b => b.bytes))
    let whole : RouteItem := ⟨some l.val, lane.length, pkt, true, if h.sop then none else sget none x.rxRoute h.vl⟩
    (up → d.hdrOk = true → d.bodyOk = true → h.ftype = 1 → h.seq = x.expSeq →
      ∃ t, exec (.dataFlitReceive l f) s = .next t ∧ (linkOf t l.val).expSeq = x.expSeq + 1 ∧
        (linkOf t l.val).discarding = false ∧ (linkOf t l.val).reqCount = 0 ∧
        sget [] (linkOf t l.val).rxBuf h.vl = (if h.eop then [] else lane) ∧
        sget none (linkOf t l.val).rxRoute h.vl = (if h.eop then none else whole.route) ∧
        t.routeQ = (if h.eop then
            (if s.routeQ.any (partOf l.val h.vl) then s.routeQ.map (fun q => if partOf l.val h.vl q then whole else q)
            else s.routeQ ++ [whole])
          else if h.sop then s.routeQ ++ [⟨some l.val, 0, pkt, false, none⟩] else s.routeQ) ∧
        t = { s with links := t.links, outbox := t.outbox, routeQ := t.routeQ, regs := t.regs, regB := t.regB, regC := t.regC }) ∧
    (up → (d.hdrOk = true → h.ftype = 1) → ¬(d.hdrOk = true ∧ d.bodyOk = true ∧ h.seq = x.expSeq) →
      ∃ t, exec (.dataFlitReceive l f) s = .next t ∧ (linkOf t l.val).expSeq = x.expSeq ∧ (linkOf t l.val).rxBuf = x.rxBuf ∧
        (linkOf t l.val).discarding = true ∧
        (x.discarding = false → ∃ y, y.expSeq = x.expSeq ∧
          OutMsg.flit l.val (plainFlit y 2 (leBytes 2 x.expSeq.toNat)) ∈ t.outbox ∧ (linkOf t l.val).reqCount = 1) ∧
        t = { s with links := t.links, outbox := t.outbox, regs := t.regs, regB := t.regB, regC := t.regC }) ∧
    (up → d.hdrOk = true → d.bodyOk = true → h.ftype = 2 → x.injFlits = 0 →
      ∃ t more, exec (.retryReq l f) s = .next t ∧ CountsOne s t F.LNK_CNT0_RETRY_CNT l.val ∧
        let y := linkOf (takeHdr s l.val h) l.val
        t.outbox = s.outbox ++ ((y.replay.dropWhile (fun r => r.1 != BitVec.ofNat 12 (fieldLE d.payload 0 1))).map (fun r =>
          OutMsg.flit l.val (encodeFlit (hdrNow y 1 r.2.vl r.2.sop r.2.eop r.2.bytes.length r.1) (padTo 240 r.2.bytes)))) ++ more) ∧
    (up → d.hdrOk = true → h.ftype = 0 → x.txWait = [] → ∃ t, exec (.idleFlit l f) s = .next t ∧
      (∀ pre r post, x.replay = pre ++ r :: post → r.1 = h.ack → (∀ p ∈ pre, p.1 ≠ h.ack) → (linkOf t l.val).replay = post) ∧
      ((∀ r ∈ x.replay, r.1 ≠ h.ack) → (linkOf t l.val).replay = x.replay) ∧
      (∀ v, v < 4 → sget 0 (linkOf t l.val).credits v =
        sget 0 x.credits v + (h.cred.getD v 0 - sget 0 x.lastCred v).toNat) ∧
      LinkIs s t l.val { x with replay := (linkOf t l.val).replay, credits := (linkOf t l.val).credits,
                                lastCred := (linkOf t l.val).lastCred }) ∧
    (up → x.discarding = true → x.reqCount < 15 → ∃ t, exec (.retryReqRepeat l) s = .next t ∧
      LinkIs s t l.val { x with reqCount := x.reqCount + 1 } ∧
      t.outbox = s.outbox ++ [.flit l.val (plainFlit x 2 (leBytes 2 x.expSeq.toNat))] ∧ linkState t l.val = 2) ∧
    (up → x.discarding = true → 15 ≤ x.reqCount → ∃ t, exec (.retryReqRepeat l) s = .next t ∧ linkState t l.val = 3 ∧
      CountsOne s t F.LNK_CNT1_RETRAIN_CNT l.val) ∧
    (up → d.hdrOk = true → d.bodyOk = true → h.ftype = 3 →
      let t3 : Word64 := BitVec.ofNat 64 (fieldLE d.payload 0 7)
      let t1 : Word64 := BitVec.ofNat 64 (fieldLE d.payload 8 15)
      let t2 : Word64 := BitVec.ofNat 64 (fieldLE d.payload 16 23)
      ∃ t, exec (.timeFlit l f) s = .next t ∧ (linkOf t l.val).peerTx = t3 ∧ (linkOf t l.val).peerRx = ftStamp s ∧
        (t1 ≠ 0 ∨ t2 ≠ 0 → getF t F.LNK_DELAY_DELAY_NS l.val =
          min 65535 (Int.tdiv ((t2 - t1).toInt + (ftStamp s - t3).toInt) 32).toNat) ∧
        (getF s F.FT_CFG_ROOT 0 = 1 ∨ getF s F.FT_CFG_PARENT 0 ≠ l.val → t.ft = s.ft)) ∧
    (up → ∃ t, exec (.timeFlitSend l) s = .next t ∧
      t = emit s (.flit l.val (plainFlit x 3 (leBytes 8 (ftStamp s).toNat ++ leBytes 8 x.peerTx.toNat ++
        leBytes 8 x.peerRx.toNat)))) ∧
    (¬up → exec (.timeFlitSend l) s = .next s) ∧
    (d.hdrOk = true → d.bodyOk = true → h.ftype = 4 → ftNow s < x.losUntil → ∃ t, exec (.trainFlit l f) s = .next t ∧
      linkState t l.val = linkState s l.val ∧ linkOf t l.val = x ∧ t = { s with regs := t.regs, regB := t.regB, regC := t.regC }) ∧
    (d.hdrOk = true → d.bodyOk = true → h.ftype = 4 → x.losUntil ≤ ftNow s →
      (linkState s l.val = 1 → fieldLE d.payload 3 3 = getF s F.LNK_CFG_ROLE l.val → ∃ t, exec (.trainFlit l f) s = .next t ∧
        linkState t l.val = 2 ∧ getF t F.LNK_STS_PEER_MOD l.val = fieldLE d.payload 0 1 ∧
        (x.txWait = [] → ∀ v, v < 4 → sget 0 (linkOf t l.val).credits v = fieldLE d.payload (6 + 2 * v) (7 + 2 * v))) ∧
      (linkState s l.val = 1 → fieldLE d.payload 3 3 ≠ getF s F.LNK_CFG_ROLE l.val → ∃ t, exec (.trainFlit l f) s = .next t ∧
        linkState t l.val = 1 ∧ getF t F.LNK_STS_ROLE_MISMATCH l.val = 1) ∧
      (linkState s l.val = 3 → ∃ t, exec (.trainFlit l f) s = .next t ∧ linkState t l.val = 2) ∧
      (up → ∃ t, exec (.trainFlit l f) s = .next t ∧ linkState t l.val = 2 ∧ CountsOne s t F.LNK_CNT1_RETRAIN_CNT l.val))

/-- LASER_READY takes the DOWN links of its engine to TRAINING (R323); LASER_FAILURE takes all of them to FAILED (R313). A lost
signal sets its wavelength's bit and retrains an UP link; the third RETRAIN_TIMEOUT in a row fails it (R324). LNK_CTL ENABLE
trains a DISABLED link, RESTART a FAILED one, DISABLE disables any and counts the packets lost (R325); a ROLE is written only while
DISABLED (R328), MOD_ID only while no link is UP (R329). FLIP_GO arms the flip of the routing banks and ROUTING_FLIP makes it
(R331). -/
def Obligations.LinkStatesAndFlips : Prop :=
  ∀ (l : LinkId) (s : State),
    let x := linkOf s l.val
    (∀ pe : Fin 6, l.val % 6 = pe.val →
      (restarting s 0 = false → ∃ t, exec (.laserReady pe) s = .next t ∧
        linkState t l.val = (if linkState s l.val = 0 then 1 else linkState s l.val) ∧
        t = { s with outbox := t.outbox, regs := t.regs, regB := t.regB, regC := t.regC }) ∧
      (∃ t, exec (.laserFailure pe) s = .next t ∧ linkState t l.val = 4 ∧ (linkOf t l.val).replay = [] ∧
        (linkOf t l.val).txWait = [] ∧ t.pending = s.pending)) ∧
    (∀ w : Fin 8, ∃ t, exec (.lossOfSignal l w) s = .next t ∧ (getF t F.LNK_STS_WAVE_LOS l.val).testBit w.val = true ∧
      linkState t l.val = (if linkState s l.val = 2 then 3 else linkState s l.val) ∧
      t = { s with outbox := t.outbox, regs := t.regs, regB := t.regB, regC := t.regC }) ∧
    (linkState s l.val = 3 → s.lost = [] → x.fails < 2 → ∃ t, exec (.retrainTimeout l) s = .next t ∧ linkState t l.val = 3 ∧
      LinkIs s t l.val { x with fails := x.fails + 1 }) ∧
    (linkState s l.val = 3 → 2 ≤ x.fails → ∃ t, exec (.retrainTimeout l) s = .next t ∧ linkState t l.val = 4) ∧
    (linkState s l.val = 5 → ∃ t, exec (.lnkEnable l) s = .next t ∧ linkState t l.val = 1 ∧ LinkIs s t l.val x) ∧
    (linkState s l.val ≠ 5 → ∃ t, exec (.lnkEnable l) s = .next t ∧ RegsOnly s t [(F.LNK_STS_IGNORED, l.val, 1)]) ∧
    (∃ t, exec (.lnkDisable l) s = .next t ∧ linkState t l.val = 5 ∧ (linkOf t l.val).replay = [] ∧
      (linkOf t l.val).txWait = [] ∧ t.lost = [] ∧
      getF t F.LNK_CNT1_LOST_PKT_CNT l.val = min (getF s F.LNK_CNT1_LOST_PKT_CNT l.val + heldPackets x) (2 ^ 16 - 1)) ∧
    (linkState s l.val = 4 → ∃ t, exec (.lnkRestart l) s = .next t ∧ linkState t l.val = 1 ∧ LinkIs s t l.val x) ∧
    (linkState s l.val ≠ 4 → ∃ t, exec (.lnkRestart l) s = .next t ∧ RegsOnly s t [(F.LNK_STS_IGNORED, l.val, 1)]) ∧
    (∀ role : BitVec 2, ∃ t, exec (.roleWrite l role) s = .next t ∧ RegsOnly s t
      (if linkState s l.val = 5 then [(F.LNK_CFG_ROLE, l.val, role.toNat)] else [(F.LNK_STS_IGNORED, l.val, 1)])) ∧
    (∀ id : BitVec 16, ((∀ j, j < 48 → linkState s j ≠ 2) →
        ∃ t, exec (.rteModidWrite id) s = .next t ∧ RegsOnly s t [(F.RTE_MODID_MOD_ID, 0, id.toNat)]) ∧
      (linkState s l.val = 2 → exec (.rteModidWrite id) s = .next s)) ∧
    (getF s F.RTE_STS_PENDING 0 = 1 → ∃ t, exec .flipGo s = .next t ∧ RegsOnly s t [(F.RTE_STS_OVERRUN, 0, 1)]) ∧
    (getF s F.RTE_STS_PENDING 0 = 0 →
      let a := armSched s iodDie (getPair s F.RTE_FLIP_LO_FTIME_LO F.RTE_FLIP_HI_FTIME_HI 0) .flip
      (∀ u, a = some u → ∃ t, exec .flipGo s = .next t ∧ RegsOnly u t [(F.RTE_STS_PENDING, 0, 1), (F.RTE_STS_RESULT, 0, 0)] ∧
        armedAs t iodDie .flip ≠ []) ∧
      (a = none → ∃ t, exec .flipGo s = .next t ∧ RegsOnly s t [bump s F.TMR_CNT_FULL_CNT iodDie, (F.RTE_STS_RESULT, 0, 1)])) ∧
    (hasFired s iodDie .flip = true → ∃ t, exec .routingFlip s = .next t ∧
      getF t F.RTE_CTL_ACTIVE 0 = 1 - getF s F.RTE_CTL_ACTIVE 0 ∧ getF t F.RTE_STS_PENDING 0 = 0 ∧
      hasFired t iodDie .flip = false ∧ t = { s with wheels := t.wheels, regs := t.regs, regB := t.regB, regC := t.regC }) ∧
    (hasFired s iodDie .flip = false → exec .routingFlip s = .next s)

/-- PACKET_ROUTING takes the oldest packet at the routing stage. A packet for another module goes on the link that the active bank
names, one from a link with HOPS one higher; it is dropped and counted at HOPS 15, back onto its own link, or with no link
(R329, R330); a causeway link passes nothing but packets of its twin to this module (R326). A packet whose last flit is still to
come gets its route now and takes it when whole (R330); one whose output link failed meanwhile is lost (R325). A WRITE for this
module whose fence epoch is its context's stores its body at ADDR as the context's translation has it; another is dropped and
counted (R389). What a receive buffer freed returns as credit, in an IDLE flit if no other flit goes (R322). -/
def Obligations.PacketsAreRouted : Prop :=
  ∀ (s : State) (r : RouteItem) (rest : List RouteItem),
    let p := r.pkt
    let u := { s with routeQ := rest }
    let me := getF s F.RTE_MODID_MOD_ID 0
    (s.routeQ = [] → exec .packetRouting s = .next s) ∧
    (s.routeQ = r :: rest →
      (r.fromLink = none → p.dst.toNat ≠ me → p.op ≠ 0x04 → (p.op ≠ 0x05 ∨ directLinks s p.dst.toNat = []) →
        (∀ o, rteLink s p.dst.toNat p.vl = some o → linkState s o = 2 ∨ linkState s o = 3 →
          ∃ t, exec .packetRouting s = .next t ∧ SentOn u t o p true)) ∧
      (∀ l, r.fromLink = some l → l < 48 →
        let alive (o : Nat) : Prop := linkState s o = 2 ∨ linkState s o = 3
        let cw := getF s F.LNK_CFG_ROLE l = 1
        let w := setLink u l { linkOf s l with
          rxCum := sset 0 (linkOf s l).rxCum p.vl (sget 0 (linkOf s l).rxCum p.vl + BitVec.ofNat 12 r.flits) }
        let decided (e : Route) := setLink u l { linkOf s l with rxRoute := sset none (linkOf s l).rxRoute p.vl (some e) }
        let raised := { p with hops := p.hops + 1 }
        (r.whole = true →
          (r.route = none →
            (cw → (p.dst.toNat ≠ me ∨ p.src.toNat ≠ twinId s) → ∃ v, RegsOnly w v [bump s F.LNK_CNT2_CW_DROP_CNT l] ∧
              exec .packetRouting s = .next (idleIfQuiet u v l)) ∧
            (¬cw → p.dst.toNat ≠ me →
              (p.hops = 15 ∨ rteLink s p.dst.toNat p.vl = some l → ∃ v, RegsOnly w v [bump s F.LNK_CNT2_HOP_DROP_CNT l] ∧
                exec .packetRouting s = .next (idleIfQuiet u v l)) ∧
              (p.hops ≠ 15 → rteLink s p.dst.toNat p.vl = none → ∃ v, RegsOnly w v [bump s F.RTE_CNT_UNREACH_CNT 0] ∧
                exec .packetRouting s = .next (idleIfQuiet u v l)) ∧
              (∀ o, p.hops ≠ 15 → rteLink s p.dst.toNat p.vl = some o → o ≠ l → alive o → ∃ v, SentOn w v o raised false ∧
                exec .packetRouting s = .next (idleIfQuiet u v l)))) ∧
          (r.route = some .dropped → exec .packetRouting s = .next (idleIfQuiet u w l)) ∧
          (∀ o, r.route = some (.out o) →
            (alive o → ∃ v, SentOn w v o raised false ∧ exec .packetRouting s = .next (idleIfQuiet u v l)) ∧
            (¬alive o → ∃ v, RegsOnly w v [bump s F.LNK_CNT1_LOST_PKT_CNT o] ∧
              exec .packetRouting s = .next (idleIfQuiet u v l)))) ∧
        (r.whole = false →
          (cw → (p.dst.toNat ≠ me ∨ p.src.toNat ≠ twinId s) → ∃ t, exec .packetRouting s = .next t ∧
            RegsOnly (decided .dropped) t [bump s F.LNK_CNT2_CW_DROP_CNT l]) ∧
          (¬cw → p.dst.toNat = me → exec .packetRouting s = .next (decided .here)) ∧
          (¬cw → p.dst.toNat ≠ me → p.hops = 15 → ∃ t, exec .packetRouting s = .next t ∧
            RegsOnly (decided .dropped) t [bump s F.LNK_CNT2_HOP_DROP_CNT l]) ∧
          (∀ o, ¬cw → p.dst.toNat ≠ me → p.hops ≠ 15 → rteLink s p.dst.toNat p.vl = some o → o ≠ l → alive o →
            exec .packetRouting s = .next (decided (.out o))))) ∧
      (r.fromLink = none → p.dst.toNat = me → p.op = 0x01 →
        (p.fepoch.toNat ≠ (fenceOf s (p.ctxgen.toNat % 4096)).fepoch → ∃ t, exec .packetRouting s = .next t ∧
          RegsOnly u t [bump s F.RAS_CNT1_FENCE_DROP_CNT 0]) ∧
        (∀ d v, p.fepoch.toNat = (fenceOf s (p.ctxgen.toNat % 4096)).fepoch → p.body ≠ [] → CacheOk s →
          p.addr.toNat % 65536 + p.body.length ≤ 65536 →
          translate u iodDie (p.ctxgen.toNat % 4096) p.addr.toNat .write = (.ok d, v) → staleDie s p.ctxgen = false →
          d + p.body.length ≤ dpaLimit → ∃ t, exec .packetRouting s = .next t ∧ MemStored s t d p.body ∧ MemSide u t)))

/-- FT_SET sets fabric time on a root in state NEVER only (R335); HOLDOVER_ENTRY and HOLDOVER_EXPIRY leave LOCKED and HOLDOVER
under R338; a SYNC_IN edge within 0.5 s of the last accepted one is ignored and counted (R503), the first one locks a
synchronised root and takes the error out of fabric time, a later small one slews it and a larger error is ignored and counted
(R340). A step with no command waiting lets 1 ns of fabric time pass, with the slew in force, in HOLDOVER at the last
disciplined rate (R334, R337, R338; that an idle step is one tick is the model's choice, notes/assumptions/1.md). -/
def Obligations.FabricTimeCommands : Prop :=
  ∀ (s : State),
    let root := getF s F.FT_CFG_ROOT 0 = 1
    let st := getF s F.FT_STS_LSTATE 0
    (∀ v : BitVec 64,
      (root → st = 0 → ∃ t, exec (.ftSet v) s = .next t ∧ t.ft = { s.ft with now := v.toNat * ftUnit } ∧ ftNow t = v.toNat ∧
        (getF s F.FT_CFG_SYNC_EN 0 = 0 → getF t F.FT_STS_LSTATE 0 = 1) ∧
        t = { s with ft := t.ft, wheels := t.wheels, regs := t.regs, regB := t.regB, regC := t.regC }) ∧
      (¬root ∨ st ≠ 0 → ∃ t, exec (.ftSet v) s = .next t ∧ RegsOnly s t [(F.FT_STS_SET_IGN, 0, 1)])) ∧
    (¬root → st = 1 → linkState s (getF s F.FT_CFG_PARENT 0) ≠ 2 ∨ s.ft.lastSample + 30000 ≤ ftNow s →
      ∃ t, exec .holdoverEntry s = .next t ∧ RegsOnly { s with ft := { s.ft with holdSince := ftNow s } } t [(F.FT_STS_LSTATE, 0, 2)]) ∧
    (¬(¬root ∧ st = 1 ∧ (linkState s (getF s F.FT_CFG_PARENT 0) ≠ 2 ∨ s.ft.lastSample + 30000 ≤ ftNow s)) →
      exec .holdoverEntry s = .next s) ∧
    (st = 2 → s.ft.holdSince + 1000 * max 1 (getF s F.FT_CFG_HOLD_US 0) ≤ ftNow s → ∃ t, exec .holdoverExpiry s = .next t ∧
      RegsOnly { s with ft := { s.ft with good := 0, bad := 0, slewTicks := 0 } } t [(F.FT_STS_LSTATE, 0, 3)]) ∧
    (getF s F.DBG_STS_MFG_TEST 0 = 0 →
      (∀ a, s.ft.lastSync = some a → ftNow s < a + 500000000 →
        ∃ t, exec .syncInEdge s = .next t ∧ RegsOnly s t [bump s F.FT_CNT_SYNC_IGN_CNT 0]) ∧
      ((∀ a, s.ft.lastSync = some a → a + 500000000 ≤ ftNow s) →
        let e := syncError (ftNow s)
        let en := getF s F.FT_CFG_SYNC_EN 0 = 1
        (root → ¬en → exec .syncInEdge s = .next s) ∧
        (¬root ∨ en → ∃ t, exec .syncInEdge s = .next t ∧
          getF t F.FT_OFFSET_SYNC_ERR 0 = ofInt 16 (satSigned 16 (Int.tdiv e 16)) ∧
          (¬root → t.ft = { s.ft with lastSync := some (ftNow s) }) ∧
          (root → st = 0 → 500000000 ≤ ftNow s → s.ft.now < 2 ^ 64 * ftUnit - 500000000 * ftUnit →
            ftNow t % 1000000000 = 0 ∧ t.ft.lastSync = some (ftNow t) ∧ getF t F.FT_STS_LSTATE 0 = 1) ∧
          (root → st ≠ 0 → e.natAbs ≤ 100000 →
            t.ft = { s.ft with lastSync := some (ftNow s), rate := if 0 < e then -128 else 128, slewTicks := 20000 * e.natAbs }) ∧
          (root → st ≠ 0 → 100000 < e.natAbs → t.ft = s.ft ∧ CountsOne s t F.FT_CNT_SYNC_IGN_CNT 0) ∧
          t = { s with ft := t.ft, wheels := t.wheels, regs := t.regs, regB := t.regB, regC := t.regC }))) ∧
    (s.pending = [] → ∃ t, step s = .next t ∧
      t.ft = { s.ft with
        now := ((s.ft.now : Int) + ftUnit + (if 0 < s.ft.slewTicks ∨ st = 2 then s.ft.rate else 0)).toNat
        slewTicks := if st = 2 then s.ft.slewTicks else s.ft.slewTicks - 1
        aclk5 := if getF s F.MOD_STS_CORES_REL 0 = 1 then s.ft.aclk5 + 12 else s.ft.aclk5 } ∧
      (getF s F.MOD_STS_CORES_REL 0 ≠ 1 → t = { s with ft := t.ft }) ∧
      t = { s with ft := t.ft, sched := t.sched, queues := t.queues })

/-! ### Collectives (R344 to R365) -/

/-- ALLREDUCE, REDUCE_SCATTER, ALLGATHER, BROADCAST, BARRIER, SHARD_PERMUTE, TEVENT and GATE: refused with BAD_GROUP under R345,
with BAD_ENTRY 40 where the ring needs COUNT divisible by N (R347), else they wait for their CSEQ, and SEQUENCED_START starts the
one whose CSEQ is NEXTSEQ (R348); on a BROKEN group every waiting one ends with BROKEN. A TEVENT admitted before its time T
arms T and its release meanwhile, one admitted later ends with TOO_LATE (R362). ARRIVE counts for its TEVENT; WAIT_TOKEN
completes at once on a DONE slot of its token and waits otherwise (R361); PUT sends a CLAIM (R359); a GATE_CONTRIB that was not
posted is refused (R180); SEAL arms its event on each die or gives TIMER_FULL (R356); COL_GCMD RESET writes NEXTSEQ (R365). -/
def Obligations.CollectiveCommands : Prop :=
  ∀ (q : QueueId) (i : EntryIdx) (s : State) (e : EntrySt),
    let k := qCtx (queueOf s q.val).desc
    let started := some { e with stage := 4 }
    let waitsFor (op : Nat) (u t : State) (g : List Byte) : Prop :=
      let c := collCmdOf s q.val i.val e.raw g
      entryOf t q.val i.val = started ∧
        t = { setGroup u (cGroup op e.raw) { groupOf u (cGroup op e.raw) with
                waiting := (groupOf s (cGroup op e.raw)).waiting ++ [c] } with queues := t.queues }
    (∀ c ∈ [(Instr.allreduce q i, 1), (Instr.reduceScatter q i, 2), (Instr.allgather q i, 3), (Instr.broadcast q i, 4),
        (Instr.barrier q i, 5), (Instr.shardPermute q i, 6), (Instr.tevent q i, 9), (Instr.gate q i, 0x10)],
      Admitted s q.val i.val 2 c.2 e →
      (∀ g p v u, readGroup s (cGroup c.2 e.raw) = (g, p, v) → groupBad v k c.2 e.raw g p = (true, u) →
        ∃ t, exec c.1 s = .next t ∧ MemSide s u ∧ EntryDone u t q.val i.val e 0x54 0) ∧
      (∀ g u, GroupOk s u q.val c.2 e.raw g → MemSide s u ∧
        (countBad (collCmdOf s q.val i.val e.raw g) = true →
          ∃ t, exec c.1 s = .next t ∧ EntryDone u t q.val i.val e 6 40) ∧
        (c.2 ≠ 9 → countBad (collCmdOf s q.val i.val e.raw g) = false → ∃ t, exec c.1 s = .next t ∧ waitsFor c.2 u t g))) ∧
    (∀ g u, Admitted s q.val i.val 2 9 e → GroupOk s u q.val 9 e.raw g →
      let gr := cGroup 9 e.raw
      let c := collCmdOf s q.val i.val e.raw g
      (gState g = 2 → ∃ t, exec (.tevent q i) s = .next t ∧ entryOf t q.val i.val = started ∧
        (groupOf t gr).waiting = (groupOf s gr).waiting ++ [c] ∧ (groupOf t gr).tevs = (groupOf s gr).tevs ∧ CollSide s t) ∧
      (gState g ≠ 2 → tT c ≤ ftNow s → (groupOf s gr).run = none → ∃ t w, exec (.tevent q i) s = .next t ∧ CollSide s w ∧
        EntryDone w t q.val i.val { e with stage := 4 } 0x56 0 ∧ CountsOne s t F.COL_CNT1_VETO_CNT 0) ∧
      (gState g ≠ 2 → ftNow s < tT c → ∃ t x, exec (.tevent q i) s = .next t ∧ entryOf t q.val i.val = started ∧
        (groupOf t gr).waiting = (groupOf s gr).waiting ++ [c] ∧ x ∈ (groupOf t gr).tevs ∧ x.cmd = c ∧ x.atT = false ∧
        (x.refused = false → armedAs t iodDie (.tevent gr (cSeqOf e.raw)) ≠ [] ∧
          armedAs t iodDie (.teventEnd gr (cSeqOf e.raw)) ≠ []) ∧ CollSide s t)) ∧
    (∀ g u, Admitted s q.val i.val 2 0x0A e → GroupOk s u q.val 0x0A e.raw g →
      let x := groupOf s (cGroup 0x0A e.raw)
      let n := cSeqOf e.raw
      ∃ t, exec (.arrive q i) s = .next t ∧ EntryDone (setGroup u (cGroup 0x0A e.raw) { x with
        arrivals := sset 0 x.arrivals n (sget 0 x.arrivals n + 1) }) t q.val i.val e 0 0) ∧
    (∀ g u tok st src v, Admitted s q.val i.val 2 8 e → s.col.waits = [] → GroupOk s u q.val 8 e.raw g →
      readTok u (slotDpa g (cToken e.raw)) = ((tok, st, src), v) →
      (tok = cToken e.raw ∧ st = 2 → ∃ t w, exec (.waitToken q i) s = .next t ∧ CollSide s w ∧
        EntryDone w t q.val i.val { e with stage := 4 } 0 src ∧ t.col.waits = []) ∧
      (¬(tok = cToken e.raw ∧ st = 2) → ∃ t, exec (.waitToken q i) s = .next t ∧ entryOf t q.val i.val = started ∧
        t.col.waits = [collCmdOf s q.val i.val e.raw g] ∧
        MemSide { s with queues := t.queues, col := { s.col with waits := t.col.waits } } t)) ∧
    (∀ g u, Admitted s q.val i.val 2 7 e → GroupOk s u q.val 7 e.raw g →
      (gTokLog g = 0 → ∃ t, exec (.put q i) s = .next t ∧ EntryDone u t q.val i.val e 0x54 0) ∧
      (gTokLog g ≠ 0 → gN g ≤ cDstRank e.raw → ∃ t, exec (.put q i) s = .next t ∧ EntryDone u t q.val i.val e 6 18) ∧
      (∀ id v, gTokLog g ≠ 0 → cDstRank e.raw < gN g → memberId u g (cDstRank e.raw) = (id, false, v) →
        (∀ p ∈ s.col.puts, p.phase ≠ 0 ∧ ¬(p.cmd.q = q.val ∧ p.cmd.i = i.val)) → s.col.puts.length < 1024 →
        ∃ t r, exec (.put q i) s = .next t ∧ entryOf t q.val i.val = started ∧
          t.col.puts = s.col.puts ++ [⟨collCmdOf s q.val i.val e.raw g, id, 1, 0, 0, false⟩] ∧
          t.routeQ = s.routeQ ++ [r] ∧ r.fromLink = none ∧ pMsg r.pkt = 5 ∧ r.pkt.op = 0x05 ∧
          r.pkt.dst = BitVec.ofNat 16 id ∧ r.pkt.token = BitVec.ofNat 32 (cToken e.raw) ∧ r.pkt.body = claimBody e.raw)) ∧
    (Admitted s q.val i.val 2 0x11 e → e.poster = none →
      ∃ t, exec (.gateContrib q i) s = .next t ∧ EntryDone s t q.val i.val e 6 16) ∧
    (∀ g u v r, Admitted s q.val i.val 2 0x11 e → e.poster = some v → GroupOk s u q.val 0x11 e.raw g →
      (groupOf s (cGroup 0x11 e.raw)).run = some r → gateOpen r = true →
      ∃ t r', exec (.gateContrib q i) s = .next t ∧ entryOf t q.val i.val = started ∧
        (groupOf t (cGroup 0x11 e.raw)).run = some r' ∧ r'.contribs = r.contribs ++ [contribOf s q.val i.val v e.raw] ∧
        CollSide s t) ∧
    (Admitted s q.val i.val 2 0x12 e →
      (∀ u, armSeal s (fieldLE e.raw 24 31) q.val i.val (sealDies s k) = some u → ∃ t, exec (.seal q i) s = .next t ∧
        entryOf t q.val i.val = started ∧ (∀ d ∈ sealDies s k, armedAs t d (.seal q.val i.val) ≠ []) ∧
        t = { u with queues := t.queues }) ∧
      (armSeal s (fieldLE e.raw 24 31) q.val i.val (sealDies s k) = none → ∃ t u, exec (.seal q i) s = .next t ∧
        u = { s with regs := u.regs, regB := u.regB, regC := u.regC } ∧ EntryDone u t q.val i.val e 0x0A 0)) ∧
    (∀ gr : GroupId,
      let x := groupOf s gr.val
      let g := (readGroup s gr.val).1
      (∀ r, x.run = some r → exec (.sequencedStart gr) s = .next s) ∧
      (∀ c, x.run = none → gState g ≠ 2 → x.waiting.find? (fun c => cSeqOf c.ent == gNextSeq g) = some c →
        ∃ t, exec (.sequencedStart gr) s = .next t ∧ (groupOf t gr.val).waiting = x.waiting.erase c ∧ CollSide s t ∧
          ((groupOf t gr.val).run = none ∨ ∃ r, (groupOf t gr.val).run = some r ∧ r.cmd = c)) ∧
      (∀ c f, x.run = none → gState g = 2 → x.waiting = [c] → entryOf s c.q c.i = some f →
        ∃ t u, exec (.sequencedStart gr) s = .next t ∧ CollSide s u ∧ (groupOf t gr.val).waiting = [] ∧
          EntryDone u t c.q c.i f 0x52 0) ∧
      (∀ n : BitVec 16, (x.run = none → CacheOk s → groupAddr s gr.val + 43 ≤ dpaLimit →
          ∃ t, exec (.colGcmdReset gr n) s = .next t ∧
            MemStored s t (groupAddr s gr.val + 40) (leBytes 2 n.toNat ++ leBytes 1 0) ∧ MemSide s t) ∧
        (∀ r, x.run = some r → ∃ t, exec (.colGcmdReset gr n) s = .next t ∧ RegsOnly s t [(F.COL_STS_IGNORED, 0, 1)])))

/-- A collective packet with another fence epoch or a stale generation is dropped and counted (R389, R255). READY of the running
command opens the window to its sender, or ends the command with MISMATCH where the commands differ (R349); DATA waits for its
turn, and that of a claim goes to its place (R360); ARMED, ALLARMED and VETO pass through the tree (R362); ABORT ends the command,
running or waiting, with PEER_ABORT (R354). CLAIM of a free slot makes it PENDING and is granted, of a held token it is answered
DUP, of another's slot BUSY (R359), each with the group's fence epoch (R344); GRANT lets a PUT send, DUP, DONE and BUSY end it
(R360). -/
def Obligations.CollectiveMessages : Prop :=
  ∀ (p : Packet) (s : State),
    let gr := pGroup p
    let k := p.ctxgen.toNat % 4096
    let fence := (fenceOf s k).fepoch
    (∀ c ∈ [(Instr.collData p, 0), (Instr.ready p, 1), (Instr.armed p, 2), (Instr.allarmed p, 3), (Instr.veto p, 4),
        (Instr.claim p, 5), (Instr.grant p, 6), (Instr.dup p, 7), (Instr.done p, 8), (Instr.busy p, 9)],
      isMsg p c.2 = true →
      (p.fepoch.toNat ≠ fence → ∃ t, exec c.1 s = .next t ∧ RegsOnly s t [bump s F.RAS_CNT1_FENCE_DROP_CNT 0]) ∧
      (p.fepoch.toNat = fence → ¬PacketCurrent s p →
        ∃ t, exec c.1 s = .next t ∧ RegsOnly s t [bump s F.CTX_CNT1_STALE_IOD_CNT 0]) ∧
      (∃ t, exec c.1 s = .next t ∧ CollSide s t)) ∧
    (∀ r rank, ForRun s p r rank →
      (isMsg p 1 = true → p.body = readyBody r →
        exec (.ready p) s = .next (collGo (modRun (readGroup s gr).2.2 gr (fun r => { r with
          grant := sset 0 r.grant rank (pOff p)
          grant0 := if sget 0 r.grant0 rank = 0 then sset 0 r.grant0 rank (pOff p) else r.grant0 })) gr)) ∧
      (∀ e, isMsg p 1 = true → p.body ≠ readyBody r → entOp r.cmd.ent ≠ 0x10 → entryOf s r.cmd.q r.cmd.i = some e →
        ∃ t, exec (.ready p) s = .next t ∧ RunEnds s t gr r e 0x53 rank) ∧
      (isMsg p 0 = true → r.susp = true → ∃ t, exec (.collData p) s = .next t ∧
        (groupOf t gr).run = some { r with rx := r.rx ++ [⟨rank, pStep p, pOff p, p.body⟩] } ∧
        MemSide { s with col := t.col } t)) ∧
    (∀ x rank, ForTevent s p x rank →
      let now (t : State) (y : TevSt) : Prop := tevOf t gr (pHi p) = some y
      (isMsg p 2 = true → x.refused = true ∨ x.armedSent = true ∨ (∃ c ∈ treeChildren x.cmd, c ∉ x.armed ∧ c ≠ rank) →
        ∃ t, exec (.armed p) s = .next t ∧ now t { x with armed := x.armed ++ [rank] } ∧ MemSide { s with col := t.col } t) ∧
      (isMsg p 2 = true → x.refused = false → x.armedSent = false → (∀ c ∈ treeChildren x.cmd, c ∈ x.armed ∨ c = rank) →
        ∃ t, exec (.armed p) s = .next t ∧
          now t { x with armed := x.armed ++ [rank], armedSent := true, allArmed := x.allArmed || (treeParent x.cmd).isNone } ∧
          (∀ up id, treeParent x.cmd = some up → x.partners.find? (fun m => m.1 == up) = some (up, id) → ∃ r,
            t.routeQ = s.routeQ ++ [r] ∧ r.fromLink = none ∧ pMsg r.pkt = 2 ∧ pHi r.pkt = cSeqOf x.cmd.ent % 65536 ∧
            r.pkt.dst = BitVec.ofNat 16 id) ∧
          MemSide { s with col := t.col, routeQ := t.routeQ } t) ∧
      (isMsg p 3 = true → ∃ t, exec (.allarmed p) s = .next t ∧ now t { x with allArmed := true } ∧
        MemSide { s with col := t.col, routeQ := t.routeQ } t) ∧
      (isMsg p 4 = true → x.vetoed = none → ∃ t, exec (.veto p) s = .next t ∧ now t { x with vetoed := some (fieldLE p.body 0 1) } ∧
        MemSide { s with col := t.col, routeQ := t.routeQ } t)) ∧
    (∀ c u w, isMsg p 0 = true → PacketCurrent s p →
      s.col.claims.find? (fun c => c.num == pHi p && c.token == p.token.toNat && c.src == p.src.toNat) = some c →
      (c.live = true → c.held = [] → readTok s c.slot = ((c.token, 1, c.src), u) →
        dvaWrite (modClaim u c.num (fun c => { c with held := c.held ++ [(pOff p, p.body)], last := ftNow u })) iodDie c.ctx
          (c.dst + pOff p) p.body false .normal = (.ok (), w) → c.got + p.body.length < c.len →
        exec (.collData p) s = .next (modClaim w c.num (fun c => { c with held := [], got := c.got + p.body.length }))) ∧
      (c.live = false → forRun s p = false → ∃ t, exec (.collData p) s = .next t ∧ CountsOne s t F.COL_CNT1_DUP_CNT 0 ∧
        MemSide { s with routeQ := t.routeQ, regs := t.regs, regB := t.regB, regC := t.regC } t)) ∧
    (p.op = 0x06 → PacketCurrent s p → gState (readGroup s gr).1 ≠ 2 →
      s.col.claims.any (fun c => c.live && c.num == pHi p && c.token == p.token.toNat && c.src == p.src.toNat) = false →
      (∀ r e, (groupOf s gr).run = some r → pHi p = cSeqOf r.cmd.ent → entOp r.cmd.ent ≠ 0x10 →
        entryOf s r.cmd.q r.cmd.i = some e → ∃ t, exec (.abort p) s = .next t ∧ RunEnds s t gr r e 0x50 p.src.toNat) ∧
      (∀ c e, (groupOf s gr).run = none → (pHi p + 65536 - gNextSeq (readGroup s gr).1) % 65536 < 32768 →
        (groupOf s gr).waiting.find? (fun c => cSeqOf c.ent == pHi p) = some c → entryOf s c.q c.i = some e →
        ∃ t u, exec (.abort p) s = .next t ∧ CollSide s u ∧ EntryDone u t c.q c.i e 0x50 p.src.toNat)) ∧
    (∀ g v tok st src u, isMsg p 5 = true → PacketCurrent s p → readGroup s (fieldLE p.body 0 1 % 4096) = (g, false, v) →
      gTokLog g ≠ 0 → readTok v (slotDpa g p.token.toNat) = ((tok, st, src), u) →
      let answered (t : State) (msg num : Nat) (body : List Byte) : Prop := ∃ r, t.routeQ = s.routeQ ++ [r] ∧
        r.fromLink = none ∧ pMsg r.pkt = msg ∧ pHi r.pkt = num ∧
        r.pkt.fepoch = BitVec.ofNat 16 (gFepoch g) ∧ r.pkt.dst = p.src ∧ r.pkt.token = p.token ∧ r.pkt.body = body
      (¬(st ≠ 0 ∧ tok = p.token.toNat) → st ≠ 1 → (∀ x ∈ s.col.claims, x.live = true → x.slot ≠ slotDpa g p.token.toNat) →
        ∃ t c, exec (.claim p) s = .next t ∧ t.col.claims.getLast? = some c ∧ c.token = p.token.toNat ∧
        c.src = p.src.toNat ∧ c.live = true ∧ c.len = fieldLE p.body 4 7 ∧ answered t 6 c.num [] ∧
        (CacheOk s → slotDpa g p.token.toNat % 16 = 0 → slotDpa g p.token.toNat + 16 ≤ dpaLimit →
          MemStored s t (slotDpa g p.token.toNat)
            (leBytes 4 p.token.toNat ++ leBytes 1 1 ++ leBytes 1 0 ++ leBytes 2 p.src.toNat ++ leBytes 8 0)) ∧
        MemSide { s with col := t.col, routeQ := t.routeQ } t) ∧
      (st ≠ 0 → tok = p.token.toNat → ∃ t, exec (.claim p) s = .next t ∧ answered t 7 0 (leBytes 2 src) ∧
        CountsOne s t F.COL_CNT1_DUP_CNT 0) ∧
      (st = 1 → tok ≠ p.token.toNat → ∃ t, exec (.claim p) s = .next t ∧ answered t 9 0 (leBytes 4 tok))) ∧
    (∀ x e, PacketCurrent s p → (∀ y ∈ s.col.puts, y.phase ≠ 0) →
      let ended (t : State) (st d : Nat) : Prop := t.col.puts = s.col.puts.filter (fun y => !(y.cmd == x.cmd)) ∧
        ∃ u, EntryDone u t x.cmd.q x.cmd.i e st d ∧ u = { s with col := u.col, regs := u.regs, regB := u.regB, regC := u.regC }
      entryOf s x.cmd.q x.cmd.i = some e →
      (isMsg p 6 = true → putFor s p 1 = some x → ∃ t x', exec (.grant p) s = .next t ∧ x' ∈ t.col.puts ∧ x'.cmd = x.cmd ∧
        x'.phase = 2 ∧ x'.num = pHi p ∧ CollSide s t) ∧
      (isMsg p 7 = true → putFor s p (if pHi p = 0 then 1 else 2) = some x →
        ∃ t, exec (.dup p) s = .next t ∧ ended t 0x57 (fieldLE p.body 0 1)) ∧
      (isMsg p 8 = true → putFor s p 2 = some x → ∃ t, exec (.done p) s = .next t ∧ ended t 0 0) ∧
      (isMsg p 9 = true → putFor s p 1 = some x → ∃ t, exec (.busy p) s = .next t ∧ ended t 0x58 (fieldLE p.body 0 3)))

/-- What DMA_CHUNK, DMA_TRANSFER_COMPLETE, STAGING_GRANT, PHASE_S_END, WINDOW_SPILL, WINDOW_REFILL and the collective messages do
when nothing stands in their way, each on conditions of the state alone. A chunk between SPM and DSM moves, a transfer whose chunks
are all written leaves its place (R243, R249), the oldest request takes its units, phase S ends in phase W (R246, R247), and a
window whose pages translate is spilled or refilled (R173). READY moves a window, DATA reaches a claim's buffer, ARMED, ALLARMED
and VETO reach their TEVENT, CLAIM is granted, GRANT, DUP, DONE and BUSY move their PUT on, and ABORT ends the command (R349, R354,
R359 to R362). -/
def Obligations.TransfersAndMessagesComplete : Prop :=
  (∀ (c : CoreId) (i : Fin 16) (s : State) (x : Xfer),
    let k := coreOf s c.val
    (xferOf k i = some x → x.state = 0 → x.phase = .plain → x.prog < xferChunks x → x.opc = 0x10 ∨ x.opc = 0x11 →
      x.ds.tens.space ≠ 0 → x.dd.tens.space ≠ 0 → fmtScaled x.ds.tens.fmt = false →
      ∃ t, exec (.dmaChunk c i) s = .next t ∧ TransferSide s t ∧ t.dram = s.dram ∧ (∀ d, d ≠ c.val → coreOf t d = coreOf s d) ∧
        xferOf (coreOf t c.val) i = some { x with prog := x.prog + 1, idxflt := min x.idxflt (2 ^ 32 - 1) } ∧
        (coreOf t c.val).reports = k.reports) ∧
    (xferOf k i = some x → x.state = 0 → x.opc = 0x10 ∨ x.opc = 0x11 → xferChunks x ≤ x.prog → x.idxflt = 0 →
      optSts x.opts.toNat = false → x.units = 0 → k.halting = false →
      ∃ t, exec (.dmaTransferComplete c i) s = .next t ∧ TransferSide s t ∧ coreOf t c.val = { k with xfers := sset none k.xfers i none } ∧
        (∀ d, d ≠ c.val → coreOf t d = coreOf s d) ∧ t.dram = s.dram ∧ t.regs = s.regs) ∧
    (∀ r u q, s.stgQ = (r, u) :: q → stgUsed s + u ≤ 512 → coreAt s r.ctx r.vcore = some c.val →
      xferById k r.xfer = some (i.val, x) → x.ds.tens.space ≠ 0 →
      exec .stagingGrant s = .next (setXfer { s with stgQ := q, stgHeld := s.stgHeld ++ [(r, (freeUnits s).take u)] } c.val i
        (some { x with phase := .s }))) ∧
    (xferOf k i = some x → x.phase = .s → x.state = 0 → x.opc = 0x10 → x.ds.tens.space ≠ 0 → x.dd.tens.space ≠ 0 →
      (∀ m, m < 8 → ∀ h ∈ (mdOf s m).stgWait, h.1 ≠ stgUser s c.val x) →
      ∃ t, exec (.phaseSEnd c i) s = .next t ∧ xferOf (coreOf t c.val) i = some { x with phase := .w, pins := [] } ∧
        (∀ j, j ≠ i.val → xferOf (coreOf t c.val) j = xferOf k j) ∧ (coreOf t c.val).spm = k.spm ∧
        t = { s with cores := t.cores, dsm := t.dsm })) ∧
  (∀ (c : CoreId) (st : Fin 16) (s u : State), windowHeld s c.val st = false →
    let lo := winLoOf s c.val st
    let n := min 4096 (min lo (winSize s c.val - (spOf s c.val st - lo)))
    (∀ r l, spillsOf s c.val st = r :: l →
      commitWrites s c.val 0 .normal (byteWrites (streamBase s c.val st + r.1) (winGet s c.val st r.1 (r.2 - r.1))) = (.ok (), u) →
      exec (.windowSpill c st) s = .next (setSpills u c.val st l)) ∧
    (∀ bs, 0 < n → spOf s c.val st - lo ≤ winSize s c.val → spillsOf s c.val st = [] →
      (∀ x ∈ xferList (coreOf s c.val), ¬(0x15 ≤ x.opc ∧ x.stream = st)) →
      readBytes s c.val 0 (streamBase s c.val st + lo - n) n = (.ok bs, u) →
      exec (.windowRefill c st) s = .next (setWinLo (winPut u c.val st (lo - n) bs) c.val st (lo - n)))) ∧
  (∀ (p : Packet) (s : State),
    let gr := pGroup p
    (∀ r rank e, ForRun s p r rank → entryOf s r.cmd.q r.cmd.i = some e →
      (isMsg p 1 = true → p.body = readyBody r → r.susp = true → ∃ t, exec (.ready p) s = .next t ∧
        (groupOf t gr).run = some { r with
          grant := sset 0 r.grant rank (pOff p)
          grant0 := if sget 0 r.grant0 rank = 0 then sset 0 r.grant0 rank (pOff p) else r.grant0 } ∧
        MemSide { s with col := t.col } t) ∧
      (p.op = 0x06 → entOp r.cmd.ent ≠ 0x10 →
        s.col.claims.any (fun c => c.live && c.num == pHi p && c.token == p.token.toNat && c.src == p.src.toNat) = false →
        ∃ t, exec (.abort p) s = .next t ∧ RunEnds s t gr r e 0x50 p.src.toNat)) ∧
    (∀ x rank, ForTevent s p x rank →
      let now (t : State) (y : TevSt) : Prop := tevOf t gr (pHi p) = some y ∧ MemSide { s with col := t.col, routeQ := t.routeQ } t
      (isMsg p 2 = true → ∃ t y, exec (.armed p) s = .next t ∧ now t y ∧ y.armed = x.armed ++ [rank]) ∧
      (isMsg p 3 = true → ∃ t, exec (.allarmed p) s = .next t ∧ now t { x with allArmed := true }) ∧
      (isMsg p 4 = true → x.vetoed = none → ∃ t, exec (.veto p) s = .next t ∧ now t { x with vetoed := some (fieldLE p.body 0 1) })) ∧
    (∀ c u w, isMsg p 0 = true → PacketCurrent s p →
      s.col.claims.find? (fun c => c.num == pHi p && c.token == p.token.toNat && c.src == p.src.toNat) = some c →
      c.live = true → c.held = [] → readTok s c.slot = ((c.token, 1, c.src), u) →
      dvaWrite (modClaim u c.num (fun c => { c with held := c.held ++ [(pOff p, p.body)], last := ftNow u })) iodDie c.ctx
        (c.dst + pOff p) p.body false .normal = (.ok (), w) → c.got + p.body.length < c.len →
      exec (.collData p) s = .next (modClaim w c.num (fun c => { c with held := [], got := c.got + p.body.length }))) ∧
    (∀ g v tok st src u, isMsg p 5 = true → PacketCurrent s p → readGroup s (fieldLE p.body 0 1 % 4096) = (g, false, v) →
      gTokLog g ≠ 0 → readTok v (slotDpa g p.token.toNat) = ((tok, st, src), u) → st = 0 →
      (∀ x ∈ s.col.claims, x.live = true → x.slot ≠ slotDpa g p.token.toNat) →
      ∃ t r c, exec (.claim p) s = .next t ∧ t.routeQ = s.routeQ ++ [r] ∧ pMsg r.pkt = 6 ∧ pHi r.pkt = c.num ∧ r.pkt.dst = p.src ∧
        t.col.claims.getLast? = some c ∧ c.live = true ∧ c.token = p.token.toNat ∧ c.src = p.src.toNat ∧ c.held = [] ∧ c.got = 0) ∧
    (∀ x e, PacketCurrent s p → (∀ y ∈ s.col.puts, y.phase ≠ 0) → entryOf s x.cmd.q x.cmd.i = some e →
      let ended (t : State) (st d : Nat) : Prop := t.col.puts = s.col.puts.filter (fun y => !(y.cmd == x.cmd)) ∧
        ∃ u, EntryDone u t x.cmd.q x.cmd.i e st d ∧ u = { s with col := u.col, regs := u.regs, regB := u.regB, regC := u.regC }
      (isMsg p 6 = true → putFor s p 1 = some x → ∃ t x', exec (.grant p) s = .next t ∧ x' ∈ t.col.puts ∧ x'.cmd = x.cmd ∧
        x'.phase = 2 ∧ x'.num = pHi p) ∧
      (isMsg p 7 = true → pHi p = 0 → putFor s p 1 = some x → ∃ t, exec (.dup p) s = .next t ∧ ended t 0x57 (fieldLE p.body 0 1)) ∧
      (isMsg p 8 = true → putFor s p 2 = some x → ∃ t, exec (.done p) s = .next t ∧ ended t 0 0) ∧
      (isMsg p 9 = true → putFor s p 1 = some x → ∃ t, exec (.busy p) s = .next t ∧ ended t 0x58 (fieldLE p.body 0 3))))

/-! ### Twins (R366 to R386) -/

/-- A TWN command while BUSY only sets OVERRUN (R398). ATTACH of an UNPAIRED module with a good table takes its windows in force,
every page due in both banks, and with an UP causeway to its twin sends ATTACH (R369, R371); the twin's ATTACH makes the pair
PAIRED, or refuses it where the store is too small; the twin's DETACH, before the twin has shown itself PAIRED, ends ATTACH with
STORE_SMALL (the model's choice, notes/assumptions/24.md); DETACH, silence for 1 ms and a beacon again change the pair as R367 and
R372 say. A pass sends its pages as they are, then COMMIT; the twin stores them (R374) and answers a complete pass (R375), and
COMMIT_ACK ends the pass at the sender. -/
def Obligations.TwinPairAndPasses : Prop :=
  ∀ (s : State) (p : Packet),
    let st := pairState s
    let busy := getF s F.TWN_STS_BUSY 0 = 1
    let mine := p.src.toNat = twinId s
    let tb := readTable s
    let peer := (F.TWN_STS_PEER, 0, twinId s)
    let result (r : Nat) : List (Fld × Nat × Nat) := [peer, (F.TWN_STS_BUSY, 0, 0), (F.TWN_STS_RESULT, 0, r)]
    let linked := (causeways s).any (fun l => getF s F.LNK_STS_PEER_MOD l == twinId s) = true
    (busy → ∀ c ∈ [Instr.attach, .detach, .lost, .clearStore, .promote p.src, .receive p.src, .pull 0],
      ∃ t, exec c s = .next t ∧ RegsOnly s t [(F.TWN_STS_OVERRUN, 0, 1)]) ∧
    (¬busy → st ≠ 0 → ∃ t, exec .attach s = .next t ∧ RegsOnly s t (result 1)) ∧
    (¬busy → st = 0 → tb.2.1 = true → ∃ t, exec .attach s = .next t ∧ TwinEnds t 0 6 ∧ MemSide { s with regs := t.regs, regB := t.regB, regC := t.regC } t) ∧
    (¬busy → st = 0 → tb.2.1 = false → ¬linked → ∃ t, exec .attach s = .next t ∧ TwinEnds t 0 2 ∧
      t.twin.windows = tableWindows tb.1 ∧ ∀ g ∈ windowPages (tableWindows tb.1), sget 0 t.twin.w g = 3) ∧
    (¬busy → st = 0 → tb.2.1 = false → linked → s.twin.peerAtt = none → ∃ t, exec .attach s = .next t ∧ pairState t = 1 ∧
      getF t F.TWN_STS_BUSY 0 = 1 ∧ t.twin.windows = tableWindows tb.1 ∧
      (∀ g ∈ windowPages (tableWindows tb.1), sget 0 t.twin.w g = 3) ∧ t.twin.attachAt = ftNow s ∧
      SendsTwin s t 4 (leBytes 4 (pageTotal (tableWindows tb.1)) ++ leBytes 60 0 ++ padTo 2048 tb.1)) ∧
    (isTwin p 4 = true → st ≠ 5 → ¬mine → exec (.attachMessage p) s = .next s) ∧
    (isTwin p 4 = true → st ≠ 5 → st ≠ 1 → mine → ∃ t, exec (.attachMessage p) s = .next t ∧
      t = { s with twin := { s.twin with peerAtt := some (ftNow s, p.body) } }) ∧
    (isTwin p 4 = true → st = 1 → mine → s.twin.storeLen < 65536 + 131072 * fieldLE p.body 0 3 →
      ∃ t, exec (.attachMessage p) s = .next t ∧ TwinEnds t 0 3 ∧ SendsTwin s t 5 []) ∧
    (isTwin p 4 = true → st = 1 → mine → 65536 + 131072 * fieldLE p.body 0 3 ≤ s.twin.storeLen →
      ∃ t, exec (.attachMessage p) s = .next t ∧ TwinEnds t 2 0 ∧ t.twin.peerPages = fieldLE p.body 0 3 ∧
        t.twin.latest = none ∧ getF t F.TWN_BANK0_SEAL 0 = 0xFFFFFFFF ∧ getF t F.TWN_BANK1_SEAL 0 = 0xFFFFFFFF ∧
        MemSide { s with regs := t.regs, regB := t.regB, regC := t.regC } t) ∧
    (st = 1 → s.twin.attachAt + 10000000 ≤ ftNow s → ∃ t, exec .attachTimeout s = .next t ∧ TwinEnds t 0 2) ∧
    (st ≠ 1 ∨ ftNow s < s.twin.attachAt + 10000000 → exec .attachTimeout s = .next s) ∧
    (¬busy → st = 2 → ∃ t, exec .detach s = .next t ∧ TwinEnds t 0 0 ∧ t.twin.pass = none ∧ SendsTwin s t 5 []) ∧
    (¬busy → st = 3 → ∃ t, exec .detach s = .next t ∧ TwinEnds t 0 0 ∧ t.twin.pass = none ∧ t.routeQ = s.routeQ) ∧
    (¬busy → st ≠ 2 → st ≠ 3 → ∃ t, exec .detach s = .next t ∧ RegsOnly s t [(F.TWN_STS_BUSY, 0, 0), (F.TWN_STS_RESULT, 0, 1)]) ∧
    (isTwin p 5 = true → mine → st = 1 → ∃ t, exec (.detachMessage p) s = .next t ∧ TwinEnds t 0 2) ∧
    (isTwin p 5 = true → mine → st = 2 ∨ st = 3 →
      ∃ t, exec (.detachMessage p) s = .next t ∧ pairState t = 0 ∧ t.twin.pass = none ∧ t.routeQ = s.routeQ ∧
        (st = 2 → s.twin.matched = false → TwinEnds t 0 3)) ∧
    (1 ≤ st → st ≤ 3 → causeways s ≠ [] → s.twin.beaconHold ≤ ftNow s → ∃ t, exec .beaconSend s = .next t ∧
      SendsTwin s t 3 (leBytes 1 st) ∧ t = { s with routeQ := t.routeQ }) ∧
    (st = 0 ∨ 3 < st ∨ causeways s = [] → exec .beaconSend s = .next s) ∧
    (isTwin p 3 = true → mine → st ≠ 3 → st ≠ 5 → ∃ t, exec (.beacon p) s = .next t ∧
      t = { s with twin := { s.twin with lastBeacon := ftNow s, matched := s.twin.matched || decide (2 ≤ fieldLE p.body 0 0) } }) ∧
    (isTwin p 3 = true → mine → st = 3 → causeways s ≠ [] → ∃ t, exec (.beacon p) s = .next t ∧ pairState t = 2 ∧
      Raises s t 4 ∧ t.twin = { s.twin with lastBeacon := ftNow s, matched := s.twin.matched || decide (2 ≤ fieldLE p.body 0 0) }) ∧
    (st = 2 → causeways s = [] ∨ s.twin.lastBeacon + 1000000 ≤ ftNow s → ∃ t, exec .twinSilence s = .next t ∧ pairState t = 3 ∧
      t.twin.pass = none ∧ Raises s t 3) ∧
    (st ≠ 2 ∨ (causeways s ≠ [] ∧ ftNow s < s.twin.lastBeacon + 1000000) → exec .twinSilence s = .next s) ∧
    (∀ x g rest, s.twin.pass = some x → x.readPages = [] → x.pend = g :: rest → x.committed = false → causeways s ≠ [] →
      CacheOk s → HeldOk s →
      ∃ t l, exec .passPageSend s = .next t ∧ t.routeQ = s.routeQ ++ l ∧
        (∀ i, i < 16 → ∃ y, l[i]? = some y ∧ isTwin y.pkt 0 = true ∧ y.pkt.dst = BitVec.ofNat 16 (twinId s) ∧
          y.pkt.body.length = 4096 ∧ ∀ j, j < 4096 → y.pkt.body.getD j 0 = lineByte s (65536 * g + 4096 * i + j)) ∧
        l.length = (if rest = [] then 17 else 16) ∧ (∀ y, l[16]? = some y → isTwin y.pkt 1 = true) ∧
        sget 0 t.twin.w g = sget 0 s.twin.w g &&& ~~~(1#2 <<< x.bank) ∧
        t.twin.pass = some { x with pend := rest, bytes := x.bytes + 65536, committed := rest.isEmpty } ∧
        getF t (if x.bank = 0 then F.TWN_BANK0_SEAL else F.TWN_BANK1_SEAL) 0 = 0xFFFFFFFF ∧ MemKept s t ∧
        MemSide { s with routeQ := t.routeQ, regs := t.regs, regB := t.regB, regC := t.regC } t) ∧
    (∀ x, s.twin.pass = some x → causeways s = [] → exec .passPageSend s = .next s) ∧
    (isTwin p 0 = true → st = 2 ∨ st = 3 → p.addr.toNat < 65536 ∨ s.twin.storeLen < p.addr.toNat + p.body.length →
      ∃ t, exec (.page p) s = .next t ∧ RegsOnly s t [bump s F.TWN_CNT1_RANGE_DROP_CNT 0]) ∧
    (isTwin p 0 = true → st = 2 ∨ st = 3 → 65536 ≤ p.addr.toNat → p.addr.toNat + p.body.length ≤ s.twin.storeLen →
      s.twin.storeBase + s.twin.storeLen ≤ dpaLimit → CacheOk s → ∃ t, exec (.page p) s = .next t ∧
        (∀ i, i < p.body.length → lineByte t (s.twin.storeBase + p.addr.toNat + i) = p.body.getD i 0) ∧
        MemSide { s with freshIdx := t.freshIdx } t) ∧
    (isTwin p 1 = true → st = 2 ∨ st = 3 → fieldLE p.body 4 4 ≤ 1 → fieldLE p.body 8 15 ≠ 0 →
      let b := fieldLE p.body 4 4
      let bs := bankState s b
      (bs.2.1 ≠ 0 → bs.1 % 65536 = fieldLE p.body 0 3 % 65536 → sget 0 s.twin.rxBytes b = fieldLE p.body 8 15 →
        ∃ t, exec (.commit p) s = .next t ∧ SendsTwin s t 2 (leBytes 4 (fieldLE p.body 0 3) ++ leBytes 1 b) ∧
          MemSide { s with routeQ := t.routeQ } t) ∧
      (bs.2.1 = 0 ∨ sget 0 s.twin.rxBytes b ≠ fieldLE p.body 8 15 → ∃ t, exec (.commit p) s = .next t ∧ MemSide s t)) ∧
    (∀ x, isTwin p 2 = true → st ≠ 5 → s.twin.pass = some x → fieldLE p.body 0 3 = x.num → fieldLE p.body 4 4 = x.bank →
      ∃ t, exec (.commitAck p) s = .next t ∧ t.twin = { s.twin with pass := none, latest := some x.bank } ∧
        getF t (if x.bank = 0 then F.TWN_BANK0_SEAL else F.TWN_BANK1_SEAL) 0 = x.num ∧ getF t F.TWN_STS_PASS_RUN 0 = 0 ∧
        CountsOne s t F.TWN_CNT0_PASS_CNT 0 ∧
        t = { s with twin := t.twin, regs := t.regs, regB := t.regB, regC := t.regC })

/-- PROMOTE sends the latest complete bank of the store to a spare (R378, R379); RECEIVE makes an UNPAIRED module a spare, which
drops every twin message but XFER and XFER_END; XFERs fill its windows (those that its last ATTACH put in force, by R369 and R398:
notes/assumptions/24.md), and the image complete it is UNPAIRED with a record; PROMO_STALL reports a silent source, and LOST writes
off what never came, poisoned (R380). PULL asks the twin for a bank, which PULL_REQ sends back (R383); of a bank that is not
COMPLETE it sends an XFER_END of no bytes, with which the PULL ends NOT_HELD (the model's choice, notes/assumptions/24.md);
CLEAR_STORE empties the store (R372). SNAPSHOT writes the windows to a storage target and SNAPSHOT_DONE
reports it (R386). -/
def Obligations.ImagesMoveBetweenModules : Prop :=
  ∀ (s : State) (p : Packet) (id : BitVec 16),
    let st := pairState s
    let idle := getF s F.TWN_STS_BUSY 0 ≠ 1
    (idle → st ≠ 3 → st ≠ 0 → ∃ t, exec (.promote id) s = .next t ∧ TwinEnds t st 1) ∧
    (idle → st = 3 ∨ st = 0 → (latestBank s).1 = none → ∃ t, exec (.promote id) s = .next t ∧ TwinEnds t st 4) ∧
    (∀ b n, idle → st = 3 ∨ st = 0 → (latestBank s).1 = some (b, n) → ∃ t k, exec (.promote id) s = .next t ∧
      pairState t = 4 ∧ getF t F.TWN_STS_BUSY 0 = 1 ∧ getF t F.TWN_STS_PEER 0 = id.toNat ∧ SendsImage s t id.toNat k ∧
      MemSide { s with routeQ := t.routeQ, regs := t.regs, regB := t.regB, regC := t.regC } t) ∧
    (idle → st ≠ 0 → ∃ t, exec (.receive id) s = .next t ∧ TwinEnds t st 1) ∧
    (idle → st = 0 → ∃ t, exec (.receive id) s = .next t ∧ TwinEnds t 5 0 ∧ getF t F.TWN_STS_PEER 0 = id.toNat ∧
      t.twin = { s.twin with
        recv := some ⟨id.toNat, false, [], ftNow s, false, none, none⟩
        storeBase := getPair s F.TWN_STORE_LO_BASE_LO F.TWN_STORE_HI_BASE_HI 0
        storeLen := 65536 * getF s F.TWN_STORE_HI_LEN 0 } ∧
      t = { s with twin := t.twin, regs := t.regs, regB := t.regB, regC := t.regC }) ∧
    (st = 5 → ∀ c ∈ [(Instr.page p, 0), (Instr.commit p, 1), (Instr.commitAck p, 2), (Instr.beacon p, 3),
        (Instr.attachMessage p, 4), (Instr.detachMessage p, 5), (Instr.pullReq p, 8)], isTwin p c.2 = true →
      ∃ t, exec c.1 s = .next t ∧ RegsOnly s t [bump s F.TWN_CNT1_RANGE_DROP_CNT 0]) ∧
    (∀ r, s.twin.recv = some r →
      let a := p.addr.toNat
      (∀ g, isTwin p 6 = true → windowPage s a = some g → p.src.toNat = r.src → a % 4096 = 0 → p.body.length = 4096 →
        r.fin = none → CacheOk s → a + 4096 ≤ dpaLimit → ∃ t, exec (.xfer p) s = .next t ∧ MemStored s t a p.body ∧
          t.twin.recv = some { r with got := sset 0 r.got g (sget 0 r.got g ||| (1#16 <<< (a / 4096 % 16))), last := ftNow s,
                                      stalled := false, num := some (p.token.toNat / 65536) } ∧ MemSide s t) ∧
      (isTwin p 6 = true → windowPage s a = none ∨ p.src.toNat ≠ r.src ∨ a % 4096 ≠ 0 ∨ p.body.length ≠ 4096 →
        ∃ t, exec (.xfer p) s = .next t ∧ RegsOnly s t [bump s F.TWN_CNT1_RANGE_DROP_CNT 0]) ∧
      (isTwin p 7 = true → p.src.toNat = r.src → r.isPull = false → unreceived s r = [] →
        ∃ t, exec (.xferEnd p) s = .next t ∧ TwinEnds t 0 0 ∧ t.twin.recv = none ∧ Raises s t 5) ∧
      (isTwin p 7 = true → p.src.toNat = r.src → r.isPull = true → unreceived s r = [] ∨ fieldLE p.body 0 7 = 0 →
        ∃ t, exec (.xferEnd p) s = .next t ∧ TwinEnds t st (if unreceived s r = [] then 0 else 4) ∧ t.twin.recv = none ∧
          getF t F.TWN_STS_PASS_RUN 0 = 0) ∧
      (isTwin p 7 = true → p.src.toNat = r.src → unreceived s r ≠ [] → r.isPull = false ∨ fieldLE p.body 0 7 ≠ 0 →
        ∃ t, exec (.xferEnd p) s = .next t ∧
        t = { s with twin := { s.twin with recv := some { r with fin := some (fieldLE p.body 0 7, fieldLE p.body 8 11) } } }) ∧
      (st = 5 → r.stalled = false → r.last + 2000000 ≤ ftNow s → ∃ t, exec .promoStall s = .next t ∧ Raises s t 6 ∧
        t.twin.recv = some { r with stalled := true } ∧ pairState t = 5) ∧
      (st ≠ 5 ∨ r.stalled = true ∨ ftNow s < r.last + 2000000 → exec .promoStall s = .next s) ∧
      (idle → st = 5 → ∃ t, exec .lost s = .next t ∧ TwinEnds t 0 5 ∧ t.twin.recv = none ∧ Raises s t 7 ∧
        ∀ g ∈ unreceived s r, 65536 * (g + 1) ≤ dpaLimit →
          (let a := getPair s F.TWN_LOSS_LO_BASE_LO F.TWN_LOSS_HI_BASE_HI 0
           a + 4096 ≤ 65536 * g ∨ 65536 * (g + 1) ≤ a) →
          ∀ i, i < 1024 → peekPoison t (1024 * g + i) = true) ∧
      (idle → st ≠ 5 → ∃ t, exec .lost s = .next t ∧ TwinEnds t st 1)) ∧
    (∀ b : Fin 2,
      let held := getF s F.TWN_CFG_HOLD 0 = 1
      let mark := getF s (if b = 0 then F.TWN_BANK0_SEAL else F.TWN_BANK1_SEAL) 0
      (idle → st ≠ 2 ∨ ¬held ∨ s.twin.pass.isSome ∨ s.twin.recv.isSome → ∃ t, exec (.pull b) s = .next t ∧ TwinEnds t st 1) ∧
      (idle → st = 2 → held → s.twin.pass = none → s.twin.recv = none → mark = 0xFFFFFFFF →
        ∃ t, exec (.pull b) s = .next t ∧ TwinEnds t 2 4) ∧
      (idle → st = 2 → held → s.twin.pass = none → s.twin.recv = none → mark ≠ 0xFFFFFFFF →
        ∃ t, exec (.pull b) s = .next t ∧ SendsTwin s t 8 (leBytes 1 b.val) ∧ getF t F.TWN_STS_BUSY 0 = 1 ∧
          getF t F.TWN_STS_PASS_RUN 0 = 1 ∧ t.twin.recv = some ⟨twinId s, true, [], ftNow s, false, none, none⟩)) ∧
    (isTwin p 8 = true → st = 2 ∨ st = 3 → p.src.toNat = twinId s → fieldLE p.body 0 0 ≤ 1 →
      ((bankState s (fieldLE p.body 0 0)).2.1 = 2 → ∃ t k, exec (.pullReq p) s = .next t ∧ SendsImage s t p.src.toNat k ∧
        MemSide { s with routeQ := t.routeQ } t) ∧
      ((bankState s (fieldLE p.body 0 0)).2.1 ≠ 2 → ∃ t, exec (.pullReq p) s = .next t ∧
        SendsTwin s t 7 (leBytes 8 0 ++ leBytes 4 (bankState s (fieldLE p.body 0 0)).1) ∧ MemSide { s with routeQ := t.routeQ } t)) ∧
    (idle → s.twin.storeLen ≠ 0 → CacheOk s → HeldOk s → s.twin.storeBase + 4096 ≤ dpaLimit → ∃ t, exec .clearStore s = .next t ∧
      TwinEnds t st 0 ∧ (∀ b, b < 2 → (bankState t b).2.1 = 0)) ∧
    (∀ (gr : GroupId) arg tm, s.col.due.find? (fun d => d.1 == gr.val && d.2.1 == 1) = some (gr.val, 1, arg, tm) →
      (s.twin.snap.isSome → ∃ t, exec (.snapshot gr) s = .next t ∧ Raises s t 11 ∧ t.twin = s.twin) ∧
      (s.twin.snap = none → (256 ≤ arg % 65536 ∨ (tgtOf s (arg % 65536)).state ≠ 2) → ∃ t, exec (.snapshot gr) s = .next t ∧
        t.twin = { s.twin with snap := some ⟨tm, some 0x41⟩ } ∧ t.sto = s.sto) ∧
      (s.twin.snap = none → arg % 65536 < 256 → (tgtOf s (arg % 65536)).state = 2 → (∀ c ∈ s.sto.cmds, c.id < s.sto.next) →
        ∃ t c, exec (.snapshot gr) s = .next t ∧ t.twin.snap = some ⟨tm, none⟩ ∧ c ∈ t.sto.cmds ∧ c.tgt = arg % 65536 ∧
          c.isWrite = true ∧ c.lba = arg / 65536 ∧ c.nlb = 16 ∧ c.owner = .snap ∧ t.pending = s.pending)) ∧
    (∀ (status : BitVec 64) x, s.twin.snap = some x →
      ((∀ c ∈ s.sto.cmds, c.owner ≠ .snap) → ∃ t, exec (.snapshotDone status) s = .next t ∧ Raises s t 10 ∧
        t.twin = { s.twin with snap := none }) ∧
      ((∃ c ∈ s.sto.cmds, c.owner = .snap) → exec (.snapshotDone status) s = .next s))

/-! ### Resilience (R384 to R397) -/

/-- KINDLING_TEST runs on an unbound idle core whose turn it is and keeps its signature, the seed's own on a sound core;
SIGNATURE_COMPARE marks the core that differs from two others (R384, R385; signature and flaw are free values). HEARTBEAT_SAMPLE raises HANG_CORE once a running core has not issued
for HB_LIMIT samples (R387). Health records go again to the sessions with an FM grant, and HEALTH_ACK there releases one (R388,
R435). RAS_VERDICT with a later epoch fences the contexts of its job, DEAD ends them too; a stale one is counted (R390). -/
def Obligations.HealthAndVerdicts : Prop :=
  (∀ (c : CoreId) (s : State),
    let k := coreOf s c.val
    let may := getF s F.RAS_KT_CFG_KT_EN 0 = 1 ∧ getF s F.MOD_STS_CORES_REL 0 = 1 ∧ k.bound = none ∧ coreState s c.val = 0 ∧
      restarting s (9 + cdOf c.val) = false ∧ testTurn s c.val = true
    (may → ∃ t seed v, exec (.kindlingTest c false) s = .next t ∧
      t.ras = { s.ras with kt := s.ras.kt ++ [⟨seed, c.val, v⟩], order := s.ras.order.erase c.val } ∧
      (∀ d, openSeed s (cdOf c.val) = some d → seed = d) ∧
      (k.injCell = [] → k.injPar = [] → v = Config.kindlingSig seed ^^^ Config.kindlingFlaw c.val seed) ∧
      coreOf t c.val = { k with injCell := [], injPar := [] } ∧ (∀ d, d ≠ c.val → coreOf t d = coreOf s d) ∧
      CountsOne s t F.RAS_KT_CNT_KT_RUN_CNT 0 ∧
      t = { s with ras := t.ras, cores := t.cores, freshIdx := t.freshIdx, regs := t.regs, regB := t.regB, regC := t.regC }) ∧
    (¬may → exec (.kindlingTest c false) s = .next s) ∧ exec (.kindlingTest c true) s = .next s) ∧
  (∀ (seed : BitVec 64) (s : State) (a b c : KtRes), a.core < 128 → b.core < 128 → c.core < 128 →
    let l := s.ras.kt.filter (fun x => x.seed == seed)
    let rest := s.ras.kt.filter (fun x => x.seed != seed)
    let suspect (t : State) (x : KtRes) : Prop := getF t (suspectFld x.core) 0 = 1 ∧ Raises s t 8 ∧ t.ras = { s.ras with kt := rest }
    (l = [a, b] → a.sig = b.sig → ∃ t, exec (.signatureCompare seed) s = .next t ∧ t = { s with ras := { s.ras with kt := rest } }) ∧
    (l = [a, b] → a.sig ≠ b.sig → exec (.signatureCompare seed) s = .next s) ∧
    (l = [a, b, c] → a.sig = b.sig → ∃ t, exec (.signatureCompare seed) s = .next t ∧ suspect t c) ∧
    (l = [a, b, c] → a.sig ≠ b.sig → a.sig = c.sig → ∃ t, exec (.signatureCompare seed) s = .next t ∧ suspect t b) ∧
    (l = [a, b, c] → a.sig ≠ b.sig → a.sig ≠ c.sig → b.sig = c.sig → ∃ t, exec (.signatureCompare seed) s = .next t ∧ suspect t a) ∧
    (l = [a, b, c] → a.sig ≠ b.sig → a.sig ≠ c.sig → b.sig ≠ c.sig → ∃ t, exec (.signatureCompare seed) s = .next t ∧
      CountsOne s t F.RAS_KT_CNT_KT_MISMATCH_CNT 0 ∧ t.ras = { s.ras with kt := rest } ∧ t.aed = s.aed)) ∧
  (∀ (cd : CdId) (s : State) (c : Nat) (b : Binding3), c ∈ coresOf cd.val → restarting s (9 + cd.val) = false →
    (coreOf s c).bound = some b → (∀ d ∈ coresOf cd.val, d ≠ c → (coreOf s d).bound = none) →
    let k := coreOf s c
    let h := sget HbSt.reset s.ras.hb c
    (k.issued ≠ h.issued → k.beatHold = 0 → ∃ t, exec (.heartbeatSample cd) s = .next t ∧
      sget HbSt.reset t.ras.hb c = ⟨k.issued, 0, false⟩ ∧ t = { s with ras := t.ras }) ∧
    (k.issued = h.issued → coreState s c = 1 → h.raised = false → max 1 (getF s F.RAS_HB_CFG_HB_LIMIT 0) ≤ h.idle + 1 →
      ∃ t, exec (.heartbeatSample cd) s = .next t ∧ sget HbSt.reset t.ras.hb c = ⟨k.issued, h.idle + 1, true⟩ ∧ Raises s t 2) ∧
    (k.issued = h.issued → coreState s c = 1 → h.idle + 1 < max 1 (getF s F.RAS_HB_CFG_HB_LIMIT 0) →
      ∃ t, exec (.heartbeatSample cd) s = .next t ∧ sget HbSt.reset t.ras.hb c = ⟨k.issued, h.idle + 1, h.raised⟩ ∧
        t.aed = s.aed)) ∧
  (∀ s : State, restarting s 17 = false → ∃ t, exec .healthResend s = .next t ∧
    t.outbox.length = s.outbox.length + s.aed.health.length * (fmSessions s).length ∧ t = { s with outbox := t.outbox }) ∧
  (∀ (n : Fin 8) (seq : BitVec 32) (s : State),
    (restarting s 17 = false → n.val ∈ fmSessions s → ∃ t, exec (.healthAck n seq) s = .next t ∧
      t.aed.health = s.aed.health.filter (fun h => h.1 != seq.toNat) ∧ t = { s with aed := t.aed }) ∧
    (restarting s 17 = false → n.val ∉ fmSessions s → ∃ t, exec (.healthAck n seq) s = .next t ∧
      t = emit s (.mgmt (sessVia s n.val) 0x21 (some n.val) [0x01]))) ∧
  (∀ (job ep : BitVec 16) (s : State),
    let l := verdictCtxs s job.toNat ep.toNat
    (∀ dead, l = [] → ∃ t, exec (.rasVerdict job ep dead) s = .next t ∧ RegsOnly s t [bump s F.RAS_CNT0_VERDICT_STALE_CNT 0]) ∧
    (l ≠ [] → ∃ t, exec (.rasVerdict job ep false) s = .next t ∧ t = { s with fence := t.fence } ∧
      (∀ k ∈ l, fenceOf t k = ⟨(fenceOf s k).job, ep.toNat⟩) ∧ (∀ k, k ∉ l → fenceOf t k = fenceOf s k)) ∧
    (l ≠ [] → ∃ t, exec (.rasVerdict job ep true) s = .next t ∧ Raises s t 9 ∧ t.pending = s.pending ∧
      ∀ k ∈ l, fenceOf t k = ⟨(fenceOf s k).job, ep.toNat⟩ ∧ ((ctxOf s k).state = 1 → (ctxOf t k).state = 3)))

/-- CORE_RESET, CD_RESET, MD_RESET, LINK_RESET and IOD_FUNCTION_RESET: a request while one runs sets OVERRUN; a unit that does not
exist gives RESULT 2, one whose condition of Table 13.7 does not hold RESULT 1; else the unit's state and pages are at reset, every
grant has ended (R457) and BUSY reads 1, or with DUMP a crash dump runs first (R392 to R394). RESET_DONE ends it with RESULT 0, an MD's only after its fill. -/
def Obligations.ResetDomains : Prop :=
  ∀ (c : CoreId) (cd : CdId) (m : MdId) (l : LinkId) (u : BitVec 8) (s : State), s.col.due = [] →
    (∀ dump e, ResetCommand c cd m l u dump e →
      (∀ x, s.ras.rst = some x → ∃ t, exec e.2.2 s = .next t ∧ RegsOnly s t [(F.RST_STS_OVERRUN, 0, 1)]) ∧
      (s.ras.rst = none → unitExists e.1 e.2.1 = false → ∃ t, exec e.2.2 s = .next t ∧
        RegsOnly s t [(F.RST_STS_BUSY, 0, 0), (F.RST_STS_RESULT, 0, 2)]) ∧
      (s.ras.rst = none → unitExists e.1 e.2.1 = true → resetAllowed s e.1 e.2.1 = false → ∃ t, exec e.2.2 s = .next t ∧
        RegsOnly s t [(F.RST_STS_BUSY, 0, 0), (F.RST_STS_RESULT, 0, 1)]) ∧
      (s.ras.rst = none → s.ras.dump = none → unitExists e.1 e.2.1 = true → resetAllowed s e.1 e.2.1 = true → dump = true →
        ∃ t, exec e.2.2 s = .next t ∧ getF t F.RST_STS_BUSY 0 = 1 ∧ getF t F.DMP_STS_BUSY 0 = 1 ∧
          t.ras = { s.ras with rst := some ⟨e.1, e.2.1, 0, false, true⟩, dump := some ⟨2, getF s F.DMP_CTL_FORMAT 0, ftNow s, []⟩ } ∧
          t = { s with ras := t.ras, regs := t.regs, regB := t.regB, regC := t.regC }) ∧
      (s.ras.rst = none → unitExists e.1 e.2.1 = true → resetAllowed s e.1 e.2.1 = true → dump = false →
        ∃ t, exec e.2.2 s = .next t ∧ ResetRuns t e.1 e.2.1 ∧ getF t F.AED_AUTH_GRANTS 0 = 0 ∧
          ∀ n x, sget none t.aed.sessions n = some x → x.grants = [])) ∧
    (s.ras.rst = none → (coreOf s c.val).bound = none → coreState s c.val = 0 → ∃ t, exec (.coreReset c false) s = .next t ∧
      ResetRuns t 1 c.val ∧ coreOf t c.val = CoreSt.reset ∧ (∀ d, d ≠ c.val → coreOf t d = coreOf s d) ∧
      (∀ p ∈ corePages c.val, PageReset t p.1 p.2) ∧
      t = { s with cores := t.cores, pages := t.pages, ras := t.ras, aed := t.aed, regs := t.regs, regB := t.regB, regC := t.regC }) ∧
    (s.ras.rst = none → (∀ e ∈ s.ctxs, e.2.state = 0 ∨ bitAt e.2.cdmask cd.val = false) →
      ∃ t, exec (.cdReset cd false) s = .next t ∧ ResetRuns t 2 cd.val ∧ (∀ d ∈ coresOf cd.val, coreOf t d = CoreSt.reset) ∧
        (∀ d, d ∉ coresOf cd.val → coreOf t d = coreOf s d) ∧ sget Sram.zero t.dsm cd.val = Sram.zero ∧
        schedOf t cd.val = SchedSt.reset ∧ wheelOf t cd.val = WheelSt.reset ∧ PageReset t .cd cd.val ∧ PageReset t .sch cd.val ∧
        PageReset t .tmr cd.val ∧ (∀ d ∈ coresOf cd.val, ∀ p ∈ corePages d, PageReset t p.1 p.2)) ∧
    (s.ras.rst = none → (∀ e ∈ s.ctxs, e.2.state = 0) → ∃ t, exec (.mdReset m false) s = .next t ∧ ResetRuns t 3 m.val ∧
      mdOf t m.val = MdSt.reset ∧ (∀ j, j ≠ m.val → mdOf t j = mdOf s j) ∧ PageReset t .md m.val ∧ PageReset t .kln m.val ∧
      (∀ a, dpaMd a ≠ m.val → lineByte t a = lineByte s a)) ∧
    (s.ras.rst = none → ∃ t, exec (.linkReset l false) s = .next t ∧ ResetRuns t 4 l.val ∧ linkState t l.val = 1 ∧
      (linkOf t l.val).replay = [] ∧ t.lost = []) ∧
    (s.ras.rst = none → u = 0 → ∃ t, exec (.iodFunctionReset u false) s = .next t ∧ ResetRuns t 5 0 ∧ PageReset t .col 0 ∧
      (∀ g, (groupOf t g).run = none ∧ (groupOf t g).waiting = []) ∧
      (CacheOk s → s.col.groups = [] → s.col.puts = [] → s.col.waits = [] →
        ∀ gr, gr < 4096 → groupAddr s gr + 64 ≤ dpaLimit → lineByte t (groupAddr s gr + 42) = 2)) ∧
    (s.ras.rst = none → u = 1 → ∃ t, exec (.iodFunctionReset u false) s = .next t ∧ ResetRuns t 5 1 ∧ t.twin.pass = none ∧
      pairState t = (if pairState s = 4 then 0 else pairState s)) ∧
    (s.ras.rst = none → u = 2 → ∃ t, exec (.iodFunctionReset u false) s = .next t ∧ ResetRuns t 5 2 ∧ t.ras.dump = none) ∧
    (s.ras.rst = none → u = 7 → (∀ e ∈ s.ctxs, e.2.state = 0) → pairState s = 0 →
      ∃ t, exec (.iodFunctionReset u false) s = .next t ∧ ResetRuns t 5 7 ∧ t.queues = [] ∧ t.links = [] ∧ t.routeQ = [] ∧
        t.rte = [] ∧ getF t F.FT_STS_LSTATE 0 = 0 ∧ PageReset t .que 0 ∧ PageReset t .rte 0 ∧
        (s.col.groups = [] → s.col.puts = [] → s.col.waits = [] → t.cores = s.cores)) ∧
    (∀ x, s.ras.rst = some x → x.waits = false →
      (x.domain = 3 → getF s F.MD_STS_FILL_DONE x.unit = 0 → getF s F.MD_STS_TRAIN_FAIL x.unit = 0 → exec .resetDone s = .next s) ∧
      (x.tevent = false → (x.domain ≠ 3 ∨ getF s F.MD_STS_FILL_DONE x.unit = 1) → ∃ t, exec .resetDone s = .next t ∧
        t.ras = { s.ras with rst := none } ∧ getF t F.RST_STS_BUSY 0 = 0 ∧ getF t F.RST_STS_RESULT 0 = 0 ∧
        (∀ p ∈ resetPages x.domain x.unit, (sget PageSt.reset t.pages (pageBase p.1 p.2)).inReset = false) ∧
        t = { s with ras := t.ras, pages := t.pages, regs := t.regs, regB := t.regB, regC := t.regC }))

/-- DUMP_START begins a crash dump; each unit in turn answers with its BLK_ERRCODE, or with FFFFFFFFH at its time-out, and
DUMP_END after the last A JTAG transaction during a dump is
answered BUSY and counted (R36), one without a grant BUSY (R457). ARM of a granted class arms an event, CANCEL disarms it, and INJECTION_FIRING makes the error of Table 13.9
(R396, R397). LOG_WRITE moves the oldest trace record into the ring, a gap record first where some were dropped before it; a trace point adds
one, or is dropped and counted when the FIFO is full or Aedord restarts (R31, R430, R440). -/
def Obligations.DumpsInjectionsAndLog : Prop :=
  ∀ (s : State),
    (∀ tr : DumpTrigger,
      (s.ras.dump = none → ∃ t, exec (.dumpStart tr) s = .next t ∧ getF t F.DMP_STS_BUSY 0 = 1 ∧
        t.ras = { s.ras with dump := some ⟨match tr with | .software => 0 | .aedord => 1 | .reset => 2, getF s F.DMP_CTL_FORMAT 0, ftNow s, []⟩ } ∧
        t = { s with ras := t.ras, regs := t.regs, regB := t.regB, regC := t.regC }) ∧
      (∀ d, s.ras.dump = some d → ∃ t, exec (.dumpStart tr) s = .next t ∧ RegsOnly s t [(F.DMP_STS_OVERRUN, 0, 1)])) ∧
    (∀ d, s.ras.dump = some d →
      let u := dumpPage d.codes.length
      let answered (v : Nat) : State := { s with ras := { s.ras with dump := some { d with codes := d.codes ++ [v] } } }
      let nr := (d.codes.filter (fun v => v == 0xFFFFFFFF)).length
      (d.codes.length < 201 → pageHeld s u.1 u.2 = false →
        ∃ t, exec .dumpUnitRead s = .next t ∧ t = answered (rdWord s (pageBase u.1 u.2 + 0x01C)).toNat) ∧
      (201 ≤ d.codes.length ∨ pageHeld s u.1 u.2 = true → exec .dumpUnitRead s = .next s) ∧
      (d.codes.length < 201 → ∃ t, exec .dumpUnitTimeout s = .next t ∧ t = answered 0xFFFFFFFF) ∧
      (d.codes.length < 201 → exec .dumpEnd s = .next s) ∧
      (201 ≤ d.codes.length → restarting s 17 = false → s.ras.rst = none → ∃ t, exec .dumpEnd s = .next t ∧
        t.ras = { s.ras with dump := none, dumpSeq := s.ras.dumpSeq + 1 } ∧ getF t F.DMP_STS_BUSY 0 = 0 ∧
        getF t F.DMP_STS_NORESP 0 = nr % 2 ^ (F.DMP_STS_NORESP.hi + 1 - F.DMP_STS_NORESP.lo) ∧
        t.aed.log.dumps = s.aed.log.dumps ++ [dumpHeader s d (s.ras.dumpSeq + 1) nr ++ d.codes.flatMap (fun v => leBytes 4 v)] ∧
        Raises s t 12 ∧ (d.format = 0 → t.dram = s.dram ∧ t.cache = s.cache))) ∧
    (∀ x : JtagTxn,
      (s.ras.dump = none → grantOpen s 0 = false → ∃ t, exec (.jtagTransaction x) s = .next t ∧ t = emit s (.scan true 0)) ∧
      (s.ras.dump.isSome → ∃ t, exec (.jtagTransaction x) s = .next t ∧
        t.outbox = s.outbox ++ [.scan true 0] ∧ CountsOne s t F.DBG_STS_JTAG_BUSY_CNT 0 ∧
        t = { s with outbox := t.outbox, regs := t.regs, regB := t.regB, regC := t.regC }) ∧
      (grantOpen s 0 = true → s.ras.dump = none → x.write = true → ∃ t, exec (.jtagTransaction x) s = .next t ∧
        t.outbox.getLast? = some (.scan false 0) ∧ t.pending = s.pending) ∧
      (grantOpen s 0 = true → s.ras.dump = none → x.write = false → x.addr.toNat % 4 = 0 →
        ∃ t, exec (.jtagTransaction x) s = .next t ∧ t.outbox.getLast? = some (.scan false (regRead32 s x.addr.toNat false).1))) ∧
    (grantOpen s 1 = false → ∃ t, exec .injArm s = .next t ∧ RegsOnly s t [(F.INJ_STS_DENIED, 0, 1)]) ∧
    (grantOpen s 1 = true → 1 ≤ getF s F.INJ_CTL_CLASS 0 → getF s F.INJ_CTL_CLASS 0 ≤ 10 → unrsvFree (disarm s iodDie .inject) iodDie = true →
      ∃ t x, exec .injArm s = .next t ∧ t.ras.inj = some x ∧ x.cls = getF s F.INJ_CTL_CLASS 0 ∧ x.unit = getF s F.INJ_TGT_UNIT 0 ∧
        getF t F.INJ_STS_PENDING 0 = 1 ∧ armedAs t iodDie .inject ≠ [] ∧
        t = { s with ras := t.ras, wheels := t.wheels, regs := t.regs, regB := t.regB, regC := t.regC }) ∧
    (∃ t, exec .injCancel s = .next t ∧ t.ras = { s.ras with inj := none } ∧ armedAs t iodDie .inject = [] ∧
      getF t F.INJ_STS_PENDING 0 = 0 ∧ t = { s with ras := t.ras, wheels := t.wheels, regs := t.regs, regB := t.regB, regC := t.regC }) ∧
    (hasFired s iodDie .inject = false → exec .injectionFiring s = .next s) ∧
    (∀ x, hasFired s iodDie .inject = true → s.ras.inj = some x → ∃ t, exec .injectionFiring s = .next t ∧
      t.ras = { s.ras with inj := none, injFired := some (ftNow s) } ∧ getF t F.INJ_STS_PENDING 0 = 0 ∧
      CountsOne s t F.INJ_STS_FIRED_CNT 0 ∧
      (x.cls = 1 → x.addr < dpaLimit → ∀ a, sget 0 t.dram a =
        if a = 64 * (x.addr / 64) then sget 0 s.dram a ^^^ 0x0F else sget 0 s.dram a) ∧
      (x.cls = 7 → x.unit < 48 → linkOf t x.unit = { linkOf s x.unit with injFlits := (linkOf s x.unit).injFlits + x.count }) ∧
      (x.cls = 8 → x.unit < 48 → 0 < x.count → (linkOf t x.unit).losUntil = ftNow s + 1000 * x.count ∧
        (linkState s x.unit = 2 → linkState t x.unit = 3)) ∧
      (x.cls = 9 → x.unit < 128 → coreOf t x.unit = { coreOf s x.unit with beatHold := (coreOf s x.unit).beatHold + x.count }) ∧
      (x.cls = 10 → t.twin = { s.twin with beaconHold := ftNow s + 100000 * x.count })) ∧
    (∀ b n r rest, restarting s 17 = false → s.aed.log.ring = some b → s.aed.log.dumps = [] → s.aed.log.fifo = (n, r) :: rest →
      let h := getF s F.AED_LOG_HEAD_HEAD 0
      let w := if n = 0 then r else gapRecord n r
      ∃ t, exec .logWrite s = .next t ∧ t.aed.log = { s.aed.log with fifo := if n = 0 then rest else (0, r) :: rest } ∧
        getF t F.AED_LOG_HEAD_HEAD 0 = (h + 1) % 30720 ∧
        (CacheOk s → r.length = 32 → b + 32 * h + 32 ≤ dpaLimit → MemStored s t (b + 32 * h) w) ∧
        MemSide { s with aed := t.aed, regs := t.regs, regB := t.regB, regC := t.regC } t) ∧
    (∀ (src code : BitVec 16) (data : List Byte),
      (traceOn s src.toNat code.toNat = false → exec (.tracePoint src code data) s = .next s) ∧
      (traceOn s src.toNat code.toNat = true → restarting s 17 = false → s.aed.log.fifo.length < traceRoom →
        ∃ t, exec (.tracePoint src code data) s = .next t ∧ t = { s with aed := { s.aed with log := { s.aed.log with
          fifo := s.aed.log.fifo ++ [(s.aed.log.drops, traceBytes (ftNow s) src.toNat code.toNat data)], drops := 0 } } }) ∧
      (traceOn s src.toNat code.toNat = true → restarting s 17 = true ∨ traceRoom ≤ s.aed.log.fifo.length →
        ∃ t, exec (.tracePoint src code data) s = .next t ∧ CountsOne s t F.LOG_CNT_TRACE_DROP 0 ∧
          t.aed = { s.aed with log := { s.aed.log with drops := min (s.aed.log.drops + 1) (2 ^ 32 - 1) } } ∧
          t = { s with aed := t.aed, regs := t.regs, regB := t.regB, regC := t.regC }))

/-! ### Host link, storage and Ethernet (R399 to R415, R500) -/

/-- Host link: training sets mode, width and rate; an access inside the window reads or writes device memory at the window's
base, held and answered as R217 says, poison counted by line, and is discarded on an insecure stream (R401, R406 to R408); HOST_WIN is refused while a decoder is committed or beyond device memory; a
module access to a host-bias page snoops the host first and BIAS_CMD flips pages (R402, R403); IDE streams are programmed in a
session and fail on a bad check (R406); a function-level reset ends every context and masks MSI-X, PERST_N again does so and
uncommits the decoder (R410, R500; the decoder's loss is the model's, notes/assumptions/29.md); unmasking a pending vector sends
its message (R409). -/
def Obligations.HostLinkCommands : Prop :=
  ∀ (s : State),
    let modHdm (b : Option Nat) : State := { s with host := { s.host with hdm := b } }
    (∀ h : HostTraining, (s.pwr.perstN = true → ∃ t, exec (.hostLinkTraining h) s = .next t ∧
        RegsOnly s t [(F.HOST_STS_MODE, 0, if h.cxl = true ∧ h.rate = 0 then 1 else 0), (F.HOST_STS_WIDTH, 0, h.width.toNat),
          (F.HOST_STS_RATE, 0, h.rate.toNat)]) ∧
      (s.pwr.perstN = false → exec (.hostLinkTraining h) s = .next s)) ∧
    (∀ (x : HostAccess) o,
      let len := if x.write then x.data.length else x.len
      let a := winBase s + o
      winOffset s x.addr.toNat len = some o →
      (hostUp s = false ∨ sget 0 s.host.ide memStream = 2 → exec (.cxlMemAccess x) s = .next s) ∧
      (hostUp s = true → sget 0 s.host.ide memStream ≠ 2 → CacheOk s → a + len ≤ dpaLimit → x.write = true →
        ∃ t, exec (.cxlMemAccess x) s = .next t ∧ MemStored s t a x.data ∧
          MemSide { s with regs := t.regs, regB := t.regB, regC := t.regC } t ∧
          getF t F.HOST_CNT_POISON_RX_CNT 0 = min (getF s F.HOST_CNT_POISON_RX_CNT 0 +
            (if x.poison then (linesOf a len).length else 0)) (2 ^ (F.HOST_CNT_POISON_RX_CNT.hi + 1 - F.HOST_CNT_POISON_RX_CNT.lo) - 1)) ∧
      (hostUp s = true → sget 0 s.host.ide memStream ≠ 2 → CacheOk s → HeldOk s → a + len ≤ dpaLimit → x.write = false →
        ∃ t bs p k, exec (.cxlMemAccess x) s = .next t ∧ bs.length = len ∧ (∀ i, i < len → bs.getD i 0 = lineByte s (a + i)) ∧
          (p = true ↔ 0 < k) ∧ (p = true ↔ ∃ l ∈ linesOf a len, peekPoison s l = true ∨ lineBad s l) ∧
          k ≤ (linesOf a len).length ∧ MemKept s t ∧
          (unfilledMds s a len = [] → t.outbox = s.outbox ++ [.readResp bs p] ∧ t.answers = s.answers ∧
            getF t F.HOST_CNT_POISON_TX_CNT 0 = min (getF s F.HOST_CNT_POISON_TX_CNT 0 + k)
              (2 ^ (F.HOST_CNT_POISON_TX_CNT.hi + 1 - F.HOST_CNT_POISON_TX_CNT.lo) - 1)) ∧
          (unfilledMds s a len ≠ [] → t.outbox = s.outbox ∧ t.answers = s.answers ++ [⟨unfilledMds s a len, bs, p, k⟩]) ∧
          MemSide { s with outbox := t.outbox, answers := t.answers, regs := t.regs, regB := t.regB, regC := t.regC } t)) ∧
    (∀ x : HostAccess, winOffset s x.addr.toNat (if x.write then x.data.length else x.len) = none → exec (.cxlMemAccess x) s = .next s) ∧
    (∀ v : Word32,
      let base := v.toNat % 4096
      let size := v.toNat / 4096 % 512
      let beyond := 256 < size ∨ (size ≠ 0 ∧ dpaLimit < (base + size) * 2 ^ 28)
      (s.host.hdm.isSome → ∃ t, exec (.hostWinWrite v) s = .next t ∧ RegsOnly s t [(F.HOST_STS_IGNORED, 0, 1)]) ∧
      (s.host.hdm = none → beyond → ∃ t, exec (.hostWinWrite v) s = .next t ∧ RegsOnly s t [(F.HOST_STS_WIN_BAD, 0, 1)]) ∧
      (s.host.hdm = none → ¬beyond → ∃ t, exec (.hostWinWrite v) s = .next t ∧
        RegsOnly s t [(F.HOST_WIN_HI_BASE, 0, base), (F.HOST_WIN_HI_SIZE, 0, size)])) ∧
    (∀ b : BitVec 52, (cxlMode s = true → ∃ t, exec (.hdmDecoderCommit b) s = .next t ∧ t = modHdm (some b.toNat)) ∧
      (cxlMode s = false → exec (.hdmDecoderCommit b) s = .next s)) ∧
    (∀ (dpa : BitVec 40) (w : Bool),
      (∀ g, biasPage s dpa.toNat = some g → cxlMode s = true → hostUp s = true → sget false s.host.devBias g = false →
        ∃ t, exec (.biasSnoop dpa w) s = .next t ∧ t = emit s (.snoop (dpa.toNat / 64 * 64) (if w then 1 else 0))) ∧
      ((∀ g, biasPage s dpa.toNat = some g → sget false s.host.devBias g = true) → exec (.biasSnoop dpa w) s = .next s)) ∧
    (∀ (g : BitVec 20) (n : BitVec 11) (e : Bool × Instr), e ∈ [(true, Instr.biasToDevice g n), (false, .biasToHost g n)] →
      (getF s F.BIAS_STS_BUSY 0 = 1 → ∃ t, exec e.2 s = .next t ∧ RegsOnly s t [(F.BIAS_STS_OVERRUN, 0, 1)]) ∧
      (getF s F.BIAS_STS_BUSY 0 = 0 → cxlMode s = true → winBytes s < 65536 * (g.toNat + n.toNat + 1) →
        ∃ t, exec e.2 s = .next t ∧ RegsOnly s t [(F.BIAS_STS_RANGE, 0, 1)]) ∧
      (getF s F.BIAS_STS_BUSY 0 = 0 → cxlMode s = true → 65536 * (g.toNat + n.toNat + 1) ≤ winBytes s →
        ∃ t, exec e.2 s = .next t ∧ t = { s with host := { s.host with devBias := t.host.devBias }, outbox := t.outbox } ∧
          (∀ p, sget false t.host.devBias p =
            if g.toNat ≤ p ∧ p ≤ g.toNat + n.toNat then e.1 else sget false s.host.devBias p) ∧
          t.outbox.length = s.outbox.length + (if e.1 then 1024 * (n.toNat + 1) else 0))) ∧
    (∀ (n : Fin 8) (st : Fin 256),
      (cxlMode s = false → st.val = memStream → exec (.ideKm n st true) s = .next s) ∧
      (cxlMode s = true ∨ st.val ≠ memStream → (sget none s.aed.sessions n.val).isSome → restarting s 17 = false →
        ∃ t, exec (.ideKm n st true) s = .next t ∧
        sget 0 t.host.ide st.val = 1 ∧ (∀ j, j ≠ st.val → sget 0 t.host.ide j = sget 0 s.host.ide j) ∧
        t = { s with host := t.host, aed := t.aed, regs := t.regs, regB := t.regB, regC := t.regC }) ∧
      exec (.ideKm n st false) s = .next s ∧
      (sget 0 s.host.ide st.val = 1 → ∃ t, exec (.ideIntegrityFailure st) s = .next t ∧ sget 0 t.host.ide st.val = 2 ∧
        getF t F.HOST_STS_IDE_FAIL 0 = 1 ∧ CountsOne s t F.HOST_CNT_IDE_FAIL_CNT 0 ∧
        t = { s with host := t.host, regs := t.regs, regB := t.regB, regC := t.regC }) ∧
      (sget 0 s.host.ide st.val ≠ 1 → exec (.ideIntegrityFailure st) s = .next s)) ∧
    (∀ hot : Bool, ∃ t, exec (.functionLevelReset hot) s = .next t ∧ t.msix = ⟨[], [], []⟩ ∧
      (∀ k, k < 4096 → (ctxOf s k).state = 1 → (ctxOf t k).state = 3 ∧ (ctxOf t k).flr = true) ∧
      t.host = { s.host with hdm := if hot then none else s.host.hdm, asked := t.host.asked, asks := t.host.asks } ∧
      t.pending = s.pending) ∧
    (∃ t, exec (.perstN true) s = .next t ∧ t = { s with pwr := { s.pwr with perstN := true } }) ∧
    (s.pwr.perstN = true → s.host.perstSeen = true → ∃ t, exec (.perstN false) s = .next t ∧ t.pwr.perstN = false ∧
      t.host = { s.host with hdm := none, asked := t.host.asked, asks := t.host.asks } ∧ t.msix = ⟨[], [], []⟩ ∧ getF t F.HOST_STS_WIDTH 0 = 3) ∧
    (s.host.perstSeen = false → ∃ t, exec (.perstN false) s = .next t ∧ t.pwr.perstN = false ∧ t.host.perstSeen = true ∧
      t = { s with pwr := t.pwr, host := t.host, regs := t.regs, regB := t.regB, regC := t.regC }) ∧
    (∀ v : Fin 2048, ∃ t, exec (.msixUnmask v) s = .next t ∧ sget false t.msix.unmasked v.val = true ∧
      sget false t.msix.pend v.val = false ∧ t = { s with msix := t.msix, outbox := t.outbox } ∧
      t.outbox = (if sget false s.msix.pend v.val then s.outbox ++ [.msix v.val] else s.outbox))

/-- STO_ENABLE of a good table entry that a peer answers rightly makes the target UP with its queue depth and keep-alive time, else
it reads DOWN; DISABLE returns it; a keep-alive goes to a target that is UP on each port that reaches it, once its interval has
passed (R412 to R414). A completion ends its command, an error of a
kiln's ends the job; a time-out or a lost port reissues the command once on the other port (R415). Ports count what they drop,
slow down on congestion notices, and pause the storage priority and send at its resumption what waited (R411, R412). -/
def Obligations.StorageAndEthernet : Prop :=
  ∀ (s : State),
    (∀ (n : Fin 256) (r : TargetReply), restarting s 0 = false →
      let e := devRead s (tgtAddr s n.val) 256
      let kato := fieldLE e.1 38 39
      let qd := fieldLE e.1 40 41
      let good := e.2.1 = false ∧ r.lbaSize = 4096 ∧ r.metadata = false ∧ 1 ≤ kato ∧ kato ≤ 3600 ∧ 16 ≤ qd ∧ qd ≤ 1024 ∧
        r.eth0 = true ∧ ethUp s 0 = true ∧ pairsOn s 0 < 64
      let none_ := (r.eth0 = false ∨ ethUp s 0 = false) ∧ (r.eth1 = false ∨ ethUp s 1 = false)
      (getF s F.STO_STS_BUSY 0 = 1 → ∀ c ∈ [Instr.stoEnable n r, .stoDisable n],
        ∃ t, exec c s = .next t ∧ RegsOnly s t [(F.STO_STS_OVERRUN, 0, 1)]) ∧
      (getF s F.STO_STS_BUSY 0 = 0 → (tgtOf s n.val).state ≠ 2 → good → ∃ t, exec (.stoEnable n r) s = .next t ∧
        tgtOf t n.val = ⟨2, true, (tgtOf t n.val).eth1, qd, kato, e.1, ftNow s⟩ ∧
        ((sget EthSt.reset s.sto.ports 0).paused = false → .connect n.val 0 e.1 ∈ t.outbox) ∧
        getF t F.STO_STS_STATE 0 = 2 ∧ (∀ j, j ≠ n.val → tgtOf t j = tgtOf s j) ∧
        MemSide { s with sto := t.sto, outbox := t.outbox, regs := t.regs, regB := t.regB, regC := t.regC } t) ∧
      (getF s F.STO_STS_BUSY 0 = 0 → (tgtOf s n.val).state ≠ 2 → none_ ∨ r.lbaSize ≠ 4096 ∨ r.metadata = true ∨ e.2.1 = true →
        ∃ t, exec (.stoEnable n r) s = .next t ∧ tgtOf t n.val = ⟨3, false, false, 0, 0, [], 0⟩ ∧ getF t F.STO_STS_STATE 0 = 3) ∧
      (getF s F.STO_STS_BUSY 0 = 0 → ∃ t, exec (.stoDisable n) s = .next t ∧ tgtOf t n.val = TgtSt.reset ∧
        (∀ j, j ≠ n.val → tgtOf t j = tgtOf s j) ∧ t = { s with sto := t.sto, regs := t.regs, regB := t.regB, regC := t.regC }) ∧
      ((tgtOf s n.val).state = 2 → (tgtOf s n.val).kept + 1000000000 * (tgtOf s n.val).kato ≤ ftNow s →
        (∀ p, (sget EthSt.reset s.sto.ports p).paused = false) → ∃ t, exec (.keepAlive n) s = .next t ∧
        tgtOf t n.val = { tgtOf s n.val with kept := ftNow s } ∧ (∀ j, j ≠ n.val → tgtOf t j = tgtOf s j) ∧
        t.outbox = s.outbox ++ ([0, 1].filter (reaches s n.val)).map (OutMsg.keepAlive n.val) ∧
        t = { s with sto := { s.sto with targets := t.sto.targets }, outbox := t.outbox }) ∧
      ((tgtOf s n.val).state ≠ 2 ∨ ftNow s < (tgtOf s n.val).kept + 1000000000 * (tgtOf s n.val).kato →
        exec (.keepAlive n) s = .next s)) ∧
    (∀ (id : Nat) (c : NvmeCmd) p, s.sto.cmds.find? (fun c => c.id == id) = some c → c.port = some p →
      (∀ (st : BitVec 16) (data : List Byte), ∃ t, exec (.nvmeCompletion id st data) s = .next t ∧ (∀ d ∈ t.sto.cmds, d.id ≠ id) ∧
        (∀ m j, kilnOf s (match c.owner with | .kiln q _ _ => q | .snap => 0) (match c.owner with | .kiln _ i _ => i | .snap => 0) = some m →
          st ≠ 0 → j ∈ kilnJobs t m → (∃ b, c.owner = .kiln j.q j.i b) → j.ended.isSome) ∧
        (∀ q i b m j, st = 0 → c.isWrite = false → c.owner = .kiln q i b → kilnOf s q i = some m → j ∈ kilnJobs s m → j.q = q →
          j.i = i → landStored j (65536 * b) (padTo (4096 * c.nlb) data) ∈ kilnJobs t m)) ∧
      (c.since + 1000000 * max 1 (getF s F.STO_CFG_IO_TO_MS 0) ≤ ftNow s → c.tries = 1 → 1 - p ∈ livePorts s c.tgt →
        (sget EthSt.reset s.sto.ports (1 - p)).paused = false → ∃ t, exec (.nvmeCommandTimeout id) s = .next t ∧
          t.outbox = s.outbox ++ [.nvme id (1 - p) c.tgt c.isWrite c.lba c.nlb c.data] ∧
          (∀ d ∈ t.sto.cmds, d.id = id → d = { c with tries := 2, port := some (1 - p), since := ftNow s }) ∧
          t = { s with sto := t.sto, outbox := t.outbox }) ∧
      (ftNow s < c.since + 1000000 * max 1 (getF s F.STO_CFG_IO_TO_MS 0) → exec (.nvmeCommandTimeout id) s = .next s)) ∧
    (∀ p : Fin 2, (∃ t, exec (.ethInboundDrop p) s = .next t ∧ RegsOnly s t [bump s F.ETH_STS_RX_DROP_CNT p.val]) ∧
      (∀ up, ∃ t, exec (.ethPortLinkChange p up) s = .next t ∧ ethUp t p.val = up ∧
        (s.sto.cmds = [] → t = { s with regs := t.regs, regB := t.regB, regC := t.regC })) ∧
      (∃ t, exec (.congestionNotificationPacket p) s = .next t ∧
        (sget EthSt.reset t.sto.ports p.val).cuts = (sget EthSt.reset s.sto.ports p.val).cuts + 1 ∧
        t = { s with sto := { s.sto with ports := t.sto.ports } }) ∧
      (∀ (prio : Fin 8) (on : Bool),
        (getF s F.ETH_STS_PRIO p.val = prio.val → ∃ t, exec (.priorityFlowControlPause p prio on) s = .next t ∧
          (∀ j, sget EthSt.reset t.sto.ports j = if j = p.val then
            { ethOf s j with paused := on, waiting := if on then (ethOf s j).waiting else [] } else ethOf s j) ∧
          t.outbox = s.outbox ++ (if on then [] else (ethOf s p.val).waiting.filter (fun m => match m with
            | .nvme id _ _ _ _ _ _ => s.sto.cmds.any (fun c => c.id == id && c.port == some p.val)
            | _ => true)) ∧
          t = { s with sto := { s.sto with ports := t.sto.ports }, outbox := t.outbox }) ∧
        (getF s F.ETH_STS_PRIO p.val ≠ prio.val → exec (.priorityFlowControlPause p prio on) s = .next s)))

/-! ### Management path (R433 to R463) -/

/-- During a restart of Aedord every message of the Lachemund set is answered BUSY (R440), and while no firmware runs none is
answered; a firmware update request is heard by the mask ROM alone over SMBus only (R443). -/
def Obligations.ManagementBusyOrSilent : Prop :=
  ∀ (o : Origin) (a b c : List Byte) (m : GrantMsg) (l : List CalEntry) (sensor : BitVec 16) (off : BitVec 26) (w : BitVec 24)
    (v : Word32) (s : State),
    let plain : Nat × Instr → Prop := fun e => e ∈ [(0x01, .getVersion o), (0x02, .getNonce o), (0x03, .getCert o),
      (0x04, .getMeasurements o a), (0x05, .sessionOpen o a b), (0x06, .sessionClose o), (0x10, .grantMessage o m),
      (0x11, .ownerSet o a b c), (0x12, .svnCommit o), (0x13, .calSet o l), (0x22, .regRead o off), (0x23, .regWrite o off v),
      (0x24, .dumpReq o), (pldmReadings, .pldmMonitoringRequest o sensor)]
    let update : Instr → Prop := fun i => i ∈ [.requestFirmwareData o w a, .verifyComplete o, .activateFirmware o]
    (∀ e, plain e → restarting s 17 = true → ∃ t, exec e.2 s = .next t ∧ t = reply s o e.1 [0x02]) ∧
    (∀ e, plain e → restarting s 17 = false → firmwareRuns s = false → exec e.2 s = .next s) ∧
    (∀ i, update i → ¬RomAlone s → restarting s 17 = true → ∃ t, exec i s = .next t ∧ t = reply s o pldmUpdate [0x02]) ∧
    (∀ i, update i → ¬RomAlone s → restarting s 17 = false → firmwareRuns s = false → exec i s = .next s) ∧
    (∀ i, update i → RomAlone s → o.binding ≠ .smbus → exec i s = .next s)

/-- GET_VERSION, GET_NONCE, GET_CERT answer; GET_MEASUREMENTS and SESSION_OPEN wait for a signature index, which a store commit
reserves (R452), or are answered EXHAUSTED (R453); a ninth session is BUSY, a session closes on its message or after 60 s (R455);
GRANT opens its scope in its session for a fresh nonce signed by the owner and GRANT_EXPIRY closes it, OWNER_SET, SVN_COMMIT,
CAL_SET and DUMP_REQ act with their authority and are DENIED without it (R435, R456, R457). SIGNATURE_RELEASE signs the oldest
request with the next index, at most 64 a second (R452). -/
def Obligations.SessionsAndGrants : Prop :=
  ∀ (o : Origin) (nonce encap hash key sig : List Byte) (m : GrantMsg) (l : List CalEntry) (n : Fin 8) (sc : Scope) (s : State),
    let u := heard s o
    let sess := o.session.map (fun k => k.val)
    (Serving s →
      (∃ t, exec (.getVersion o) s = .next t ∧ t = reply u o 0x01 (0x00 :: Config.version)) ∧
      (∃ t, exec (.getCert o) s = .next t ∧ t = reply u o 0x03 (0x00 :: Config.certs)) ∧
      (∃ t, exec (.getNonce o) s = .next t ∧ t.aed = { u.aed with nonces := u.aed.nonces ++ [Config.freeBits s.freshIdx] } ∧
        Answered t o 0x02 (0x00 :: leBytes 8 (Config.freeBits s.freshIdx).toNat) ∧
        t = { s with aed := t.aed, outbox := t.outbox, freshIdx := s.freshIdx + 1 }) ∧
      (KeyLasts s → ∃ t, exec (.getMeasurements o nonce) s = .next t ∧
        t.aed.sigs = s.aed.sigs ++ [⟨0, o.binding, sess, nonce⟩] ∧ t = { s with aed := t.aed } ∧
        (t.aed.reserved.1 < t.aed.reserved.2 ∨ t.aed.commits.contains .reserve = true)) ∧
      (¬KeyLasts s → ∃ t, exec (.getMeasurements o nonce) s = .next t ∧ t.aed.sigs = [] ∧ Answered t o 0x04 [0x03] ∧
        t = { s with aed := t.aed, outbox := t.outbox }) ∧
      (8 ≤ sessionsTaken s → ∃ t, exec (.sessionOpen o nonce encap) s = .next t ∧ t = reply u o 0x05 [0x02]) ∧
      (sessionsTaken s < 8 → KeyLasts s → ∃ t, exec (.sessionOpen o nonce encap) s = .next t ∧
        t.aed.sigs = s.aed.sigs ++ [⟨1, o.binding, sess, nonce⟩] ∧ t = { s with aed := t.aed } ∧
        (t.aed.reserved.1 < t.aed.reserved.2 ∨ t.aed.commits.contains .reserve = true)) ∧
      (∀ k x, inSession u o = some (k, x) → ∃ t, exec (.sessionClose o) s = .next t ∧ sessOf t k = none ∧
        (∀ j, j ≠ k → sessOf t j = sessOf s j) ∧ Answered t o 0x06 [0x00] ∧ MgmtSide s t) ∧
      (inSession u o = none → ∃ t, exec (.sessionClose o) s = .next t ∧ t = reply u o 0x06 [0x01]) ∧
      (∀ k x v, inSession u o = some (k, x) → v ∈ s.aed.nonces → m.nonce = leBytes 8 v.toNat → m.serial = Config.serial →
        1 ≤ m.seconds → m.seconds ≤ 86400 → (storeCfg s).owner ≠ [] →
        Config.ownerSig (storeCfg s).owner (grantBytes m) m.sig = true → ∃ t, exec (.grantMessage o m) s = .next t ∧
          sessOf t k = some { x with grants := x.grants ++ [(scopeCode m.scope, ftNow s + 1000000000 * m.seconds)], last := ftNow s } ∧
          (∀ j, j ≠ k → sessOf t j = sessOf s j) ∧ t.aed.nonces = s.aed.nonces.erase v ∧ Answered t o 0x10 [0x00] ∧ MgmtSide s t) ∧
      ((inSession u o = none ∨ m.seconds = 0 ∨ 86400 < m.seconds ∨ m.serial ≠ Config.serial ∨ (storeCfg s).owner = [] ∨
          (∀ v ∈ s.aed.nonces, m.nonce ≠ leBytes 8 v.toNat) ∨
          Config.ownerSig (storeCfg s).owner (grantBytes m) m.sig = false) →
        ∃ t, exec (.grantMessage o m) s = .next t ∧ t = reply u o 0x10 [0x01]) ∧
      (∃ t, exec (.ownerSet o hash key sig) s = .next t ∧
        t = (if hash.length = 32 ∧ ((storeCfg s).owner = [] ∨ Config.ownerSig (storeCfg s).owner hash (key ++ sig) = true)
          then reply { u with aed := { u.aed with commits := u.aed.commits ++ [.owner hash] } } o 0x11 [0x00]
          else reply u o 0x11 [0x01])) ∧
      (granted u o 2 = true → l.length ≤ 128 → ∃ t, exec (.calSet o l) s = .next t ∧
        t = reply { u with aed := { u.aed with commits := u.aed.commits ++ [.overlay l] } } o 0x13 [0x00]) ∧
      (granted u o 2 = false ∨ 128 < l.length → ∃ t, exec (.calSet o l) s = .next t ∧ t = reply u o 0x13 [0x01]) ∧
      (granted u o 4 = true → getF s F.MOD_STS_RECOVERY 0 = 0 → s.aed.svn ≤ getF s F.AED_BOOT_SVN_IMG 0 →
        ∃ t, exec (.svnCommit o) s = .next t ∧ t.aed.svn = getF s F.AED_BOOT_SVN_IMG 0 ∧
          getF t F.AED_BOOT_SVN_FUSE 0 = getF s F.AED_BOOT_SVN_IMG 0 ∧ Answered t o 0x12 [0x00] ∧ MgmtSide s t) ∧
      (granted u o 4 = false ∨ getF s F.MOD_STS_RECOVERY 0 = 1 ∨ getF s F.AED_BOOT_SVN_IMG 0 < s.aed.svn →
        ∃ t, exec (.svnCommit o) s = .next t ∧ t = reply u o 0x12 [0x01]) ∧
      (granted u o 3 = true → s.ras.dump = none → ∃ t, exec (.dumpReq o) s = .next t ∧ getF t F.DMP_STS_BUSY 0 = 1 ∧
        t.ras = { s.ras with dump := some ⟨1, getF s F.DMP_CTL_FORMAT 0, ftNow s, []⟩ } ∧ Answered t o 0x24 [0x00]) ∧
      (granted u o 3 = false → ∃ t, exec (.dumpReq o) s = .next t ∧ t = reply u o 0x24 [0x01])) ∧
    (∀ x, sessOf s n.val = some x →
      (x.last + 60000000000 ≤ ftNow s → ∃ t, exec (.sessionTimeout n) s = .next t ∧ sessOf t n.val = none ∧
        (∀ j, j ≠ n.val → sessOf t j = sessOf s j) ∧ MgmtSide s t) ∧
      (ftNow s < x.last + 60000000000 → exec (.sessionTimeout n) s = .next s) ∧
      (∃ t, exec (.grantExpiry n sc) s = .next t ∧ MgmtSide s t ∧ (∀ j, j ≠ n.val → sessOf t j = sessOf s j) ∧
        sessOf t n.val = some { x with
          grants := x.grants.filter (fun g => !(g.1 == scopeCode sc && decide (g.2 ≤ ftNow s))) })) ∧
    (sessOf s n.val = none → exec (.sessionTimeout n) s = .next s ∧ exec (.grantExpiry n sc) s = .next s) ∧
    (∀ q rest, s.aed.sigs = q :: rest → s.aed.reserved.1 < s.aed.reserved.2 → restarting s 17 = false → signatureDue s = true →
      (rest = [] ∨ s.aed.reserved.1 + 1 < s.aed.reserved.2) →
      let i := s.aed.reserved.1
      let doc := measurements s ++ leBytes 1 s.aed.svn
      let released := (ftNow s :: s.aed.released).take 64
      (q.kind = 0 → ∃ t, exec .signatureRelease s = .next t ∧
        t.aed = { s.aed with sigs := rest, reserved := (i + 1, s.aed.reserved.2), released := released } ∧
        t.outbox = s.outbox ++ [.mgmt (some q.via) 0x04 q.session
          (0x00 :: doc ++ leBytes 8 i ++ Config.sign i (doc ++ q.nonce ++ leBytes 8 i))] ∧
        t = { s with aed := t.aed, outbox := t.outbox }) ∧
      (q.kind ≠ 0 → (∃ j, j < 8 ∧ sessOf s j = none) → ∃ t j, exec .signatureRelease s = .next t ∧ sessOf s j = none ∧ j < 8 ∧
        sessOf t j = some ⟨q.via, ftNow s, []⟩ ∧ t.aed.sigs = rest ∧ t.aed.reserved = (i + 1, s.aed.reserved.2) ∧ t.aed.released = released ∧
        t.outbox = s.outbox ++ [.mgmt (some q.via) 0x05 (some j) (0x00 :: Config.kemKey s.freshIdx ++ leBytes 8 i ++
          Config.sign i (Config.kemKey s.freshIdx ++ q.nonce ++ leBytes 8 i))] ∧ MgmtSide s t)) ∧
    (s.aed.sigs = [] ∨ s.aed.reserved.2 ≤ s.aed.reserved.1 ∨ restarting s 17 = true ∨ signatureDue s = false → exec .signatureRelease s = .next s)

/-- STORE_COMMIT writes one record with the next number in the other bank: the oldest change that waits, or log entries that have
waited a second (R447 to R450); a record of the other bank is never erased. During a trip hold the commit of the trip's entry turns
the rails off (R495). ENDPOINT_ID_ASSIGNMENT keeps the binding's endpoint ID (R434). -/
def Obligations.StoreKeepsState : Prop :=
  ∀ (b : Binding) (eid : BitVec 8) (s : State),
    let up := restarting s 17 = false ∧ firmwareRuns s = true
    let written (t : State) (cfg : StoreCfg) : Prop := ∃ r, t.aed.store.getLast? = some r ∧ r.cfg = cfg ∧ r.seq = storeSeq s + 1 ∧
      (∀ x ∈ t.aed.store, x = r ∨ x ∈ s.aed.store) ∧ (∀ x ∈ s.aed.store, x.seq % 2 ≠ r.seq % 2 → x ∈ t.aed.store) ∧ storeCfg t = cfg
    (¬up → exec .storeCommit s = .next s) ∧
    (∀ c rest, up → s.aed.commits = c :: rest → s.pwr.trip = none → ∃ t, exec .storeCommit s = .next t ∧ MgmtSide s t ∧
      written t (commitCfg (storeCfg s) c) ∧
      (c = .reserve → t.aed.reserved = ((storeCfg s).nextIdx, (storeCfg s).nextIdx + 256) ∧
        (storeCfg t).nextIdx = (storeCfg s).nextIdx + 256) ∧
      (∀ h, c = .owner h → storeCfg t = { storeCfg s with owner := h }) ∧
      (∀ l, c = .overlay l → storeCfg t = { storeCfg s with overlay := l }) ∧
      (∀ k, c = .activate k → storeCfg t = { storeCfg s with pending := some k, attempt := false }) ∧
      ((∀ h, c ≠ .owner h) → (∀ l, c ≠ .overlay l) → t.aed.commits = rest ∧ t.aed.logWait = s.aed.logWait.drop 31)) ∧
    (up → s.aed.commits = [] →
      (s.aed.logWait = [] ∨ (∃ w, s.aed.lastCommit = some w ∧ ftNow s < w + 1000000000) → exec .storeCommit s = .next s) ∧
      (s.aed.logWait ≠ [] → (∀ w, s.aed.lastCommit = some w → w + 1000000000 ≤ ftNow s) →
        (s.pwr.trip = none → ∃ t, exec .storeCommit s = .next t ∧ MgmtSide s t ∧ written t (storeCfg s) ∧
          t.aed.logWait = s.aed.logWait.drop 31 ∧ t.aed.lastCommit = some (ftNow s)) ∧
        (s.pwr.trip.isSome → (∃ e ∈ s.aed.logWait.take 31, e.kind = 6) → ∃ t, exec .storeCommit s = .next t ∧ ColdFrom
            { s with aed := { s.aed with store := t.aed.store } } t ∧ written t (storeCfg s) ∧ t.pwr.good = false ∧
          t.pwr.trip = none ∧ t.pwr.latched = true))) ∧
    (up → ∃ t, exec (.endpointIdAssignment b eid) s = .next t ∧ t = { s with aed := { s.aed with eids := t.aed.eids } } ∧
      sget 0 t.aed.eids (match b with | .smbus => 0 | .pcieVdm => 1) = eid.toNat) ∧
    (¬up → exec (.endpointIdAssignment b eid) s = .next s)

/-- PLDM requests read a sensor, write an update image to the slot that is not ACTIVE, verify it and make it PENDING (R434, R443,
R462); SENSOR_SAMPLE and PMBUS_POLL refresh the readings, offset by the overlay (R428, R429, R459). -/
def Obligations.PldmAndSensors : Prop :=
  ∀ (o : Origin) (sensor : BitVec 16) (off : BitVec 24) (data : List Byte) (raw : List (BitVec 12)) (rails : List RailReading) (s : State),
    (Serving s → let u := heard s o
      let n := sensor.toNat
      let is (a : Nat) : Prop := ∃ t, exec (.pldmMonitoringRequest o sensor) s = .next t ∧
        t = reply u o pldmReadings (0x00 :: leBytes 4 (sget 0 s.aed.readings a).toNat)
      (getF s F.MOD_STS_RECOVERY 0 = 1 → ∃ t, exec (.pldmMonitoringRequest o sensor) s = .next t ∧ t = reply u o pldmReadings [0x05]) ∧
      (getF s F.MOD_STS_RECOVERY 0 = 0 → (1 ≤ n → n ≤ 64 → is (4 * (n - 1))) ∧
        (65 ≤ n → n ≤ 160 → is (0x100 + 16 * ((n - 65) / 4) + 4 * ((n - 65) % 4))) ∧ (n = 161 → is 0x300) ∧
        (n = 0 ∨ 161 < n → ∃ t, exec (.pldmMonitoringRequest o sensor) s = .next t ∧ t = reply u o pldmReadings [0x80]))) ∧
    (∀ u, UpdateHeard s u o → let k := updateSlot s
      let base := 0x1000000 * k + off.toNat
      (updateRefused s = false → off.toNat + data.length ≤ 0x1000000 → data.length ≤ 1024 →
        ∃ t, exec (.requestFirmwareData o off data) s = .next t ∧ t.aed.update = some (k, false) ∧ Answered t o pldmUpdate [0x00] ∧
          (∀ a, sget 0 t.aed.flash a = if base ≤ a ∧ a < base + data.length then data.getD (a - base) 0 else sget 0 s.aed.flash a) ∧
          t = { s with outbox := t.outbox, aed := { u.aed with flash := t.aed.flash, update := t.aed.update } }) ∧
      (updateRefused s = true ∨ 0x1000000 < off.toNat + data.length ∨ 1024 < data.length →
        ∃ t, exec (.requestFirmwareData o off data) s = .next t ∧ t = reply u o pldmUpdate [0x01]) ∧
      (s.aed.update = none → ∃ t, exec (.verifyComplete o) s = .next t ∧ t = reply u o pldmUpdate [0x01]) ∧
      (∀ j ok, s.aed.update = some (j, ok) → ∃ t, exec (.verifyComplete o) s = .next t ∧
        t = reply { u with aed := { u.aed with update := some (j, imageVerifies s j) } } o pldmUpdate
          [if imageVerifies s j then 0x00 else 0x01]) ∧
      (updateRefused s = true ∨ (∀ j, s.aed.update ≠ some (j, true)) →
        ∃ t, exec (.activateFirmware o) s = .next t ∧ t = reply u o pldmUpdate [0x01]) ∧
      (∀ j, s.aed.update = some (j, true) → updateRefused s = false →
        (firmwareRuns s = true → ∃ t, exec (.activateFirmware o) s = .next t ∧
          t = reply { u with aed := { u.aed with update := none, commits := u.aed.commits ++ [.activate j] } } o pldmUpdate [0x00]) ∧
        (firmwareRuns s = false → s.pwr.trip = none → ∃ t, exec (.activateFirmware o) s = .next t ∧
          storeCfg t = { storeCfg s with pending := some j, attempt := false } ∧ t.aed.update = none ∧ Answered t o pldmUpdate [0x00] ∧
          MgmtSide s t))) ∧
    (restarting s 17 = false → firmwareRuns s = true → s.pwr.trip = none → ∃ t, exec (.sensorSample raw) s = .next t ∧
      (∀ n, n < raw.length → sget 0 t.aed.temps n = (raw.getD n 0).toNat ∧ sget 0 t.aed.readings (4 * n) =
        BitVec.ofNat 32 (ofInt 12 (satSigned 12 (signedOf 12 (raw.getD n 0).toNat + calOffset s n 32)))) ∧
      (∀ n, raw.length ≤ n → sget 0 t.aed.temps n = sget 0 s.aed.temps n ∧ sget 0 t.aed.readings (4 * n) = sget 0 s.aed.readings (4 * n)) ∧
      t = { s with aed := { s.aed with temps := t.aed.temps, readings := t.aed.readings } }) ∧
    (∀ n, s.pwr.trip.isSome → n < raw.length → n < 60 → 960 ≤ signedOf 12 (raw.getD n 0).toNat →
      ∃ t, exec (.sensorSample raw) s = .next t ∧ ColdFrom s t ∧ t.pwr.good = false ∧ t.pwr.latched = true) ∧
    (Serving s → ∃ t, exec (.pmbusPoll rails) s = .next t ∧
      (∀ r x, r < 24 → rails[r]? = some x →
        let w (k : Nat) : Word32 := sget 0 t.aed.readings (0x100 + 16 * r + k)
        (x.answered = true → w 0 = BitVec.ofNat 32 x.vout.toNat ∧
          w 4 = BitVec.ofNat 32 (gainOf x.iout.toNat (calOffset s (102 + r) 40)) ∧
          w 8 = BitVec.ofNat 32 (gainOf x.iin.toNat (calOffset s (102 + r) 40)) ∧ w 12 = BitVec.ofNat 32 x.treg.toNat) ∧
        (x.answered = false → w 12 =
            BitVec.ofNat 32 ((sget 0 s.aed.readings (0x100 + 16 * r + 12)).toNat % 4096 + 4096) ∧
          ∀ k, k < 12 → w k = sget 0 s.aed.readings (0x100 + 16 * r + k))) ∧
      sget 0 t.aed.readings 0x300 = BitVec.ofNat 32 ((Config.freeBits s.freshIdx).toNat % 65536) ∧
      t = { s with freshIdx := s.freshIdx + 1, aed := { s.aed with readings := t.aed.readings } }) ∧
    (¬Serving s → exec (.pmbusPoll rails) s = .next s)

/-- A firmware processor that misses its watchdog, or whose AED_FWRST bit is written, restarts and is counted; the watchdog also
latches an error code and begins a dump; Aedord's restart ends every session (R438 to R440). ROM_BOOT tries a PENDING image once,
then ACTIVE, then the other, then the recovery image, and shows the outcome (R442, R443); IMAGE_HEALTHY asks for the commit that
makes the booted PENDING image ACTIVE (R445). -/
def Obligations.BootAndRestarts : Prop :=
  ∀ (p : Processor) (v : Word32) (s : State), let n := procNum p
    (procRuns s n = true → restarting s n = false →
      ∃ t, exec (.watchdogRestart p) s = .next t ∧ t.aed.restarting = n :: s.aed.restarting ∧
        CountsOne s t F.AED_RST_CNT_FW_RST_CNT 0 ∧ (s.ras.dump = none → getF t F.DMP_STS_BUSY 0 = 1 ∧ t.ras.dump.isSome) ∧
        (getAt s ((procPage n).1 + 0x014) 0 0 = 0 → getAt t ((procPage n).1 + 0x014) 0 0 = 1 ∧
          rdWord t ((procPage n).1 + 0x01C) = BitVec.ofNat 32 (3 * 2 ^ 28 + (procPage n).2)) ∧
        (p = .aedord → t.aed.sessions = [] ∧ t.aed.reserved = (0, 0)) ∧ (p ≠ .aedord → t.aed.sessions = s.aed.sessions)) ∧
    (procRuns s n = false ∨ restarting s n = true → exec (.watchdogRestart p) s = .next s) ∧
    (∃ t, exec (.aedFwrst v) s = .next t ∧ MgmtSide s t ∧ t.aed.sessions = s.aed.sessions ∧
      ∀ k, restarting t k = (restarting s k || (decide (k < 17) && bitAt v.toNat k && procRuns s k))) ∧
    (∃ t, exec (.restartEnd p) s = .next t ∧ MgmtSide s t ∧ ∀ k, restarting t k = (restarting s k && k != n)) ∧
    (let idle := getF s F.MOD_STS_BOOTED 0 = 0 ∧ getF s F.MOD_STS_RECOVERY 0 = 0 ∧ s.pwr.good = true ∧ s.pwr.resetN = true ∧
        s.pwr.refclk = true
     let c := storeCfg s
     let boots (src try' : Nat) : Prop := ∃ t, exec .romBoot s = .next t ∧ getF t F.AED_BOOT_SRC 0 = src ∧
        getF t F.AED_BOOT_PENDING_TRY 0 = try' ∧ getF t F.MOD_STS_BOOTED 0 = (if src < 2 then 1 else 0) ∧
        getF t F.MOD_STS_RECOVERY 0 = (if src < 2 then 0 else 1) ∧ getF t F.AED_BOOT_SVN_FUSE 0 = s.aed.svn % 128 ∧
        storeCfg t = (if Config.calGood = true ∧ c.pending.isSome ∧ c.attempt = false then { c with attempt := true } else c)
     let recovers : Prop := boots (if Config.recoveryGood = true ∧ s.aed.svn ≤ Config.recoverySvn.toNat then 2 else 3) 0
     let pends (k : Nat) : Prop := c.pending = some k ∧ c.attempt = false ∧ imageVerifies s k = true
     (¬idle → (getF s F.MOD_STS_BOOTED 0 = 1 ∨ getF s F.MOD_STS_RECOVERY 0 = 1 ∨ s.pwr.good = false ∨ s.pwr.resetN = false ∨
        s.pwr.refclk = false) ∧ exec .romBoot s = .next s) ∧
     (idle → s.pwr.trip = none → c.active < 2 → (∀ k, c.pending = some k → k < 2) →
        (Config.calGood = false → recovers) ∧
        (∀ k, Config.calGood = true → pends k → boots k 1) ∧
        (Config.calGood = true → (∀ k, ¬pends k) → imageVerifies s c.active = true → boots c.active 0) ∧
        (Config.calGood = true → (∀ k, ¬pends k) → imageVerifies s c.active = false → imageVerifies s (1 - c.active) = true →
          boots (1 - c.active) 0) ∧
        (Config.calGood = true → (∀ k, ¬pends k) → imageVerifies s 0 = false → imageVerifies s 1 = false → recovers))) ∧
    (let ok := getF s F.AED_BOOT_PENDING_TRY 0 = 1 ∧ getF s F.MOD_STS_CORES_REL 0 = 1 ∧ restarting s 17 = false ∧
        (∀ d, d < 8 → restarting s (9 + d) = false) ∧ s.aed.commits.contains .healthy = false ∧ (storeCfg s).pending.isSome = true
     (ok → ∃ t, exec .imageHealthy s = .next t ∧ t = { s with aed := { s.aed with commits := s.aed.commits ++ [.healthy] } }) ∧
     (¬ok → exec .imageHealthy s = .next s))

/-! ### Power, pins and reset (R35, R464, R487 to R505) -/

/-- The ceiling duty steps down by 1 when 10 µs average over 3,800 W and up 100 µs after a step below 3,700 W (R491); a die's
junction duty steps down at 105 °C and up once all its sensors read 100 °C or less (R492); at 115 °C the trip sets every compute
duty to 0 (R495), and its hold ends with the rails off, as a rail fault does (R496). -/
def Obligations.PowerAndTrip : Prop :=
  ∀ (p10 : Nat) (s : State), let c := s.pwr.capCut
    (s.pwr.good = true →
      (3800 < p10 → c < 15 → ∃ t, exec (.powerCeilingTick p10) s = .next t ∧
        t.pwr = { s.pwr with capCut := c + 1, capSince := ftNow s } ∧ ceilDuty t = ceilDuty s - 1 ∧
        (c = 0 → getAt s (pageBase .mod 0 + 0x014) 0 0 = 0 →
          rdWord t (pageBase .mod 0 + 0x01C) = BitVec.ofNat 32 (7 * 2 ^ 28 + 0x0100))) ∧
      (3800 < p10 → 15 ≤ c → exec (.powerCeilingTick p10) s = .next s) ∧
      (p10 < 3700 → s.pwr.capSince + 100000 ≤ ftNow s → 0 < c → ∃ t, exec (.powerCeilingTick p10) s = .next t ∧
        t.pwr = { s.pwr with capCut := c - 1, capSince := ftNow s, capFull := (if c = 1 then some (ftNow s) else s.pwr.capFull) }) ∧
      (p10 ≤ 3800 → (3700 ≤ p10 ∨ c = 0 ∨ ftNow s < s.pwr.capSince + 100000) → exec (.powerCeilingTick p10) s = .next s)) ∧
    (s.pwr.good = true → s.pwr.trip = none → ∃ t, exec .junctionDutyTick s = .next t ∧ t.aed.temps = s.aed.temps ∧
      t.pwr.capCut = s.pwr.capCut ∧ t.pwr.good = true ∧ t.pwr.trip = none ∧ ∀ i, i < 16 →
        let k := sget 0 s.pwr.cut i
        let hot := ∃ n ∈ governing i, 840 ≤ tempOf s n
        let cool := ∀ n ∈ governing i, tempOf s n ≤ 800
        (hot → k < 15 → sget 0 t.pwr.cut i = k + 1) ∧ (hot → 15 ≤ k → sget 0 t.pwr.cut i = k) ∧
        (cool → 0 < k → sget 0 s.pwr.cutSince i + 100000 ≤ ftNow s → sget 0 t.pwr.cut i = k - 1) ∧
        (¬hot → (¬cool ∨ k = 0 ∨ ftNow s < sget 0 s.pwr.cutSince i + 100000) → sget 0 t.pwr.cut i = k)) ∧
    (s.pwr.good = false → exec (.powerCeilingTick p10) s = .next s ∧ exec .junctionDutyTick s = .next s ∧ exec .junctionTrip s = .next s) ∧
    (s.pwr.trip.isSome → exec .junctionDutyTick s = .next s ∧ exec .junctionTrip s = .next s) ∧
    (s.pwr.good = true → s.pwr.trip = none →
      ((∃ n, n < 60 ∧ 920 ≤ tempOf s n) → ∃ t, exec .junctionTrip s = .next t ∧ t.pwr = { s.pwr with trip := some (ftNow s) } ∧
        (∀ d, cdDuty t d = 0) ∧ pinTripN t = false) ∧
      ((∀ n, n < 60 → tempOf s n < 920) → exec .junctionTrip s = .next s)) ∧
    (∀ w, s.pwr.trip = some w →
      (w + 500000000 ≤ ftNow s → ∃ t, exec .tripHoldTimeout s = .next t ∧ ColdFrom s t ∧
        t.pwr = { PwrSt.reset with
          pwrEn := s.pwr.pwrEn
          resetN := s.pwr.resetN
          perstN := s.pwr.perstN
          refclk := s.pwr.refclk
          good := false
          latched := true
          trip := none
          testFuse := s.pwr.testFuse
          mfgLow := s.pwr.mfgLow
          tap := s.pwr.tap
          bscan := s.pwr.bscan
          extest := s.pwr.extest }) ∧
      (ftNow s < w + 500000000 → exec .tripHoldTimeout s = .next s)) ∧
    (s.pwr.trip = none → exec .tripHoldTimeout s = .next s) ∧
    (s.pwr.pwrEn = true → ∃ t, exec .railFault s = .next t ∧ ColdFrom s t ∧ t.pwr.good = false ∧ t.pwr.latched = true ∧
      t.pwr.pwrEn = true ∧ t.pwr.trip = none) ∧
    (s.pwr.pwrEn = false → exec .railFault s = .next s)

/-- PWR_EN, RESET_N and a stopped REFCLK reset the whole module (R488, R497 to R500); the release of RESET_N samples the SMBus
address straps, and the end of the cold reset MFG_TEST_N (R35, R498, R505). IDCODE answers 1A8D_3C9BH, and EXTEST drives the pins while RESET_N is low only
(R464, R504); which code selects which TAP instruction is a free value (notes/assumptions/10.md). -/
def Obligations.PinsAndColdReset : Prop :=
  ∀ (straps : BitVec 3) (low : Bool) (ir : BitVec 8) (data : List Bool) (s : State),
    (s.pwr.pwrEn = false → ∃ t, exec .pwrEnHigh s = .next t ∧ ColdFrom s t ∧ t.pwr.pwrEn = true ∧ t.pwr.good = true ∧
      t.pwr.latched = false ∧ t.pwr.trip = none ∧ t.pwr.resetN = s.pwr.resetN ∧ t.aed.smbAddr = s.aed.smbAddr) ∧
    (s.pwr.pwrEn = true → exec .pwrEnHigh s = .next s) ∧
    (s.pwr.pwrEn = true → ∃ t, exec .pwrEnLow s = .next t ∧ ColdFrom s t ∧ t.pwr.pwrEn = false ∧ t.pwr.good = false ∧
      t.pwr.latched = false ∧ t.pwr.trip = none) ∧
    (s.pwr.pwrEn = false → exec .pwrEnLow s = .next s) ∧
    (s.pwr.good = true → ∃ t, exec (.resetN false straps low) s = .next t ∧ ColdFrom s t ∧ t.pwr.resetN = false ∧
      t.pwr.good = true ∧ t.pwr.trip = s.pwr.trip) ∧
    (s.pwr.good = false → ∃ t, exec (.resetN false straps low) s = .next t ∧ t = { s with pwr := { s.pwr with resetN := false } }) ∧
    (s.pwr.resetN = true → exec (.resetN true straps low) s = .next s) ∧
    (s.pwr.resetN = false → ∃ t, exec (.resetN true straps low) s = .next t ∧
      t.pwr = { s.pwr with resetN := true, extest := false, mfgLow := low } ∧
      t.aed = (if s.pwr.good then { s.aed with smbAddr := 0x62 + straps.toNat } else s.aed) ∧
      getF t F.DBG_STS_MFG_TEST 0 = (if s.pwr.good = true ∧ s.pwr.refclk = true ∧ low = true ∧ s.pwr.testFuse = true then 1
        else getF s F.DBG_STS_MFG_TEST 0) ∧
      t = { s with pwr := t.pwr, aed := t.aed, regs := t.regs, regB := t.regB, regC := t.regC }) ∧
    (s.pwr.resetN = true → s.pwr.good = true → ∃ t, exec .refclkStop s = .next t ∧ ColdFrom s t ∧ t.pwr.refclk = false) ∧
    (s.pwr.resetN = false ∨ s.pwr.good = false → ∃ t, exec .refclkStop s = .next t ∧ t = { s with pwr := { s.pwr with refclk := false } }) ∧
    (∃ t, exec .refclkReturn s = .next t ∧ t.pwr = { s.pwr with refclk := true } ∧
      getF t F.DBG_STS_MFG_TEST 0 = (if s.pwr.refclk = false ∧ s.pwr.resetN = true ∧ s.pwr.good = true ∧ s.pwr.mfgLow = true ∧
        s.pwr.testFuse = true then 1 else getF s F.DBG_STS_MFG_TEST 0) ∧
      t = { s with pwr := t.pwr, regs := t.regs, regB := t.regB, regC := t.regC }) ∧
    (let code := Config.tapCode ir
     let x := BitVec.setWidth 32 (Config.freeBits s.freshIdx)
     let run (p : PwrSt) (f : Nat) (out : List OutMsg) : Prop := ∃ t, exec (.boundaryScanInstruction ir data) s = .next t ∧
        t = { s with pwr := p, freshIdx := f, outbox := s.outbox ++ out }
     (code = 0 → run { s.pwr with tap := .bypass, extest := false } s.freshIdx []) ∧
     (code = 1 → run { s.pwr with tap := .idcode, extest := false } s.freshIdx [.scan false 0x1A8D3C9B]) ∧
     (code = 2 → run { s.pwr with tap := .sample, bscan := data, extest := false } (s.freshIdx + 1) [.scan false x]) ∧
     (code = 3 → s.pwr.resetN = false →
        run { s.pwr with tap := .extest, bscan := data, extest := true } (s.freshIdx + 1) [.scan false x]) ∧
     (code = 3 → s.pwr.resetN = true → exec (.boundaryScanInstruction ir data) s = .next s) ∧
     (3 < code → exec (.boundaryScanInstruction ir data) s = .next s))

/-! ### Register accesses (R12, R466 to R485) -/

/-- A register write to a module that is off is dropped, one to a page under reset is dropped and counted (R483); one that is small,
not aligned, or at an offset with no register sets ACC_ERR (R466, R467). A fast page takes the write at once, a slow page posts it
(R475, R476); POSTED_WRITE_PERFORMED performs it. BLK_STS clears on 1 (R473). -/
def Obligations.RegisterWrites : Prop :=
  ∀ (off : BitVec 26) (sz : AccSize) (v : BitVec 64) (w : Word32) (pg : PageRef) (s : State),
    (moduleAlive s = false → exec (.registerWrite off sz v) s = .next s ∧ exec (.blkStsWrite off w) s = .next s ∧
      exec (.postedWritePerformed pg) s = .next s) ∧
    (pageAt off.toNat = none → sz = .b4 → exec (.registerWrite off sz v) s = .next s) ∧
    (∀ p n, moduleAlive s = true → pageAt off.toNat = some (p, n) → let b := pageBase p n
      let r := off.toNat % 4096
      let lo : Word32 := v.setWidth 32
      (pageHeld s p n = true → (sz = .b4 ∨ off.toNat % 8 ≠ 0) → ∃ t, exec (.registerWrite off sz v) s = .next t ∧
        RegsOnly s t [bump s F.MOD_CNT_RST_WR_DROP 0]) ∧
      (pageHeld s p n = true → ∃ t, exec (.blkStsWrite off w) s = .next t ∧ RegsOnly s t [bump s F.MOD_CNT_RST_WR_DROP 0]) ∧
      (pageHeld s p n = false →
        (sz = .b1 ∨ sz = .b2 ∨ off.toNat % 4 ≠ 0 ∨ (sz = .b8 ∧ off.toNat % 8 ≠ 0) ∨
            (sz = .b4 ∧ 0x100 ≤ r ∧ wordDefined p r = false) ∨
            (sz = .b4 ∧ slowPage p = true ∧ 0x100 ≤ r ∧ ((pageOf s b).accPend.isSome ∨ accMode s b = true))) →
          ∃ t, exec (.registerWrite off sz v) s = .next t ∧ Refused s t b) ∧
      (pageHeld s p n = false → p ∈ [.cd, .tmr, .sch, .iod, .mod, .dbg] → sz = .b4 → off.toNat % 4 = 0 → 0x100 ≤ r →
        wordDefined p r = true → NoWriteWaits s → ∃ t, exec (.registerWrite off sz v) s = .next t ∧ WordWritten s t p n r lo ∧
          (∀ a, a ≠ b + r → rdWord t a = rdWord s a) ∧ t = { s with regs := t.regs, regB := t.regB, regC := t.regC }) ∧
      (pageHeld s p n = false → slowPage p = true → sz = .b4 → off.toNat % 4 = 0 → 0x100 ≤ r → wordDefined p r = true →
        (pageOf s b).accPend = none → accMode s b = false →
        (pageBusy s b = false → ∃ t, exec (.registerWrite off sz v) s = .next t ∧
          PageIs s t b { pageOf s b with posted := some (r, lo) }) ∧
        (pageBusy s b = true → ∃ t, exec (.registerWrite off sz v) s = .next t ∧ getAt t (b + 0x014) 2 2 = 1 ∧
          t = { s with outbox := t.outbox, msix := t.msix, regs := t.regs, regB := t.regB, regC := t.regC })) ∧
      (pageHeld s p n = false → ∃ t, exec (.blkStsWrite off w) s = .next t ∧
        rdWord t (b + 0x014) = rdWord s (b + 0x014) &&& ~~~w ∧
        rdWord t (b + 0x01C) = (if bitAt w.toNat 0 then 0 else rdWord s (b + 0x01C)) ∧
        (∀ a, a ≠ b + 0x014 → a ≠ b + 0x01C → rdWord t a = rdWord s a) ∧
        t = { s with regs := t.regs, regB := t.regB, regC := t.regC })) ∧
    (∀ p n, moduleAlive s = true → pageAt (4096 * pg.val) = some (p, n) → pageHeld s p n = false → let b := pageBase p n
      ((pageOf s b).posted = none → exec (.postedWritePerformed pg) s = .next s) ∧
      (∀ r x, (pageOf s b).posted = some (r, x) → p = .kln → (pageOf s b).accPend = none → (∃ f ∈ pageFields .kln, f.off = r) →
        ∃ t, exec (.postedWritePerformed pg) s = .next t ∧ WordWritten s t p n r x ∧ (pageOf t b).posted = none ∧
          (∀ a, a ≠ b + r → rdWord t a = rdWord s a) ∧
          t = { s with pages := t.pages, regs := t.regs, regB := t.regB, regC := t.regC }))

/-- BLK_IND_DATA writes queue up to sixteen entries, one more sets IND_OVR, and each steps the address of its source when AUTOINC is
set (R478, R479); the oldest is performed by INDIRECT_FIFO_ENTRY; ACCMODE waits for BUSY to read 0 (R481). A vote walk rewrites the
copy that differs (R482). Reads answer with the word, latch what they must (R143, R311, R343), and REG_READ and REG_WRITE act for a
session with an FM grant on the pages of R437. NUM_CTL.CLR clears the counters (R144). -/
def Obligations.IndirectAndReads : Prop :=
  ∀ (pg : PageRef) (via m : Bool) (w : Word32) (c : CoreId) (e : Fin 128) (o : Origin) (off : BitVec 26) (s : State),
    (moduleAlive s = false → exec (.indirectFifoEntry pg) s = .next s ∧ exec (.accmodeWrite pg m) s = .next s ∧
      exec (.voteWalk pg) s = .next s ∧ exec (.blkIndDataWrite pg via w) s = .next s ∧ exec (.numCtlClr c) s = .next s) ∧
    (∀ p n, moduleAlive s = true → pageAt (4096 * pg.val) = some (p, n) → pageHeld s p n = false → let b := pageBase p n
      let x := pageOf s b
      let addr := if via then x.indMgmt else x.indBar
      let next : Word32 := if bitAt addr.toNat 31 then BitVec.ofNat 32 (2 ^ 31 + (addr.toNat % 2 ^ 21 + 4) % 2 ^ 21) else addr
      (via = true → mgmtPage p = false → exec (.blkIndDataWrite pg via w) s = .next s ∧ exec (.blkIndDataRead pg via) s = .next s) ∧
      ((via = false ∨ mgmtPage p = true) → x.fifo.length < 16 → ∃ t, exec (.blkIndDataWrite pg via w) s = .next t ∧
        PageIs s t b { x with
          fifo := x.fifo ++ [(addr.toNat % 2 ^ 21, w)]
          indMgmt := if via then next else x.indMgmt
          indBar := if via then x.indBar else next }) ∧
      ((via = false ∨ mgmtPage p = true) → 16 ≤ x.fifo.length → ∃ t, exec (.blkIndDataWrite pg via w) s = .next t ∧
        getAt t (b + 0x014) 3 3 = 1 ∧
        t = { s with outbox := t.outbox, msix := t.msix, regs := t.regs, regB := t.regB, regC := t.regC }) ∧
      (x.fifo = [] → exec (.indirectFifoEntry pg) s = .next s) ∧
      (∀ a v rest, x.fifo = (a, v) :: rest → x.accPend = none → p = .ras → a < 0x4000 → (ctxOf s (a / 4)).state = 0 →
        ∃ t, exec (.indirectFifoEntry pg) s = .next t ∧
          fenceOf t (a / 4) = ⟨bitsOf v.toNat 15 0, bitsOf v.toNat 31 16⟩ ∧ (∀ j, j ≠ a / 4 → fenceOf t j = fenceOf s j) ∧
          (pageOf t b).fifo = rest ∧ t = { s with pages := t.pages, fence := t.fence }) ∧
      (∀ a v rest, x.fifo = (a, v) :: rest → x.accPend = none → p = .rte → a < 0x80000 →
        ∃ t, exec (.indirectFifoEntry pg) s = .next t ∧ (pageOf t b).fifo = rest ∧ t = { s with pages := t.pages, rte := t.rte } ∧
          sget rteReset t.rte (a / 4) = (if a / 0x40000 = getF s F.RTE_CTL_ACTIVE 0 then sget rteReset s.rte (a / 4)
            else v &&& 0xFFFFFF) ∧ ∀ j, j ≠ a / 4 → sget rteReset t.rte j = sget rteReset s.rte j) ∧
      (slowPage p = false → exec (.accmodeWrite pg m) s = .next s) ∧
      (slowPage p = true → pageBusy s b = true → ∃ t, exec (.accmodeWrite pg m) s = .next t ∧ PageIs s t b { x with accPend := some m }) ∧
      (slowPage p = true → pageBusy s b = false → ∃ t, exec (.accmodeWrite pg m) s = .next t ∧ accMode t b = m ∧
        (∀ a, a ≠ b + 0x010 → rdWord t a = rdWord s a) ∧ t = { s with regs := t.regs, regB := t.regB, regC := t.regC }) ∧
      (∃ t, exec (.voteWalk pg) s = .next t ∧
        (∀ f ∈ rwvFields p, getAt t (b + f.1) f.2.1 f.2.2 = getAt s (b + f.1) f.2.1 f.2.2 ∧
          bitsOf (sget 0 t.regB (b + f.1) ||| sget 0 t.regC (b + f.1)).toNat f.2.1 f.2.2 = 0) ∧
        ((∃ f ∈ rwvFields p, bitsOf (sget 0 s.regB (b + f.1) ||| sget 0 s.regC (b + f.1)).toNat f.2.1 f.2.2 ≠ 0) →
          getAt t (b + 0x014) 4 4 = 1 ∧ getAt t (b + 0x024) 0 0 = 1) ∧
        t = { s with outbox := t.outbox, msix := t.msix, regs := t.regs, regB := t.regB, regC := t.regC }) ∧
      ((via = false ∨ mgmtPage p = true) → p = .rte → x.fifo = [] → x.posted = none → addr.toNat % 2 ^ 21 < 0x80000 →
        ∃ t, exec (.blkIndDataRead pg via) s = .next t ∧
          t.outbox = s.outbox ++ [if via then
            .mgmt none 0x22 none (0x00 :: leBytes 4 (sget rteReset s.rte (addr.toNat % 2 ^ 21 / 4)).toNat)
            else .readResp (leBytes 4 (sget rteReset s.rte (addr.toNat % 2 ^ 21 / 4)).toNat) false] ∧
          PageIs { s with outbox := t.outbox } t b { x with
            indMgmt := if via then next else x.indMgmt
            indBar := if via then x.indBar else next })) ∧
    (moduleAlive s = true → pageHeld s .num c.val = false →
      (∃ t, exec (.numCtlClr c) s = .next t ∧ (coreOf t c.val).numCnt = [] ∧ (∀ d, d ≠ c.val → coreOf t d = coreOf s d) ∧
        t = { s with cores := t.cores }) ∧
      (NoWriteWaits s → let k := coreOf s c.val
        ∃ t, exec (.counterWord0Read c e) s = .next t ∧
          t.outbox = s.outbox ++ [.readResp (leBytes 4 (numWord k e.val 0).toNat) false] ∧
          (∀ i, 1 ≤ i → i < 8 → sget 0 (coreOf t c.val).numLatch (8 * e.val + i) = numWord k e.val i) ∧
          (∀ d, d ≠ c.val → coreOf t d = coreOf s d) ∧ t = { s with cores := t.cores, outbox := t.outbox })) ∧
    (moduleAlive s = true → pageHeld s .ft 0 = false → NoWriteWaits s → ∃ t, exec .ftNowLoRead s = .next t ∧
      t = { s with
        outbox := s.outbox ++ [.readResp (leBytes 4 (ftNow s % 2 ^ 32)) false]
        ft := { s.ft with nowHiLatch := BitVec.ofNat 32 (ftNow s / 2 ^ 32) } }) ∧
    (Serving s → let u := heard s o
      (granted u o 3 = false ∨ mgmtReaches off.toNat = false →
        (∃ t, exec (.regRead o off) s = .next t ∧ t = reply u o 0x22 [0x01]) ∧
        (∃ t, exec (.regWrite o off w) s = .next t ∧ t = reply u o 0x23 [0x01])) ∧
      (granted u o 3 = true → mgmtReaches off.toNat = true →
        (∃ t, exec (.regRead o off) s = .next t ∧ t.pending = s.pending ∧
          Answered t o 0x22 (0x00 :: leBytes 4 (regRead32 u off.toNat true).1.toNat)) ∧
        (∃ t, exec (.regWrite o off w) s = .next t ∧ t = reply (regWrite32 u off.toNat true w) o 0x23 [0x00])))

/-- Every syllable's 64-bit word decodes, in the syllable's own slot, to that syllable: no field of Tables 2.5 to 2.7 is lost. -/
def Obligations.SyllableWordsDecode : Prop :=
  ∀ y : Syl, decodeSyl (sylSlot y) (encodeSyl y) = some y
end

