-- ==== Sys2Proof/Laws/Sparse.lean ====
section
/-! SUPPORT. Laws/Sparse.lean: reading after writing a sparse map, and the canonical form it keeps. -/

namespace Sys2Proof.Machine

variable {α : Type}

@[simp] theorem sget_nil (d : α) (k : Nat) : sget d [] k = d := rfl

theorem sget_cons (d : α) (a : Nat) (v : α) (t : Sparse α) (k : Nat) :
    sget d ((a, v) :: t) k = if a = k then v else sget d t k := rfl

theorem sget_sdel (d : α) (m : Sparse α) (k j : Nat) : sget d (sdel m k) j = if j = k then d else sget d m j := by
  induction m with
  | nil => simp [sdel]
  | cons e t ih =>
    obtain ⟨a, v⟩ := e
    unfold sdel at ih ⊢
    by_cases h : a = k
    · subst h
      simp only [List.filter_cons, bne_self_eq_false, Bool.false_eq_true, if_false, ih, sget_cons]
      split
      · rfl
      · rw [if_neg (by omega)]
    · simp only [List.filter_cons, bne_iff_ne.mpr h, if_true, sget_cons, ih]
      by_cases hj : a = j
      · subst hj; simp [h]
      · simp [hj]

theorem sget_sins (d : α) (m : Sparse α) (k j : Nat) (v : α) (hk : ∀ e ∈ m, e.1 ≠ k) :
    sget d (sins m k v) j = if j = k then v else sget d m j := by
  induction m with
  | nil => simp [sins, sget_cons, eq_comm]
  | cons e t ih =>
    obtain ⟨a, b⟩ := e
    have ha : a ≠ k := hk (a, b) (by simp)
    have := ih (fun e he => hk e (by simp [he]))
    unfold sins
    split
    · rw [sget_cons]; simp [eq_comm]
    · rw [sget_cons, sget_cons, this]
      by_cases hj : a = j
      · subst hj; simp [ha]
      · simp [hj]

theorem sdel_ne (m : Sparse α) (k : Nat) : ∀ e ∈ sdel m k, e.1 ≠ k := by
  intro e he
  simp only [sdel, List.mem_filter, bne_iff_ne] at he
  exact he.2

variable [DecidableEq α]

/-- A read after a write. -/
theorem sget_sset (d : α) (m : Sparse α) (k j : Nat) (v : α) :
    sget d (sset d m k v) j = if j = k then v else sget d m j := by
  unfold sset
  split
  · next h => rw [sget_sdel, h]
  · rw [sget_sins _ _ _ _ _ (sdel_ne m k), sget_sdel]
    split <;> rfl

@[simp] theorem sget_sset_self (d : α) (m : Sparse α) (k : Nat) (v : α) : sget d (sset d m k v) k = v := by
  simp [sget_sset]

theorem sget_sset_other (d : α) (m : Sparse α) {k j : Nat} (v : α) (h : j ≠ k) :
    sget d (sset d m k v) j = sget d m j := by
  simp [sget_sset, h]

/-- A write leaves every other key, whatever an unlisted key reads as. -/
theorem sget_sset_ne (d d' : α) (m : Sparse α) {k j : Nat} (v : α) (h : j ≠ k) :
    sget d' (sset d m k v) j = sget d' m j := by
  unfold sset
  split
  · rw [sget_sdel, if_neg h]
  · rw [sget_sins _ _ _ _ _ (sdel_ne m k), if_neg h, sget_sdel, if_neg h]

/-! ### The canonical form -/

/-- The canonical form as a statement about all pairs. -/
theorem swf_iff (d : α) (m : Sparse α) :
    swf d m = true ↔ m.Pairwise (fun x y => x.1 < y.1) ∧ ∀ e ∈ m, e.2 ≠ d := by
  induction m with
  | nil => simp [swf]
  | cons e t ih =>
    obtain ⟨a, v⟩ := e
    cases t with
    | nil => simp [swf]
    | cons f t =>
      obtain ⟨b, w⟩ := f
      have hs : swf d ((a, v) :: (b, w) :: t) = (decide (v ≠ d) && decide (a < b) && swf d ((b, w) :: t)) := rfl
      rw [hs, Bool.and_eq_true, Bool.and_eq_true, decide_eq_true_iff, decide_eq_true_iff, ih]
      constructor
      · rintro ⟨⟨hv, hab⟩, hp, hd⟩
        refine ⟨List.pairwise_cons.mpr ⟨?_, hp⟩, ?_⟩
        · intro x hx
          rcases List.mem_cons.mp hx with rfl | hx
          · exact hab
          · exact Nat.lt_trans hab ((List.pairwise_cons.mp hp).1 x hx)
        · intro e he
          rcases List.mem_cons.mp he with rfl | he
          · exact hv
          · exact hd e he
      · rintro ⟨hc, hd⟩
        have hc := List.pairwise_cons.mp hc
        exact ⟨⟨hd (a, v) (by simp), hc.1 (b, w) (by simp)⟩, hc.2, fun e he => hd e (by simp [he])⟩

theorem swf_filter (d : α) (m : Sparse α) (p : Nat × α → Bool) (h : swf d m = true) : swf d (m.filter p) = true := by
  rw [swf_iff] at h ⊢
  exact ⟨h.1.filter p, fun e he => h.2 e (List.mem_filter.mp he).1⟩

theorem swf_sdel (d : α) (m : Sparse α) (k : Nat) (h : swf d m = true) : swf d (sdel m k) = true :=
  swf_filter d m _ h

omit [DecidableEq α] in
theorem mem_sins (m : Sparse α) (k : Nat) (v : α) (e : Nat × α) : e ∈ sins m k v ↔ e = (k, v) ∨ e ∈ m := by
  induction m with
  | nil => simp [sins]
  | cons f t ih =>
    obtain ⟨a, b⟩ := f
    unfold sins
    split
    · simp
    · simp only [List.mem_cons, ih]
      constructor <;> rintro (h | h | h) <;> simp [h]

omit [DecidableEq α] in
theorem sins_pairwise (m : Sparse α) (k : Nat) (v : α) (hp : m.Pairwise (fun x y => x.1 < y.1)) (hk : ∀ e ∈ m, e.1 ≠ k) :
    (sins m k v).Pairwise (fun x y => x.1 < y.1) := by
  induction m with
  | nil => simp [sins]
  | cons f t ih =>
    obtain ⟨a, b⟩ := f
    have hc := List.pairwise_cons.mp hp
    have ha : a ≠ k := hk (a, b) (by simp)
    unfold sins
    split
    · next hlt =>
      refine List.pairwise_cons.mpr ⟨?_, hp⟩
      intro x hx
      rcases List.mem_cons.mp hx with rfl | hx
      · exact hlt
      · exact Nat.lt_trans hlt (hc.1 x hx)
    · next hge =>
      refine List.pairwise_cons.mpr ⟨?_, ih hc.2 (fun e he => hk e (by simp [he]))⟩
      intro x hx
      rcases (mem_sins t k v x).mp hx with rfl | hx
      · show a < k; omega
      · exact hc.1 x hx

/-- A write keeps the canonical form. -/
theorem swf_sset (d : α) (m : Sparse α) (k : Nat) (v : α) (h : swf d m = true) : swf d (sset d m k v) = true := by
  unfold sset
  split
  · exact swf_sdel d m k h
  · next hv =>
    have h' := swf_sdel d m k h
    rw [swf_iff] at h' ⊢
    refine ⟨sins_pairwise _ _ _ h'.1 (sdel_ne m k), ?_⟩
    intro e he
    rcases (mem_sins _ k v e).mp he with rfl | he
    · exact hv
    · exact h'.2 e he

/-- So do several writes. -/
theorem swf_ssetAll (d : α) (l : List (Nat × α)) : ∀ m : Sparse α, swf d m = true → swf d (ssetAll d m l) = true := by
  induction l with
  | nil => intro m h; exact h
  | cons e t ih =>
    obtain ⟨k, v⟩ := e
    intro m h
    exact ih _ (swf_sset d m k v h)

/-- A map made from a function is canonical. -/
theorem swf_sofFn (d : α) (n : Nat) (f : Nat → α) : swf d (sofFn d n f) = true := by
  rw [swf_iff]
  constructor
  · unfold sofFn
    rw [List.pairwise_filterMap]
    refine List.pairwise_lt_range.imp ?_
    intro a b hab x hx y hy
    split at hx
    · cases hx
    · split at hy
      · cases hy
      · cases hx; cases hy; exact hab
  · intro e he
    simp only [sofFn, List.mem_filterMap] at he
    obtain ⟨i, _, hi⟩ := he
    split at hi
    · cases hi
    · next h => cases hi; exact h

omit [DecidableEq α] in
theorem sget_append (d : α) (m₁ m₂ : Sparse α) (i : Nat) (h : ∀ e ∈ m₁, e.1 ≠ i) : sget d (m₁ ++ m₂) i = sget d m₂ i := by
  induction m₁ with
  | nil => rfl
  | cons e t ih =>
    obtain ⟨a, v⟩ := e
    rw [List.cons_append, sget_cons, if_neg (h (a, v) (by simp))]
    exact ih (fun e he => h e (by simp [he]))

omit [DecidableEq α] in
theorem sget_append_left (d : α) (m₁ m₂ : Sparse α) (i : Nat) (h : ∀ e ∈ m₂, e.1 ≠ i) :
    sget d (m₁ ++ m₂) i = sget d m₁ i := by
  induction m₁ with
  | nil => simpa using sget_append d m₂ [] i h
  | cons e t ih =>
    obtain ⟨a, v⟩ := e
    rw [List.cons_append, sget_cons, sget_cons, ih]

theorem sofFn_keys (d : α) (n : Nat) (f : Nat → α) : ∀ e ∈ sofFn d n f, e.1 < n := by
  intro e he
  simp only [sofFn, List.mem_filterMap, List.mem_range] at he
  obtain ⟨j, hj, hi⟩ := he
  split at hi
  · cases hi
  · cases hi; exact hj

theorem sofFn_succ (d : α) (n : Nat) (f : Nat → α) :
    sofFn d (n + 1) f = sofFn d n f ++ (if f n = d then [] else [(n, f n)]) := by
  unfold sofFn
  rw [List.range_succ, List.filterMap_append]
  congr 1
  by_cases h : f n = d <;> simp [h]

/-- Its value at a key. -/
theorem sget_sofFn (d : α) (n : Nat) (f : Nat → α) (i : Nat) : sget d (sofFn d n f) i = if i < n then f i else d := by
  induction n with
  | zero => simp [sofFn]
  | succ n ih =>
    rw [sofFn_succ]
    by_cases heq : i = n
    · subst heq
      rw [sget_append _ _ _ _ (fun e he => Nat.ne_of_lt (sofFn_keys d i f e he)), if_pos (Nat.lt_succ_self _)]
      by_cases h : f i = d <;> simp [h, sget_cons]
    · rw [sget_append_left, ih]
      · split <;> split <;> first | rfl | omega
      · intro e he
        split at he
        · cases he
        · rw [List.mem_singleton.mp he]; exact fun h => heq h.symm

end Sys2Proof.Machine
end

