-- ==== Sys2Proof/Laws/State.lean ====
section
/-! SUPPORT. Laws/State.lean: what each update of the state leaves as it was, field by field. -/

namespace Sys2Proof.Machine

/-! ### emit -/

@[simp] theorem emit_pending (s : State) (m : OutMsg) : (emit s m).pending = s.pending := rfl
@[simp] theorem emit_freshIdx (s : State) (m : OutMsg) : (emit s m).freshIdx = s.freshIdx := rfl
@[simp] theorem emit_regs (s : State) (m : OutMsg) : (emit s m).regs = s.regs := rfl
@[simp] theorem emit_regB (s : State) (m : OutMsg) : (emit s m).regB = s.regB := rfl
@[simp] theorem emit_regC (s : State) (m : OutMsg) : (emit s m).regC = s.regC := rfl
@[simp] theorem emit_pages (s : State) (m : OutMsg) : (emit s m).pages = s.pages := rfl
@[simp] theorem emit_cores (s : State) (m : OutMsg) : (emit s m).cores = s.cores := rfl
@[simp] theorem emit_dsm (s : State) (m : OutMsg) : (emit s m).dsm = s.dsm := rfl
@[simp] theorem emit_dram (s : State) (m : OutMsg) : (emit s m).dram = s.dram := rfl
@[simp] theorem emit_dramChk (s : State) (m : OutMsg) : (emit s m).dramChk = s.dramChk := rfl
@[simp] theorem emit_dramPoison (s : State) (m : OutMsg) : (emit s m).dramPoison = s.dramPoison := rfl
@[simp] theorem emit_cache (s : State) (m : OutMsg) : (emit s m).cache = s.cache := rfl
@[simp] theorem emit_wheels (s : State) (m : OutMsg) : (emit s m).wheels = s.wheels := rfl
@[simp] theorem emit_links (s : State) (m : OutMsg) : (emit s m).links = s.links := rfl
@[simp] theorem emit_routeQ (s : State) (m : OutMsg) : (emit s m).routeQ = s.routeQ := rfl
@[simp] theorem emit_lost (s : State) (m : OutMsg) : (emit s m).lost = s.lost := rfl
@[simp] theorem emit_rte (s : State) (m : OutMsg) : (emit s m).rte = s.rte := rfl
@[simp] theorem emit_ft (s : State) (m : OutMsg) : (emit s m).ft = s.ft := rfl
@[simp] theorem emit_msix (s : State) (m : OutMsg) : (emit s m).msix = s.msix := rfl
@[simp] theorem emit_mds (s : State) (m : OutMsg) : (emit s m).mds = s.mds := rfl
@[simp] theorem emit_sramFilled (s : State) (m : OutMsg) : (emit s m).sramFilled = s.sramFilled := rfl
@[simp] theorem emit_ctxs (s : State) (m : OutMsg) : (emit s m).ctxs = s.ctxs := rfl
@[simp] theorem emit_xlt (s : State) (m : OutMsg) : (emit s m).xlt = s.xlt := rfl
@[simp] theorem emit_faults (s : State) (m : OutMsg) : (emit s m).faults = s.faults := rfl
@[simp] theorem emit_hostMem (s : State) (m : OutMsg) : (emit s m).hostMem = s.hostMem := rfl
@[simp] theorem emit_queues (s : State) (m : OutMsg) : (emit s m).queues = s.queues := rfl
@[simp] theorem emit_items (s : State) (m : OutMsg) : (emit s m).items = s.items := rfl
@[simp] theorem emit_launches (s : State) (m : OutMsg) : (emit s m).launches = s.launches := rfl
@[simp] theorem emit_vcs (s : State) (m : OutMsg) : (emit s m).vcs = s.vcs := rfl
@[simp] theorem emit_sched (s : State) (m : OutMsg) : (emit s m).sched = s.sched := rfl
@[simp] theorem emit_slots (s : State) (m : OutMsg) : (emit s m).slots = s.slots := rfl
@[simp] theorem emit_models (s : State) (m : OutMsg) : (emit s m).models = s.models := rfl
@[simp] theorem emit_adapters (s : State) (m : OutMsg) : (emit s m).adapters = s.adapters := rfl
@[simp] theorem emit_resLatch (s : State) (m : OutMsg) : (emit s m).resLatch = s.resLatch := rfl
@[simp] theorem emit_sigs (s : State) (m : OutMsg) : (emit s m).sigs = s.sigs := rfl
@[simp] theorem emit_twin (s : State) (m : OutMsg) : (emit s m).twin = s.twin := rfl
@[simp] theorem emit_sto (s : State) (m : OutMsg) : (emit s m).sto = s.sto := rfl
@[simp] theorem emit_ras (s : State) (m : OutMsg) : (emit s m).ras = s.ras := rfl
@[simp] theorem emit_aed (s : State) (m : OutMsg) : (emit s m).aed = s.aed := rfl
@[simp] theorem emit_pwr (s : State) (m : OutMsg) : (emit s m).pwr = s.pwr := rfl
@[simp] theorem emit_host (s : State) (m : OutMsg) : (emit s m).host = s.host := rfl
@[simp] theorem emit_col (s : State) (m : OutMsg) : (emit s m).col = s.col := rfl
@[simp] theorem emit_fence (s : State) (m : OutMsg) : (emit s m).fence = s.fence := rfl
@[simp] theorem emit_stgHeld (s : State) (m : OutMsg) : (emit s m).stgHeld = s.stgHeld := rfl
@[simp] theorem emit_stgQ (s : State) (m : OutMsg) : (emit s m).stgQ = s.stgQ := rfl
@[simp] theorem emit_answers (s : State) (m : OutMsg) : (emit s m).answers = s.answers := rfl

/-! ### wrWord -/

@[simp] theorem wrWord_pending (s : State) (a : Nat) (w : Word32) : (wrWord s a w).pending = s.pending := rfl
@[simp] theorem wrWord_freshIdx (s : State) (a : Nat) (w : Word32) : (wrWord s a w).freshIdx = s.freshIdx := rfl
@[simp] theorem wrWord_outbox (s : State) (a : Nat) (w : Word32) : (wrWord s a w).outbox = s.outbox := rfl
@[simp] theorem wrWord_pages (s : State) (a : Nat) (w : Word32) : (wrWord s a w).pages = s.pages := rfl
@[simp] theorem wrWord_cores (s : State) (a : Nat) (w : Word32) : (wrWord s a w).cores = s.cores := rfl
@[simp] theorem wrWord_dsm (s : State) (a : Nat) (w : Word32) : (wrWord s a w).dsm = s.dsm := rfl
@[simp] theorem wrWord_dram (s : State) (a : Nat) (w : Word32) : (wrWord s a w).dram = s.dram := rfl
@[simp] theorem wrWord_dramChk (s : State) (a : Nat) (w : Word32) : (wrWord s a w).dramChk = s.dramChk := rfl
@[simp] theorem wrWord_dramPoison (s : State) (a : Nat) (w : Word32) : (wrWord s a w).dramPoison = s.dramPoison := rfl
@[simp] theorem wrWord_cache (s : State) (a : Nat) (w : Word32) : (wrWord s a w).cache = s.cache := rfl
@[simp] theorem wrWord_wheels (s : State) (a : Nat) (w : Word32) : (wrWord s a w).wheels = s.wheels := rfl
@[simp] theorem wrWord_links (s : State) (a : Nat) (w : Word32) : (wrWord s a w).links = s.links := rfl
@[simp] theorem wrWord_routeQ (s : State) (a : Nat) (w : Word32) : (wrWord s a w).routeQ = s.routeQ := rfl
@[simp] theorem wrWord_lost (s : State) (a : Nat) (w : Word32) : (wrWord s a w).lost = s.lost := rfl
@[simp] theorem wrWord_rte (s : State) (a : Nat) (w : Word32) : (wrWord s a w).rte = s.rte := rfl
@[simp] theorem wrWord_ft (s : State) (a : Nat) (w : Word32) : (wrWord s a w).ft = s.ft := rfl
@[simp] theorem wrWord_msix (s : State) (a : Nat) (w : Word32) : (wrWord s a w).msix = s.msix := rfl
@[simp] theorem wrWord_mds (s : State) (a : Nat) (w : Word32) : (wrWord s a w).mds = s.mds := rfl
@[simp] theorem wrWord_sramFilled (s : State) (a : Nat) (w : Word32) : (wrWord s a w).sramFilled = s.sramFilled := rfl
@[simp] theorem wrWord_ctxs (s : State) (a : Nat) (w : Word32) : (wrWord s a w).ctxs = s.ctxs := rfl
@[simp] theorem wrWord_xlt (s : State) (a : Nat) (w : Word32) : (wrWord s a w).xlt = s.xlt := rfl
@[simp] theorem wrWord_faults (s : State) (a : Nat) (w : Word32) : (wrWord s a w).faults = s.faults := rfl
@[simp] theorem wrWord_hostMem (s : State) (a : Nat) (w : Word32) : (wrWord s a w).hostMem = s.hostMem := rfl
@[simp] theorem wrWord_queues (s : State) (a : Nat) (w : Word32) : (wrWord s a w).queues = s.queues := rfl
@[simp] theorem wrWord_items (s : State) (a : Nat) (w : Word32) : (wrWord s a w).items = s.items := rfl
@[simp] theorem wrWord_launches (s : State) (a : Nat) (w : Word32) : (wrWord s a w).launches = s.launches := rfl
@[simp] theorem wrWord_vcs (s : State) (a : Nat) (w : Word32) : (wrWord s a w).vcs = s.vcs := rfl
@[simp] theorem wrWord_sched (s : State) (a : Nat) (w : Word32) : (wrWord s a w).sched = s.sched := rfl
@[simp] theorem wrWord_slots (s : State) (a : Nat) (w : Word32) : (wrWord s a w).slots = s.slots := rfl
@[simp] theorem wrWord_models (s : State) (a : Nat) (w : Word32) : (wrWord s a w).models = s.models := rfl
@[simp] theorem wrWord_adapters (s : State) (a : Nat) (w : Word32) : (wrWord s a w).adapters = s.adapters := rfl
@[simp] theorem wrWord_resLatch (s : State) (a : Nat) (w : Word32) : (wrWord s a w).resLatch = s.resLatch := rfl
@[simp] theorem wrWord_sigs (s : State) (a : Nat) (w : Word32) : (wrWord s a w).sigs = s.sigs := rfl
@[simp] theorem wrWord_twin (s : State) (a : Nat) (w : Word32) : (wrWord s a w).twin = s.twin := rfl
@[simp] theorem wrWord_sto (s : State) (a : Nat) (w : Word32) : (wrWord s a w).sto = s.sto := rfl
@[simp] theorem wrWord_ras (s : State) (a : Nat) (w : Word32) : (wrWord s a w).ras = s.ras := rfl
@[simp] theorem wrWord_aed (s : State) (a : Nat) (w : Word32) : (wrWord s a w).aed = s.aed := rfl
@[simp] theorem wrWord_pwr (s : State) (a : Nat) (w : Word32) : (wrWord s a w).pwr = s.pwr := rfl
@[simp] theorem wrWord_host (s : State) (a : Nat) (w : Word32) : (wrWord s a w).host = s.host := rfl
@[simp] theorem wrWord_col (s : State) (a : Nat) (w : Word32) : (wrWord s a w).col = s.col := rfl
@[simp] theorem wrWord_fence (s : State) (a : Nat) (w : Word32) : (wrWord s a w).fence = s.fence := rfl
@[simp] theorem wrWord_stgHeld (s : State) (a : Nat) (w : Word32) : (wrWord s a w).stgHeld = s.stgHeld := rfl
@[simp] theorem wrWord_stgQ (s : State) (a : Nat) (w : Word32) : (wrWord s a w).stgQ = s.stgQ := rfl
@[simp] theorem wrWord_answers (s : State) (a : Nat) (w : Word32) : (wrWord s a w).answers = s.answers := rfl

/-! ### setAt -/

@[simp] theorem setAt_pending (s : State) (a hi lo v : Nat) : (setAt s a hi lo v).pending = s.pending := rfl
@[simp] theorem setAt_freshIdx (s : State) (a hi lo v : Nat) : (setAt s a hi lo v).freshIdx = s.freshIdx := rfl
@[simp] theorem setAt_outbox (s : State) (a hi lo v : Nat) : (setAt s a hi lo v).outbox = s.outbox := rfl
@[simp] theorem setAt_pages (s : State) (a hi lo v : Nat) : (setAt s a hi lo v).pages = s.pages := rfl
@[simp] theorem setAt_cores (s : State) (a hi lo v : Nat) : (setAt s a hi lo v).cores = s.cores := rfl
@[simp] theorem setAt_dsm (s : State) (a hi lo v : Nat) : (setAt s a hi lo v).dsm = s.dsm := rfl
@[simp] theorem setAt_dram (s : State) (a hi lo v : Nat) : (setAt s a hi lo v).dram = s.dram := rfl
@[simp] theorem setAt_dramChk (s : State) (a hi lo v : Nat) : (setAt s a hi lo v).dramChk = s.dramChk := rfl
@[simp] theorem setAt_dramPoison (s : State) (a hi lo v : Nat) : (setAt s a hi lo v).dramPoison = s.dramPoison := rfl
@[simp] theorem setAt_cache (s : State) (a hi lo v : Nat) : (setAt s a hi lo v).cache = s.cache := rfl
@[simp] theorem setAt_wheels (s : State) (a hi lo v : Nat) : (setAt s a hi lo v).wheels = s.wheels := rfl
@[simp] theorem setAt_links (s : State) (a hi lo v : Nat) : (setAt s a hi lo v).links = s.links := rfl
@[simp] theorem setAt_routeQ (s : State) (a hi lo v : Nat) : (setAt s a hi lo v).routeQ = s.routeQ := rfl
@[simp] theorem setAt_lost (s : State) (a hi lo v : Nat) : (setAt s a hi lo v).lost = s.lost := rfl
@[simp] theorem setAt_rte (s : State) (a hi lo v : Nat) : (setAt s a hi lo v).rte = s.rte := rfl
@[simp] theorem setAt_ft (s : State) (a hi lo v : Nat) : (setAt s a hi lo v).ft = s.ft := rfl
@[simp] theorem setAt_msix (s : State) (a hi lo v : Nat) : (setAt s a hi lo v).msix = s.msix := rfl
@[simp] theorem setAt_mds (s : State) (a hi lo v : Nat) : (setAt s a hi lo v).mds = s.mds := rfl
@[simp] theorem setAt_sramFilled (s : State) (a hi lo v : Nat) : (setAt s a hi lo v).sramFilled = s.sramFilled := rfl
@[simp] theorem setAt_ctxs (s : State) (a hi lo v : Nat) : (setAt s a hi lo v).ctxs = s.ctxs := rfl
@[simp] theorem setAt_xlt (s : State) (a hi lo v : Nat) : (setAt s a hi lo v).xlt = s.xlt := rfl
@[simp] theorem setAt_faults (s : State) (a hi lo v : Nat) : (setAt s a hi lo v).faults = s.faults := rfl
@[simp] theorem setAt_hostMem (s : State) (a hi lo v : Nat) : (setAt s a hi lo v).hostMem = s.hostMem := rfl
@[simp] theorem setAt_queues (s : State) (a hi lo v : Nat) : (setAt s a hi lo v).queues = s.queues := rfl
@[simp] theorem setAt_items (s : State) (a hi lo v : Nat) : (setAt s a hi lo v).items = s.items := rfl
@[simp] theorem setAt_launches (s : State) (a hi lo v : Nat) : (setAt s a hi lo v).launches = s.launches := rfl
@[simp] theorem setAt_vcs (s : State) (a hi lo v : Nat) : (setAt s a hi lo v).vcs = s.vcs := rfl
@[simp] theorem setAt_sched (s : State) (a hi lo v : Nat) : (setAt s a hi lo v).sched = s.sched := rfl
@[simp] theorem setAt_slots (s : State) (a hi lo v : Nat) : (setAt s a hi lo v).slots = s.slots := rfl
@[simp] theorem setAt_models (s : State) (a hi lo v : Nat) : (setAt s a hi lo v).models = s.models := rfl
@[simp] theorem setAt_adapters (s : State) (a hi lo v : Nat) : (setAt s a hi lo v).adapters = s.adapters := rfl
@[simp] theorem setAt_resLatch (s : State) (a hi lo v : Nat) : (setAt s a hi lo v).resLatch = s.resLatch := rfl
@[simp] theorem setAt_sigs (s : State) (a hi lo v : Nat) : (setAt s a hi lo v).sigs = s.sigs := rfl
@[simp] theorem setAt_twin (s : State) (a hi lo v : Nat) : (setAt s a hi lo v).twin = s.twin := rfl
@[simp] theorem setAt_sto (s : State) (a hi lo v : Nat) : (setAt s a hi lo v).sto = s.sto := rfl
@[simp] theorem setAt_ras (s : State) (a hi lo v : Nat) : (setAt s a hi lo v).ras = s.ras := rfl
@[simp] theorem setAt_aed (s : State) (a hi lo v : Nat) : (setAt s a hi lo v).aed = s.aed := rfl
@[simp] theorem setAt_pwr (s : State) (a hi lo v : Nat) : (setAt s a hi lo v).pwr = s.pwr := rfl
@[simp] theorem setAt_host (s : State) (a hi lo v : Nat) : (setAt s a hi lo v).host = s.host := rfl
@[simp] theorem setAt_col (s : State) (a hi lo v : Nat) : (setAt s a hi lo v).col = s.col := rfl
@[simp] theorem setAt_fence (s : State) (a hi lo v : Nat) : (setAt s a hi lo v).fence = s.fence := rfl
@[simp] theorem setAt_stgHeld (s : State) (a hi lo v : Nat) : (setAt s a hi lo v).stgHeld = s.stgHeld := rfl
@[simp] theorem setAt_stgQ (s : State) (a hi lo v : Nat) : (setAt s a hi lo v).stgQ = s.stgQ := rfl
@[simp] theorem setAt_answers (s : State) (a hi lo v : Nat) : (setAt s a hi lo v).answers = s.answers := rfl

/-! ### setF -/

@[simp] theorem setF_pending (s : State) (f : Fld) (n v : Nat) : (setF s f n v).pending = s.pending := rfl
@[simp] theorem setF_freshIdx (s : State) (f : Fld) (n v : Nat) : (setF s f n v).freshIdx = s.freshIdx := rfl
@[simp] theorem setF_outbox (s : State) (f : Fld) (n v : Nat) : (setF s f n v).outbox = s.outbox := rfl
@[simp] theorem setF_pages (s : State) (f : Fld) (n v : Nat) : (setF s f n v).pages = s.pages := rfl
@[simp] theorem setF_cores (s : State) (f : Fld) (n v : Nat) : (setF s f n v).cores = s.cores := rfl
@[simp] theorem setF_dsm (s : State) (f : Fld) (n v : Nat) : (setF s f n v).dsm = s.dsm := rfl
@[simp] theorem setF_dram (s : State) (f : Fld) (n v : Nat) : (setF s f n v).dram = s.dram := rfl
@[simp] theorem setF_dramChk (s : State) (f : Fld) (n v : Nat) : (setF s f n v).dramChk = s.dramChk := rfl
@[simp] theorem setF_dramPoison (s : State) (f : Fld) (n v : Nat) : (setF s f n v).dramPoison = s.dramPoison := rfl
@[simp] theorem setF_cache (s : State) (f : Fld) (n v : Nat) : (setF s f n v).cache = s.cache := rfl
@[simp] theorem setF_wheels (s : State) (f : Fld) (n v : Nat) : (setF s f n v).wheels = s.wheels := rfl
@[simp] theorem setF_links (s : State) (f : Fld) (n v : Nat) : (setF s f n v).links = s.links := rfl
@[simp] theorem setF_routeQ (s : State) (f : Fld) (n v : Nat) : (setF s f n v).routeQ = s.routeQ := rfl
@[simp] theorem setF_lost (s : State) (f : Fld) (n v : Nat) : (setF s f n v).lost = s.lost := rfl
@[simp] theorem setF_rte (s : State) (f : Fld) (n v : Nat) : (setF s f n v).rte = s.rte := rfl
@[simp] theorem setF_ft (s : State) (f : Fld) (n v : Nat) : (setF s f n v).ft = s.ft := rfl
@[simp] theorem setF_msix (s : State) (f : Fld) (n v : Nat) : (setF s f n v).msix = s.msix := rfl
@[simp] theorem setF_mds (s : State) (f : Fld) (n v : Nat) : (setF s f n v).mds = s.mds := rfl
@[simp] theorem setF_sramFilled (s : State) (f : Fld) (n v : Nat) : (setF s f n v).sramFilled = s.sramFilled := rfl
@[simp] theorem setF_ctxs (s : State) (f : Fld) (n v : Nat) : (setF s f n v).ctxs = s.ctxs := rfl
@[simp] theorem setF_xlt (s : State) (f : Fld) (n v : Nat) : (setF s f n v).xlt = s.xlt := rfl
@[simp] theorem setF_faults (s : State) (f : Fld) (n v : Nat) : (setF s f n v).faults = s.faults := rfl
@[simp] theorem setF_hostMem (s : State) (f : Fld) (n v : Nat) : (setF s f n v).hostMem = s.hostMem := rfl
@[simp] theorem setF_queues (s : State) (f : Fld) (n v : Nat) : (setF s f n v).queues = s.queues := rfl
@[simp] theorem setF_items (s : State) (f : Fld) (n v : Nat) : (setF s f n v).items = s.items := rfl
@[simp] theorem setF_launches (s : State) (f : Fld) (n v : Nat) : (setF s f n v).launches = s.launches := rfl
@[simp] theorem setF_vcs (s : State) (f : Fld) (n v : Nat) : (setF s f n v).vcs = s.vcs := rfl
@[simp] theorem setF_sched (s : State) (f : Fld) (n v : Nat) : (setF s f n v).sched = s.sched := rfl
@[simp] theorem setF_slots (s : State) (f : Fld) (n v : Nat) : (setF s f n v).slots = s.slots := rfl
@[simp] theorem setF_models (s : State) (f : Fld) (n v : Nat) : (setF s f n v).models = s.models := rfl
@[simp] theorem setF_adapters (s : State) (f : Fld) (n v : Nat) : (setF s f n v).adapters = s.adapters := rfl
@[simp] theorem setF_resLatch (s : State) (f : Fld) (n v : Nat) : (setF s f n v).resLatch = s.resLatch := rfl
@[simp] theorem setF_sigs (s : State) (f : Fld) (n v : Nat) : (setF s f n v).sigs = s.sigs := rfl
@[simp] theorem setF_twin (s : State) (f : Fld) (n v : Nat) : (setF s f n v).twin = s.twin := rfl
@[simp] theorem setF_sto (s : State) (f : Fld) (n v : Nat) : (setF s f n v).sto = s.sto := rfl
@[simp] theorem setF_ras (s : State) (f : Fld) (n v : Nat) : (setF s f n v).ras = s.ras := rfl
@[simp] theorem setF_aed (s : State) (f : Fld) (n v : Nat) : (setF s f n v).aed = s.aed := rfl
@[simp] theorem setF_pwr (s : State) (f : Fld) (n v : Nat) : (setF s f n v).pwr = s.pwr := rfl
@[simp] theorem setF_host (s : State) (f : Fld) (n v : Nat) : (setF s f n v).host = s.host := rfl
@[simp] theorem setF_col (s : State) (f : Fld) (n v : Nat) : (setF s f n v).col = s.col := rfl
@[simp] theorem setF_fence (s : State) (f : Fld) (n v : Nat) : (setF s f n v).fence = s.fence := rfl
@[simp] theorem setF_stgHeld (s : State) (f : Fld) (n v : Nat) : (setF s f n v).stgHeld = s.stgHeld := rfl
@[simp] theorem setF_stgQ (s : State) (f : Fld) (n v : Nat) : (setF s f n v).stgQ = s.stgQ := rfl
@[simp] theorem setF_answers (s : State) (f : Fld) (n v : Nat) : (setF s f n v).answers = s.answers := rfl

/-! ### incBy -/

@[simp] theorem incBy_pending (s : State) (f : Fld) (n k : Nat) : (incBy s f n k).pending = s.pending := rfl
@[simp] theorem incBy_freshIdx (s : State) (f : Fld) (n k : Nat) : (incBy s f n k).freshIdx = s.freshIdx := rfl
@[simp] theorem incBy_outbox (s : State) (f : Fld) (n k : Nat) : (incBy s f n k).outbox = s.outbox := rfl
@[simp] theorem incBy_pages (s : State) (f : Fld) (n k : Nat) : (incBy s f n k).pages = s.pages := rfl
@[simp] theorem incBy_cores (s : State) (f : Fld) (n k : Nat) : (incBy s f n k).cores = s.cores := rfl
@[simp] theorem incBy_dsm (s : State) (f : Fld) (n k : Nat) : (incBy s f n k).dsm = s.dsm := rfl
@[simp] theorem incBy_dram (s : State) (f : Fld) (n k : Nat) : (incBy s f n k).dram = s.dram := rfl
@[simp] theorem incBy_dramChk (s : State) (f : Fld) (n k : Nat) : (incBy s f n k).dramChk = s.dramChk := rfl
@[simp] theorem incBy_dramPoison (s : State) (f : Fld) (n k : Nat) : (incBy s f n k).dramPoison = s.dramPoison := rfl
@[simp] theorem incBy_cache (s : State) (f : Fld) (n k : Nat) : (incBy s f n k).cache = s.cache := rfl
@[simp] theorem incBy_wheels (s : State) (f : Fld) (n k : Nat) : (incBy s f n k).wheels = s.wheels := rfl
@[simp] theorem incBy_links (s : State) (f : Fld) (n k : Nat) : (incBy s f n k).links = s.links := rfl
@[simp] theorem incBy_routeQ (s : State) (f : Fld) (n k : Nat) : (incBy s f n k).routeQ = s.routeQ := rfl
@[simp] theorem incBy_lost (s : State) (f : Fld) (n k : Nat) : (incBy s f n k).lost = s.lost := rfl
@[simp] theorem incBy_rte (s : State) (f : Fld) (n k : Nat) : (incBy s f n k).rte = s.rte := rfl
@[simp] theorem incBy_ft (s : State) (f : Fld) (n k : Nat) : (incBy s f n k).ft = s.ft := rfl
@[simp] theorem incBy_msix (s : State) (f : Fld) (n k : Nat) : (incBy s f n k).msix = s.msix := rfl
@[simp] theorem incBy_mds (s : State) (f : Fld) (n k : Nat) : (incBy s f n k).mds = s.mds := rfl
@[simp] theorem incBy_sramFilled (s : State) (f : Fld) (n k : Nat) : (incBy s f n k).sramFilled = s.sramFilled := rfl
@[simp] theorem incBy_ctxs (s : State) (f : Fld) (n k : Nat) : (incBy s f n k).ctxs = s.ctxs := rfl
@[simp] theorem incBy_xlt (s : State) (f : Fld) (n k : Nat) : (incBy s f n k).xlt = s.xlt := rfl
@[simp] theorem incBy_faults (s : State) (f : Fld) (n k : Nat) : (incBy s f n k).faults = s.faults := rfl
@[simp] theorem incBy_hostMem (s : State) (f : Fld) (n k : Nat) : (incBy s f n k).hostMem = s.hostMem := rfl
@[simp] theorem incBy_queues (s : State) (f : Fld) (n k : Nat) : (incBy s f n k).queues = s.queues := rfl
@[simp] theorem incBy_items (s : State) (f : Fld) (n k : Nat) : (incBy s f n k).items = s.items := rfl
@[simp] theorem incBy_launches (s : State) (f : Fld) (n k : Nat) : (incBy s f n k).launches = s.launches := rfl
@[simp] theorem incBy_vcs (s : State) (f : Fld) (n k : Nat) : (incBy s f n k).vcs = s.vcs := rfl
@[simp] theorem incBy_sched (s : State) (f : Fld) (n k : Nat) : (incBy s f n k).sched = s.sched := rfl
@[simp] theorem incBy_slots (s : State) (f : Fld) (n k : Nat) : (incBy s f n k).slots = s.slots := rfl
@[simp] theorem incBy_models (s : State) (f : Fld) (n k : Nat) : (incBy s f n k).models = s.models := rfl
@[simp] theorem incBy_adapters (s : State) (f : Fld) (n k : Nat) : (incBy s f n k).adapters = s.adapters := rfl
@[simp] theorem incBy_resLatch (s : State) (f : Fld) (n k : Nat) : (incBy s f n k).resLatch = s.resLatch := rfl
@[simp] theorem incBy_sigs (s : State) (f : Fld) (n k : Nat) : (incBy s f n k).sigs = s.sigs := rfl
@[simp] theorem incBy_twin (s : State) (f : Fld) (n k : Nat) : (incBy s f n k).twin = s.twin := rfl
@[simp] theorem incBy_sto (s : State) (f : Fld) (n k : Nat) : (incBy s f n k).sto = s.sto := rfl
@[simp] theorem incBy_ras (s : State) (f : Fld) (n k : Nat) : (incBy s f n k).ras = s.ras := rfl
@[simp] theorem incBy_aed (s : State) (f : Fld) (n k : Nat) : (incBy s f n k).aed = s.aed := rfl
@[simp] theorem incBy_pwr (s : State) (f : Fld) (n k : Nat) : (incBy s f n k).pwr = s.pwr := rfl
@[simp] theorem incBy_host (s : State) (f : Fld) (n k : Nat) : (incBy s f n k).host = s.host := rfl
@[simp] theorem incBy_col (s : State) (f : Fld) (n k : Nat) : (incBy s f n k).col = s.col := rfl
@[simp] theorem incBy_fence (s : State) (f : Fld) (n k : Nat) : (incBy s f n k).fence = s.fence := rfl
@[simp] theorem incBy_stgHeld (s : State) (f : Fld) (n k : Nat) : (incBy s f n k).stgHeld = s.stgHeld := rfl
@[simp] theorem incBy_stgQ (s : State) (f : Fld) (n k : Nat) : (incBy s f n k).stgQ = s.stgQ := rfl
@[simp] theorem incBy_answers (s : State) (f : Fld) (n k : Nat) : (incBy s f n k).answers = s.answers := rfl

/-! ### inc -/

@[simp] theorem inc_pending (s : State) (f : Fld) (n : Nat) : (inc s f n).pending = s.pending := rfl
@[simp] theorem inc_freshIdx (s : State) (f : Fld) (n : Nat) : (inc s f n).freshIdx = s.freshIdx := rfl
@[simp] theorem inc_outbox (s : State) (f : Fld) (n : Nat) : (inc s f n).outbox = s.outbox := rfl
@[simp] theorem inc_pages (s : State) (f : Fld) (n : Nat) : (inc s f n).pages = s.pages := rfl
@[simp] theorem inc_cores (s : State) (f : Fld) (n : Nat) : (inc s f n).cores = s.cores := rfl
@[simp] theorem inc_dsm (s : State) (f : Fld) (n : Nat) : (inc s f n).dsm = s.dsm := rfl
@[simp] theorem inc_dram (s : State) (f : Fld) (n : Nat) : (inc s f n).dram = s.dram := rfl
@[simp] theorem inc_dramChk (s : State) (f : Fld) (n : Nat) : (inc s f n).dramChk = s.dramChk := rfl
@[simp] theorem inc_dramPoison (s : State) (f : Fld) (n : Nat) : (inc s f n).dramPoison = s.dramPoison := rfl
@[simp] theorem inc_cache (s : State) (f : Fld) (n : Nat) : (inc s f n).cache = s.cache := rfl
@[simp] theorem inc_wheels (s : State) (f : Fld) (n : Nat) : (inc s f n).wheels = s.wheels := rfl
@[simp] theorem inc_links (s : State) (f : Fld) (n : Nat) : (inc s f n).links = s.links := rfl
@[simp] theorem inc_routeQ (s : State) (f : Fld) (n : Nat) : (inc s f n).routeQ = s.routeQ := rfl
@[simp] theorem inc_lost (s : State) (f : Fld) (n : Nat) : (inc s f n).lost = s.lost := rfl
@[simp] theorem inc_rte (s : State) (f : Fld) (n : Nat) : (inc s f n).rte = s.rte := rfl
@[simp] theorem inc_ft (s : State) (f : Fld) (n : Nat) : (inc s f n).ft = s.ft := rfl
@[simp] theorem inc_msix (s : State) (f : Fld) (n : Nat) : (inc s f n).msix = s.msix := rfl
@[simp] theorem inc_mds (s : State) (f : Fld) (n : Nat) : (inc s f n).mds = s.mds := rfl
@[simp] theorem inc_sramFilled (s : State) (f : Fld) (n : Nat) : (inc s f n).sramFilled = s.sramFilled := rfl
@[simp] theorem inc_ctxs (s : State) (f : Fld) (n : Nat) : (inc s f n).ctxs = s.ctxs := rfl
@[simp] theorem inc_xlt (s : State) (f : Fld) (n : Nat) : (inc s f n).xlt = s.xlt := rfl
@[simp] theorem inc_faults (s : State) (f : Fld) (n : Nat) : (inc s f n).faults = s.faults := rfl
@[simp] theorem inc_hostMem (s : State) (f : Fld) (n : Nat) : (inc s f n).hostMem = s.hostMem := rfl
@[simp] theorem inc_queues (s : State) (f : Fld) (n : Nat) : (inc s f n).queues = s.queues := rfl
@[simp] theorem inc_items (s : State) (f : Fld) (n : Nat) : (inc s f n).items = s.items := rfl
@[simp] theorem inc_launches (s : State) (f : Fld) (n : Nat) : (inc s f n).launches = s.launches := rfl
@[simp] theorem inc_vcs (s : State) (f : Fld) (n : Nat) : (inc s f n).vcs = s.vcs := rfl
@[simp] theorem inc_sched (s : State) (f : Fld) (n : Nat) : (inc s f n).sched = s.sched := rfl
@[simp] theorem inc_slots (s : State) (f : Fld) (n : Nat) : (inc s f n).slots = s.slots := rfl
@[simp] theorem inc_models (s : State) (f : Fld) (n : Nat) : (inc s f n).models = s.models := rfl
@[simp] theorem inc_adapters (s : State) (f : Fld) (n : Nat) : (inc s f n).adapters = s.adapters := rfl
@[simp] theorem inc_resLatch (s : State) (f : Fld) (n : Nat) : (inc s f n).resLatch = s.resLatch := rfl
@[simp] theorem inc_sigs (s : State) (f : Fld) (n : Nat) : (inc s f n).sigs = s.sigs := rfl
@[simp] theorem inc_twin (s : State) (f : Fld) (n : Nat) : (inc s f n).twin = s.twin := rfl
@[simp] theorem inc_sto (s : State) (f : Fld) (n : Nat) : (inc s f n).sto = s.sto := rfl
@[simp] theorem inc_ras (s : State) (f : Fld) (n : Nat) : (inc s f n).ras = s.ras := rfl
@[simp] theorem inc_aed (s : State) (f : Fld) (n : Nat) : (inc s f n).aed = s.aed := rfl
@[simp] theorem inc_pwr (s : State) (f : Fld) (n : Nat) : (inc s f n).pwr = s.pwr := rfl
@[simp] theorem inc_host (s : State) (f : Fld) (n : Nat) : (inc s f n).host = s.host := rfl
@[simp] theorem inc_col (s : State) (f : Fld) (n : Nat) : (inc s f n).col = s.col := rfl
@[simp] theorem inc_fence (s : State) (f : Fld) (n : Nat) : (inc s f n).fence = s.fence := rfl
@[simp] theorem inc_stgHeld (s : State) (f : Fld) (n : Nat) : (inc s f n).stgHeld = s.stgHeld := rfl
@[simp] theorem inc_stgQ (s : State) (f : Fld) (n : Nat) : (inc s f n).stgQ = s.stgQ := rfl
@[simp] theorem inc_answers (s : State) (f : Fld) (n : Nat) : (inc s f n).answers = s.answers := rfl

/-! ### setCore -/

@[simp] theorem setCore_pending (s : State) (c : Nat) (k : CoreSt) : (setCore s c k).pending = s.pending := rfl
@[simp] theorem setCore_freshIdx (s : State) (c : Nat) (k : CoreSt) : (setCore s c k).freshIdx = s.freshIdx := rfl
@[simp] theorem setCore_outbox (s : State) (c : Nat) (k : CoreSt) : (setCore s c k).outbox = s.outbox := rfl
@[simp] theorem setCore_regs (s : State) (c : Nat) (k : CoreSt) : (setCore s c k).regs = s.regs := rfl
@[simp] theorem setCore_regB (s : State) (c : Nat) (k : CoreSt) : (setCore s c k).regB = s.regB := rfl
@[simp] theorem setCore_regC (s : State) (c : Nat) (k : CoreSt) : (setCore s c k).regC = s.regC := rfl
@[simp] theorem setCore_pages (s : State) (c : Nat) (k : CoreSt) : (setCore s c k).pages = s.pages := rfl
@[simp] theorem setCore_dsm (s : State) (c : Nat) (k : CoreSt) : (setCore s c k).dsm = s.dsm := rfl
@[simp] theorem setCore_dram (s : State) (c : Nat) (k : CoreSt) : (setCore s c k).dram = s.dram := rfl
@[simp] theorem setCore_dramChk (s : State) (c : Nat) (k : CoreSt) : (setCore s c k).dramChk = s.dramChk := rfl
@[simp] theorem setCore_dramPoison (s : State) (c : Nat) (k : CoreSt) : (setCore s c k).dramPoison = s.dramPoison := rfl
@[simp] theorem setCore_cache (s : State) (c : Nat) (k : CoreSt) : (setCore s c k).cache = s.cache := rfl
@[simp] theorem setCore_wheels (s : State) (c : Nat) (k : CoreSt) : (setCore s c k).wheels = s.wheels := rfl
@[simp] theorem setCore_links (s : State) (c : Nat) (k : CoreSt) : (setCore s c k).links = s.links := rfl
@[simp] theorem setCore_routeQ (s : State) (c : Nat) (k : CoreSt) : (setCore s c k).routeQ = s.routeQ := rfl
@[simp] theorem setCore_lost (s : State) (c : Nat) (k : CoreSt) : (setCore s c k).lost = s.lost := rfl
@[simp] theorem setCore_rte (s : State) (c : Nat) (k : CoreSt) : (setCore s c k).rte = s.rte := rfl
@[simp] theorem setCore_ft (s : State) (c : Nat) (k : CoreSt) : (setCore s c k).ft = s.ft := rfl
@[simp] theorem setCore_msix (s : State) (c : Nat) (k : CoreSt) : (setCore s c k).msix = s.msix := rfl
@[simp] theorem setCore_mds (s : State) (c : Nat) (k : CoreSt) : (setCore s c k).mds = s.mds := rfl
@[simp] theorem setCore_sramFilled (s : State) (c : Nat) (k : CoreSt) : (setCore s c k).sramFilled = s.sramFilled := rfl
@[simp] theorem setCore_ctxs (s : State) (c : Nat) (k : CoreSt) : (setCore s c k).ctxs = s.ctxs := rfl
@[simp] theorem setCore_xlt (s : State) (c : Nat) (k : CoreSt) : (setCore s c k).xlt = s.xlt := rfl
@[simp] theorem setCore_faults (s : State) (c : Nat) (k : CoreSt) : (setCore s c k).faults = s.faults := rfl
@[simp] theorem setCore_hostMem (s : State) (c : Nat) (k : CoreSt) : (setCore s c k).hostMem = s.hostMem := rfl
@[simp] theorem setCore_queues (s : State) (c : Nat) (k : CoreSt) : (setCore s c k).queues = s.queues := rfl
@[simp] theorem setCore_items (s : State) (c : Nat) (k : CoreSt) : (setCore s c k).items = s.items := rfl
@[simp] theorem setCore_launches (s : State) (c : Nat) (k : CoreSt) : (setCore s c k).launches = s.launches := rfl
@[simp] theorem setCore_vcs (s : State) (c : Nat) (k : CoreSt) : (setCore s c k).vcs = s.vcs := rfl
@[simp] theorem setCore_sched (s : State) (c : Nat) (k : CoreSt) : (setCore s c k).sched = s.sched := rfl
@[simp] theorem setCore_slots (s : State) (c : Nat) (k : CoreSt) : (setCore s c k).slots = s.slots := rfl
@[simp] theorem setCore_models (s : State) (c : Nat) (k : CoreSt) : (setCore s c k).models = s.models := rfl
@[simp] theorem setCore_adapters (s : State) (c : Nat) (k : CoreSt) : (setCore s c k).adapters = s.adapters := rfl
@[simp] theorem setCore_resLatch (s : State) (c : Nat) (k : CoreSt) : (setCore s c k).resLatch = s.resLatch := rfl
@[simp] theorem setCore_sigs (s : State) (c : Nat) (k : CoreSt) : (setCore s c k).sigs = s.sigs := rfl
@[simp] theorem setCore_twin (s : State) (c : Nat) (k : CoreSt) : (setCore s c k).twin = s.twin := rfl
@[simp] theorem setCore_sto (s : State) (c : Nat) (k : CoreSt) : (setCore s c k).sto = s.sto := rfl
@[simp] theorem setCore_ras (s : State) (c : Nat) (k : CoreSt) : (setCore s c k).ras = s.ras := rfl
@[simp] theorem setCore_aed (s : State) (c : Nat) (k : CoreSt) : (setCore s c k).aed = s.aed := rfl
@[simp] theorem setCore_pwr (s : State) (c : Nat) (k : CoreSt) : (setCore s c k).pwr = s.pwr := rfl
@[simp] theorem setCore_host (s : State) (c : Nat) (k : CoreSt) : (setCore s c k).host = s.host := rfl
@[simp] theorem setCore_col (s : State) (c : Nat) (k : CoreSt) : (setCore s c k).col = s.col := rfl
@[simp] theorem setCore_fence (s : State) (c : Nat) (k : CoreSt) : (setCore s c k).fence = s.fence := rfl
@[simp] theorem setCore_stgHeld (s : State) (c : Nat) (k : CoreSt) : (setCore s c k).stgHeld = s.stgHeld := rfl
@[simp] theorem setCore_stgQ (s : State) (c : Nat) (k : CoreSt) : (setCore s c k).stgQ = s.stgQ := rfl
@[simp] theorem setCore_answers (s : State) (c : Nat) (k : CoreSt) : (setCore s c k).answers = s.answers := rfl

/-! ### modCore -/

@[simp] theorem modCore_pending (s : State) (c : Nat) (f : CoreSt → CoreSt) : (modCore s c f).pending = s.pending := rfl
@[simp] theorem modCore_freshIdx (s : State) (c : Nat) (f : CoreSt → CoreSt) : (modCore s c f).freshIdx = s.freshIdx := rfl
@[simp] theorem modCore_outbox (s : State) (c : Nat) (f : CoreSt → CoreSt) : (modCore s c f).outbox = s.outbox := rfl
@[simp] theorem modCore_regs (s : State) (c : Nat) (f : CoreSt → CoreSt) : (modCore s c f).regs = s.regs := rfl
@[simp] theorem modCore_regB (s : State) (c : Nat) (f : CoreSt → CoreSt) : (modCore s c f).regB = s.regB := rfl
@[simp] theorem modCore_regC (s : State) (c : Nat) (f : CoreSt → CoreSt) : (modCore s c f).regC = s.regC := rfl
@[simp] theorem modCore_pages (s : State) (c : Nat) (f : CoreSt → CoreSt) : (modCore s c f).pages = s.pages := rfl
@[simp] theorem modCore_dsm (s : State) (c : Nat) (f : CoreSt → CoreSt) : (modCore s c f).dsm = s.dsm := rfl
@[simp] theorem modCore_dram (s : State) (c : Nat) (f : CoreSt → CoreSt) : (modCore s c f).dram = s.dram := rfl
@[simp] theorem modCore_dramChk (s : State) (c : Nat) (f : CoreSt → CoreSt) : (modCore s c f).dramChk = s.dramChk := rfl
@[simp] theorem modCore_dramPoison (s : State) (c : Nat) (f : CoreSt → CoreSt) : (modCore s c f).dramPoison = s.dramPoison := rfl
@[simp] theorem modCore_cache (s : State) (c : Nat) (f : CoreSt → CoreSt) : (modCore s c f).cache = s.cache := rfl
@[simp] theorem modCore_wheels (s : State) (c : Nat) (f : CoreSt → CoreSt) : (modCore s c f).wheels = s.wheels := rfl
@[simp] theorem modCore_links (s : State) (c : Nat) (f : CoreSt → CoreSt) : (modCore s c f).links = s.links := rfl
@[simp] theorem modCore_routeQ (s : State) (c : Nat) (f : CoreSt → CoreSt) : (modCore s c f).routeQ = s.routeQ := rfl
@[simp] theorem modCore_lost (s : State) (c : Nat) (f : CoreSt → CoreSt) : (modCore s c f).lost = s.lost := rfl
@[simp] theorem modCore_rte (s : State) (c : Nat) (f : CoreSt → CoreSt) : (modCore s c f).rte = s.rte := rfl
@[simp] theorem modCore_ft (s : State) (c : Nat) (f : CoreSt → CoreSt) : (modCore s c f).ft = s.ft := rfl
@[simp] theorem modCore_msix (s : State) (c : Nat) (f : CoreSt → CoreSt) : (modCore s c f).msix = s.msix := rfl
@[simp] theorem modCore_mds (s : State) (c : Nat) (f : CoreSt → CoreSt) : (modCore s c f).mds = s.mds := rfl
@[simp] theorem modCore_sramFilled (s : State) (c : Nat) (f : CoreSt → CoreSt) : (modCore s c f).sramFilled = s.sramFilled := rfl
@[simp] theorem modCore_ctxs (s : State) (c : Nat) (f : CoreSt → CoreSt) : (modCore s c f).ctxs = s.ctxs := rfl
@[simp] theorem modCore_xlt (s : State) (c : Nat) (f : CoreSt → CoreSt) : (modCore s c f).xlt = s.xlt := rfl
@[simp] theorem modCore_faults (s : State) (c : Nat) (f : CoreSt → CoreSt) : (modCore s c f).faults = s.faults := rfl
@[simp] theorem modCore_hostMem (s : State) (c : Nat) (f : CoreSt → CoreSt) : (modCore s c f).hostMem = s.hostMem := rfl
@[simp] theorem modCore_queues (s : State) (c : Nat) (f : CoreSt → CoreSt) : (modCore s c f).queues = s.queues := rfl
@[simp] theorem modCore_items (s : State) (c : Nat) (f : CoreSt → CoreSt) : (modCore s c f).items = s.items := rfl
@[simp] theorem modCore_launches (s : State) (c : Nat) (f : CoreSt → CoreSt) : (modCore s c f).launches = s.launches := rfl
@[simp] theorem modCore_vcs (s : State) (c : Nat) (f : CoreSt → CoreSt) : (modCore s c f).vcs = s.vcs := rfl
@[simp] theorem modCore_sched (s : State) (c : Nat) (f : CoreSt → CoreSt) : (modCore s c f).sched = s.sched := rfl
@[simp] theorem modCore_slots (s : State) (c : Nat) (f : CoreSt → CoreSt) : (modCore s c f).slots = s.slots := rfl
@[simp] theorem modCore_models (s : State) (c : Nat) (f : CoreSt → CoreSt) : (modCore s c f).models = s.models := rfl
@[simp] theorem modCore_adapters (s : State) (c : Nat) (f : CoreSt → CoreSt) : (modCore s c f).adapters = s.adapters := rfl
@[simp] theorem modCore_resLatch (s : State) (c : Nat) (f : CoreSt → CoreSt) : (modCore s c f).resLatch = s.resLatch := rfl
@[simp] theorem modCore_sigs (s : State) (c : Nat) (f : CoreSt → CoreSt) : (modCore s c f).sigs = s.sigs := rfl
@[simp] theorem modCore_twin (s : State) (c : Nat) (f : CoreSt → CoreSt) : (modCore s c f).twin = s.twin := rfl
@[simp] theorem modCore_sto (s : State) (c : Nat) (f : CoreSt → CoreSt) : (modCore s c f).sto = s.sto := rfl
@[simp] theorem modCore_ras (s : State) (c : Nat) (f : CoreSt → CoreSt) : (modCore s c f).ras = s.ras := rfl
@[simp] theorem modCore_aed (s : State) (c : Nat) (f : CoreSt → CoreSt) : (modCore s c f).aed = s.aed := rfl
@[simp] theorem modCore_pwr (s : State) (c : Nat) (f : CoreSt → CoreSt) : (modCore s c f).pwr = s.pwr := rfl
@[simp] theorem modCore_host (s : State) (c : Nat) (f : CoreSt → CoreSt) : (modCore s c f).host = s.host := rfl
@[simp] theorem modCore_col (s : State) (c : Nat) (f : CoreSt → CoreSt) : (modCore s c f).col = s.col := rfl
@[simp] theorem modCore_fence (s : State) (c : Nat) (f : CoreSt → CoreSt) : (modCore s c f).fence = s.fence := rfl
@[simp] theorem modCore_stgHeld (s : State) (c : Nat) (f : CoreSt → CoreSt) : (modCore s c f).stgHeld = s.stgHeld := rfl
@[simp] theorem modCore_stgQ (s : State) (c : Nat) (f : CoreSt → CoreSt) : (modCore s c f).stgQ = s.stgQ := rfl
@[simp] theorem modCore_answers (s : State) (c : Nat) (f : CoreSt → CoreSt) : (modCore s c f).answers = s.answers := rfl

/-! ### pushOps -/

@[simp] theorem pushOps_pending (s : State) (c u : Nat) (l : List UnitOp) : (pushOps s c u l).pending = s.pending := rfl
@[simp] theorem pushOps_freshIdx (s : State) (c u : Nat) (l : List UnitOp) : (pushOps s c u l).freshIdx = s.freshIdx := rfl
@[simp] theorem pushOps_outbox (s : State) (c u : Nat) (l : List UnitOp) : (pushOps s c u l).outbox = s.outbox := rfl
@[simp] theorem pushOps_regs (s : State) (c u : Nat) (l : List UnitOp) : (pushOps s c u l).regs = s.regs := rfl
@[simp] theorem pushOps_regB (s : State) (c u : Nat) (l : List UnitOp) : (pushOps s c u l).regB = s.regB := rfl
@[simp] theorem pushOps_regC (s : State) (c u : Nat) (l : List UnitOp) : (pushOps s c u l).regC = s.regC := rfl
@[simp] theorem pushOps_pages (s : State) (c u : Nat) (l : List UnitOp) : (pushOps s c u l).pages = s.pages := rfl
@[simp] theorem pushOps_dsm (s : State) (c u : Nat) (l : List UnitOp) : (pushOps s c u l).dsm = s.dsm := rfl
@[simp] theorem pushOps_dram (s : State) (c u : Nat) (l : List UnitOp) : (pushOps s c u l).dram = s.dram := rfl
@[simp] theorem pushOps_dramChk (s : State) (c u : Nat) (l : List UnitOp) : (pushOps s c u l).dramChk = s.dramChk := rfl
@[simp] theorem pushOps_dramPoison (s : State) (c u : Nat) (l : List UnitOp) : (pushOps s c u l).dramPoison = s.dramPoison := rfl
@[simp] theorem pushOps_cache (s : State) (c u : Nat) (l : List UnitOp) : (pushOps s c u l).cache = s.cache := rfl
@[simp] theorem pushOps_wheels (s : State) (c u : Nat) (l : List UnitOp) : (pushOps s c u l).wheels = s.wheels := rfl
@[simp] theorem pushOps_links (s : State) (c u : Nat) (l : List UnitOp) : (pushOps s c u l).links = s.links := rfl
@[simp] theorem pushOps_routeQ (s : State) (c u : Nat) (l : List UnitOp) : (pushOps s c u l).routeQ = s.routeQ := rfl
@[simp] theorem pushOps_lost (s : State) (c u : Nat) (l : List UnitOp) : (pushOps s c u l).lost = s.lost := rfl
@[simp] theorem pushOps_rte (s : State) (c u : Nat) (l : List UnitOp) : (pushOps s c u l).rte = s.rte := rfl
@[simp] theorem pushOps_ft (s : State) (c u : Nat) (l : List UnitOp) : (pushOps s c u l).ft = s.ft := rfl
@[simp] theorem pushOps_msix (s : State) (c u : Nat) (l : List UnitOp) : (pushOps s c u l).msix = s.msix := rfl
@[simp] theorem pushOps_mds (s : State) (c u : Nat) (l : List UnitOp) : (pushOps s c u l).mds = s.mds := rfl
@[simp] theorem pushOps_sramFilled (s : State) (c u : Nat) (l : List UnitOp) : (pushOps s c u l).sramFilled = s.sramFilled := rfl
@[simp] theorem pushOps_ctxs (s : State) (c u : Nat) (l : List UnitOp) : (pushOps s c u l).ctxs = s.ctxs := rfl
@[simp] theorem pushOps_xlt (s : State) (c u : Nat) (l : List UnitOp) : (pushOps s c u l).xlt = s.xlt := rfl
@[simp] theorem pushOps_faults (s : State) (c u : Nat) (l : List UnitOp) : (pushOps s c u l).faults = s.faults := rfl
@[simp] theorem pushOps_hostMem (s : State) (c u : Nat) (l : List UnitOp) : (pushOps s c u l).hostMem = s.hostMem := rfl
@[simp] theorem pushOps_queues (s : State) (c u : Nat) (l : List UnitOp) : (pushOps s c u l).queues = s.queues := rfl
@[simp] theorem pushOps_items (s : State) (c u : Nat) (l : List UnitOp) : (pushOps s c u l).items = s.items := rfl
@[simp] theorem pushOps_launches (s : State) (c u : Nat) (l : List UnitOp) : (pushOps s c u l).launches = s.launches := rfl
@[simp] theorem pushOps_vcs (s : State) (c u : Nat) (l : List UnitOp) : (pushOps s c u l).vcs = s.vcs := rfl
@[simp] theorem pushOps_sched (s : State) (c u : Nat) (l : List UnitOp) : (pushOps s c u l).sched = s.sched := rfl
@[simp] theorem pushOps_slots (s : State) (c u : Nat) (l : List UnitOp) : (pushOps s c u l).slots = s.slots := rfl
@[simp] theorem pushOps_models (s : State) (c u : Nat) (l : List UnitOp) : (pushOps s c u l).models = s.models := rfl
@[simp] theorem pushOps_adapters (s : State) (c u : Nat) (l : List UnitOp) : (pushOps s c u l).adapters = s.adapters := rfl
@[simp] theorem pushOps_resLatch (s : State) (c u : Nat) (l : List UnitOp) : (pushOps s c u l).resLatch = s.resLatch := rfl
@[simp] theorem pushOps_sigs (s : State) (c u : Nat) (l : List UnitOp) : (pushOps s c u l).sigs = s.sigs := rfl
@[simp] theorem pushOps_twin (s : State) (c u : Nat) (l : List UnitOp) : (pushOps s c u l).twin = s.twin := rfl
@[simp] theorem pushOps_sto (s : State) (c u : Nat) (l : List UnitOp) : (pushOps s c u l).sto = s.sto := rfl
@[simp] theorem pushOps_ras (s : State) (c u : Nat) (l : List UnitOp) : (pushOps s c u l).ras = s.ras := rfl
@[simp] theorem pushOps_aed (s : State) (c u : Nat) (l : List UnitOp) : (pushOps s c u l).aed = s.aed := rfl
@[simp] theorem pushOps_pwr (s : State) (c u : Nat) (l : List UnitOp) : (pushOps s c u l).pwr = s.pwr := rfl
@[simp] theorem pushOps_host (s : State) (c u : Nat) (l : List UnitOp) : (pushOps s c u l).host = s.host := rfl
@[simp] theorem pushOps_col (s : State) (c u : Nat) (l : List UnitOp) : (pushOps s c u l).col = s.col := rfl
@[simp] theorem pushOps_fence (s : State) (c u : Nat) (l : List UnitOp) : (pushOps s c u l).fence = s.fence := rfl
@[simp] theorem pushOps_stgHeld (s : State) (c u : Nat) (l : List UnitOp) : (pushOps s c u l).stgHeld = s.stgHeld := rfl
@[simp] theorem pushOps_stgQ (s : State) (c u : Nat) (l : List UnitOp) : (pushOps s c u l).stgQ = s.stgQ := rfl
@[simp] theorem pushOps_answers (s : State) (c u : Nat) (l : List UnitOp) : (pushOps s c u l).answers = s.answers := rfl

/-! ### setXfer -/

@[simp] theorem setXfer_pending (s : State) (c i : Nat) (x : Option Xfer) : (setXfer s c i x).pending = s.pending := rfl
@[simp] theorem setXfer_freshIdx (s : State) (c i : Nat) (x : Option Xfer) : (setXfer s c i x).freshIdx = s.freshIdx := rfl
@[simp] theorem setXfer_outbox (s : State) (c i : Nat) (x : Option Xfer) : (setXfer s c i x).outbox = s.outbox := rfl
@[simp] theorem setXfer_regs (s : State) (c i : Nat) (x : Option Xfer) : (setXfer s c i x).regs = s.regs := rfl
@[simp] theorem setXfer_regB (s : State) (c i : Nat) (x : Option Xfer) : (setXfer s c i x).regB = s.regB := rfl
@[simp] theorem setXfer_regC (s : State) (c i : Nat) (x : Option Xfer) : (setXfer s c i x).regC = s.regC := rfl
@[simp] theorem setXfer_pages (s : State) (c i : Nat) (x : Option Xfer) : (setXfer s c i x).pages = s.pages := rfl
@[simp] theorem setXfer_dsm (s : State) (c i : Nat) (x : Option Xfer) : (setXfer s c i x).dsm = s.dsm := rfl
@[simp] theorem setXfer_dram (s : State) (c i : Nat) (x : Option Xfer) : (setXfer s c i x).dram = s.dram := rfl
@[simp] theorem setXfer_dramChk (s : State) (c i : Nat) (x : Option Xfer) : (setXfer s c i x).dramChk = s.dramChk := rfl
@[simp] theorem setXfer_dramPoison (s : State) (c i : Nat) (x : Option Xfer) : (setXfer s c i x).dramPoison = s.dramPoison := rfl
@[simp] theorem setXfer_cache (s : State) (c i : Nat) (x : Option Xfer) : (setXfer s c i x).cache = s.cache := rfl
@[simp] theorem setXfer_wheels (s : State) (c i : Nat) (x : Option Xfer) : (setXfer s c i x).wheels = s.wheels := rfl
@[simp] theorem setXfer_links (s : State) (c i : Nat) (x : Option Xfer) : (setXfer s c i x).links = s.links := rfl
@[simp] theorem setXfer_routeQ (s : State) (c i : Nat) (x : Option Xfer) : (setXfer s c i x).routeQ = s.routeQ := rfl
@[simp] theorem setXfer_lost (s : State) (c i : Nat) (x : Option Xfer) : (setXfer s c i x).lost = s.lost := rfl
@[simp] theorem setXfer_rte (s : State) (c i : Nat) (x : Option Xfer) : (setXfer s c i x).rte = s.rte := rfl
@[simp] theorem setXfer_ft (s : State) (c i : Nat) (x : Option Xfer) : (setXfer s c i x).ft = s.ft := rfl
@[simp] theorem setXfer_msix (s : State) (c i : Nat) (x : Option Xfer) : (setXfer s c i x).msix = s.msix := rfl
@[simp] theorem setXfer_mds (s : State) (c i : Nat) (x : Option Xfer) : (setXfer s c i x).mds = s.mds := rfl
@[simp] theorem setXfer_sramFilled (s : State) (c i : Nat) (x : Option Xfer) : (setXfer s c i x).sramFilled = s.sramFilled := rfl
@[simp] theorem setXfer_ctxs (s : State) (c i : Nat) (x : Option Xfer) : (setXfer s c i x).ctxs = s.ctxs := rfl
@[simp] theorem setXfer_xlt (s : State) (c i : Nat) (x : Option Xfer) : (setXfer s c i x).xlt = s.xlt := rfl
@[simp] theorem setXfer_faults (s : State) (c i : Nat) (x : Option Xfer) : (setXfer s c i x).faults = s.faults := rfl
@[simp] theorem setXfer_hostMem (s : State) (c i : Nat) (x : Option Xfer) : (setXfer s c i x).hostMem = s.hostMem := rfl
@[simp] theorem setXfer_queues (s : State) (c i : Nat) (x : Option Xfer) : (setXfer s c i x).queues = s.queues := rfl
@[simp] theorem setXfer_items (s : State) (c i : Nat) (x : Option Xfer) : (setXfer s c i x).items = s.items := rfl
@[simp] theorem setXfer_launches (s : State) (c i : Nat) (x : Option Xfer) : (setXfer s c i x).launches = s.launches := rfl
@[simp] theorem setXfer_vcs (s : State) (c i : Nat) (x : Option Xfer) : (setXfer s c i x).vcs = s.vcs := rfl
@[simp] theorem setXfer_sched (s : State) (c i : Nat) (x : Option Xfer) : (setXfer s c i x).sched = s.sched := rfl
@[simp] theorem setXfer_slots (s : State) (c i : Nat) (x : Option Xfer) : (setXfer s c i x).slots = s.slots := rfl
@[simp] theorem setXfer_models (s : State) (c i : Nat) (x : Option Xfer) : (setXfer s c i x).models = s.models := rfl
@[simp] theorem setXfer_adapters (s : State) (c i : Nat) (x : Option Xfer) : (setXfer s c i x).adapters = s.adapters := rfl
@[simp] theorem setXfer_resLatch (s : State) (c i : Nat) (x : Option Xfer) : (setXfer s c i x).resLatch = s.resLatch := rfl
@[simp] theorem setXfer_sigs (s : State) (c i : Nat) (x : Option Xfer) : (setXfer s c i x).sigs = s.sigs := rfl
@[simp] theorem setXfer_twin (s : State) (c i : Nat) (x : Option Xfer) : (setXfer s c i x).twin = s.twin := rfl
@[simp] theorem setXfer_sto (s : State) (c i : Nat) (x : Option Xfer) : (setXfer s c i x).sto = s.sto := rfl
@[simp] theorem setXfer_ras (s : State) (c i : Nat) (x : Option Xfer) : (setXfer s c i x).ras = s.ras := rfl
@[simp] theorem setXfer_aed (s : State) (c i : Nat) (x : Option Xfer) : (setXfer s c i x).aed = s.aed := rfl
@[simp] theorem setXfer_pwr (s : State) (c i : Nat) (x : Option Xfer) : (setXfer s c i x).pwr = s.pwr := rfl
@[simp] theorem setXfer_host (s : State) (c i : Nat) (x : Option Xfer) : (setXfer s c i x).host = s.host := rfl
@[simp] theorem setXfer_col (s : State) (c i : Nat) (x : Option Xfer) : (setXfer s c i x).col = s.col := rfl
@[simp] theorem setXfer_fence (s : State) (c i : Nat) (x : Option Xfer) : (setXfer s c i x).fence = s.fence := rfl
@[simp] theorem setXfer_stgHeld (s : State) (c i : Nat) (x : Option Xfer) : (setXfer s c i x).stgHeld = s.stgHeld := rfl
@[simp] theorem setXfer_stgQ (s : State) (c i : Nat) (x : Option Xfer) : (setXfer s c i x).stgQ = s.stgQ := rfl
@[simp] theorem setXfer_answers (s : State) (c i : Nat) (x : Option Xfer) : (setXfer s c i x).answers = s.answers := rfl

/-! ### setMd -/

@[simp] theorem setMd_pending (s : State) (m : Nat) (x : MdSt) : (setMd s m x).pending = s.pending := rfl
@[simp] theorem setMd_freshIdx (s : State) (m : Nat) (x : MdSt) : (setMd s m x).freshIdx = s.freshIdx := rfl
@[simp] theorem setMd_outbox (s : State) (m : Nat) (x : MdSt) : (setMd s m x).outbox = s.outbox := rfl
@[simp] theorem setMd_regs (s : State) (m : Nat) (x : MdSt) : (setMd s m x).regs = s.regs := rfl
@[simp] theorem setMd_regB (s : State) (m : Nat) (x : MdSt) : (setMd s m x).regB = s.regB := rfl
@[simp] theorem setMd_regC (s : State) (m : Nat) (x : MdSt) : (setMd s m x).regC = s.regC := rfl
@[simp] theorem setMd_pages (s : State) (m : Nat) (x : MdSt) : (setMd s m x).pages = s.pages := rfl
@[simp] theorem setMd_cores (s : State) (m : Nat) (x : MdSt) : (setMd s m x).cores = s.cores := rfl
@[simp] theorem setMd_dsm (s : State) (m : Nat) (x : MdSt) : (setMd s m x).dsm = s.dsm := rfl
@[simp] theorem setMd_dram (s : State) (m : Nat) (x : MdSt) : (setMd s m x).dram = s.dram := rfl
@[simp] theorem setMd_dramChk (s : State) (m : Nat) (x : MdSt) : (setMd s m x).dramChk = s.dramChk := rfl
@[simp] theorem setMd_dramPoison (s : State) (m : Nat) (x : MdSt) : (setMd s m x).dramPoison = s.dramPoison := rfl
@[simp] theorem setMd_cache (s : State) (m : Nat) (x : MdSt) : (setMd s m x).cache = s.cache := rfl
@[simp] theorem setMd_wheels (s : State) (m : Nat) (x : MdSt) : (setMd s m x).wheels = s.wheels := rfl
@[simp] theorem setMd_links (s : State) (m : Nat) (x : MdSt) : (setMd s m x).links = s.links := rfl
@[simp] theorem setMd_routeQ (s : State) (m : Nat) (x : MdSt) : (setMd s m x).routeQ = s.routeQ := rfl
@[simp] theorem setMd_lost (s : State) (m : Nat) (x : MdSt) : (setMd s m x).lost = s.lost := rfl
@[simp] theorem setMd_rte (s : State) (m : Nat) (x : MdSt) : (setMd s m x).rte = s.rte := rfl
@[simp] theorem setMd_ft (s : State) (m : Nat) (x : MdSt) : (setMd s m x).ft = s.ft := rfl
@[simp] theorem setMd_msix (s : State) (m : Nat) (x : MdSt) : (setMd s m x).msix = s.msix := rfl
@[simp] theorem setMd_sramFilled (s : State) (m : Nat) (x : MdSt) : (setMd s m x).sramFilled = s.sramFilled := rfl
@[simp] theorem setMd_ctxs (s : State) (m : Nat) (x : MdSt) : (setMd s m x).ctxs = s.ctxs := rfl
@[simp] theorem setMd_xlt (s : State) (m : Nat) (x : MdSt) : (setMd s m x).xlt = s.xlt := rfl
@[simp] theorem setMd_faults (s : State) (m : Nat) (x : MdSt) : (setMd s m x).faults = s.faults := rfl
@[simp] theorem setMd_hostMem (s : State) (m : Nat) (x : MdSt) : (setMd s m x).hostMem = s.hostMem := rfl
@[simp] theorem setMd_queues (s : State) (m : Nat) (x : MdSt) : (setMd s m x).queues = s.queues := rfl
@[simp] theorem setMd_items (s : State) (m : Nat) (x : MdSt) : (setMd s m x).items = s.items := rfl
@[simp] theorem setMd_launches (s : State) (m : Nat) (x : MdSt) : (setMd s m x).launches = s.launches := rfl
@[simp] theorem setMd_vcs (s : State) (m : Nat) (x : MdSt) : (setMd s m x).vcs = s.vcs := rfl
@[simp] theorem setMd_sched (s : State) (m : Nat) (x : MdSt) : (setMd s m x).sched = s.sched := rfl
@[simp] theorem setMd_slots (s : State) (m : Nat) (x : MdSt) : (setMd s m x).slots = s.slots := rfl
@[simp] theorem setMd_models (s : State) (m : Nat) (x : MdSt) : (setMd s m x).models = s.models := rfl
@[simp] theorem setMd_adapters (s : State) (m : Nat) (x : MdSt) : (setMd s m x).adapters = s.adapters := rfl
@[simp] theorem setMd_resLatch (s : State) (m : Nat) (x : MdSt) : (setMd s m x).resLatch = s.resLatch := rfl
@[simp] theorem setMd_sigs (s : State) (m : Nat) (x : MdSt) : (setMd s m x).sigs = s.sigs := rfl
@[simp] theorem setMd_twin (s : State) (m : Nat) (x : MdSt) : (setMd s m x).twin = s.twin := rfl
@[simp] theorem setMd_sto (s : State) (m : Nat) (x : MdSt) : (setMd s m x).sto = s.sto := rfl
@[simp] theorem setMd_ras (s : State) (m : Nat) (x : MdSt) : (setMd s m x).ras = s.ras := rfl
@[simp] theorem setMd_aed (s : State) (m : Nat) (x : MdSt) : (setMd s m x).aed = s.aed := rfl
@[simp] theorem setMd_pwr (s : State) (m : Nat) (x : MdSt) : (setMd s m x).pwr = s.pwr := rfl
@[simp] theorem setMd_host (s : State) (m : Nat) (x : MdSt) : (setMd s m x).host = s.host := rfl
@[simp] theorem setMd_col (s : State) (m : Nat) (x : MdSt) : (setMd s m x).col = s.col := rfl
@[simp] theorem setMd_fence (s : State) (m : Nat) (x : MdSt) : (setMd s m x).fence = s.fence := rfl
@[simp] theorem setMd_stgHeld (s : State) (m : Nat) (x : MdSt) : (setMd s m x).stgHeld = s.stgHeld := rfl
@[simp] theorem setMd_stgQ (s : State) (m : Nat) (x : MdSt) : (setMd s m x).stgQ = s.stgQ := rfl
@[simp] theorem setMd_answers (s : State) (m : Nat) (x : MdSt) : (setMd s m x).answers = s.answers := rfl

/-! ### setCtx -/

@[simp] theorem setCtx_pending (s : State) (k : Nat) (x : CtxSt) : (setCtx s k x).pending = s.pending := rfl
@[simp] theorem setCtx_freshIdx (s : State) (k : Nat) (x : CtxSt) : (setCtx s k x).freshIdx = s.freshIdx := rfl
@[simp] theorem setCtx_outbox (s : State) (k : Nat) (x : CtxSt) : (setCtx s k x).outbox = s.outbox := rfl
@[simp] theorem setCtx_regs (s : State) (k : Nat) (x : CtxSt) : (setCtx s k x).regs = s.regs := rfl
@[simp] theorem setCtx_regB (s : State) (k : Nat) (x : CtxSt) : (setCtx s k x).regB = s.regB := rfl
@[simp] theorem setCtx_regC (s : State) (k : Nat) (x : CtxSt) : (setCtx s k x).regC = s.regC := rfl
@[simp] theorem setCtx_pages (s : State) (k : Nat) (x : CtxSt) : (setCtx s k x).pages = s.pages := rfl
@[simp] theorem setCtx_cores (s : State) (k : Nat) (x : CtxSt) : (setCtx s k x).cores = s.cores := rfl
@[simp] theorem setCtx_dsm (s : State) (k : Nat) (x : CtxSt) : (setCtx s k x).dsm = s.dsm := rfl
@[simp] theorem setCtx_dram (s : State) (k : Nat) (x : CtxSt) : (setCtx s k x).dram = s.dram := rfl
@[simp] theorem setCtx_dramChk (s : State) (k : Nat) (x : CtxSt) : (setCtx s k x).dramChk = s.dramChk := rfl
@[simp] theorem setCtx_dramPoison (s : State) (k : Nat) (x : CtxSt) : (setCtx s k x).dramPoison = s.dramPoison := rfl
@[simp] theorem setCtx_cache (s : State) (k : Nat) (x : CtxSt) : (setCtx s k x).cache = s.cache := rfl
@[simp] theorem setCtx_wheels (s : State) (k : Nat) (x : CtxSt) : (setCtx s k x).wheels = s.wheels := rfl
@[simp] theorem setCtx_links (s : State) (k : Nat) (x : CtxSt) : (setCtx s k x).links = s.links := rfl
@[simp] theorem setCtx_routeQ (s : State) (k : Nat) (x : CtxSt) : (setCtx s k x).routeQ = s.routeQ := rfl
@[simp] theorem setCtx_lost (s : State) (k : Nat) (x : CtxSt) : (setCtx s k x).lost = s.lost := rfl
@[simp] theorem setCtx_rte (s : State) (k : Nat) (x : CtxSt) : (setCtx s k x).rte = s.rte := rfl
@[simp] theorem setCtx_ft (s : State) (k : Nat) (x : CtxSt) : (setCtx s k x).ft = s.ft := rfl
@[simp] theorem setCtx_msix (s : State) (k : Nat) (x : CtxSt) : (setCtx s k x).msix = s.msix := rfl
@[simp] theorem setCtx_mds (s : State) (k : Nat) (x : CtxSt) : (setCtx s k x).mds = s.mds := rfl
@[simp] theorem setCtx_sramFilled (s : State) (k : Nat) (x : CtxSt) : (setCtx s k x).sramFilled = s.sramFilled := rfl
@[simp] theorem setCtx_xlt (s : State) (k : Nat) (x : CtxSt) : (setCtx s k x).xlt = s.xlt := rfl
@[simp] theorem setCtx_faults (s : State) (k : Nat) (x : CtxSt) : (setCtx s k x).faults = s.faults := rfl
@[simp] theorem setCtx_hostMem (s : State) (k : Nat) (x : CtxSt) : (setCtx s k x).hostMem = s.hostMem := rfl
@[simp] theorem setCtx_queues (s : State) (k : Nat) (x : CtxSt) : (setCtx s k x).queues = s.queues := rfl
@[simp] theorem setCtx_items (s : State) (k : Nat) (x : CtxSt) : (setCtx s k x).items = s.items := rfl
@[simp] theorem setCtx_launches (s : State) (k : Nat) (x : CtxSt) : (setCtx s k x).launches = s.launches := rfl
@[simp] theorem setCtx_vcs (s : State) (k : Nat) (x : CtxSt) : (setCtx s k x).vcs = s.vcs := rfl
@[simp] theorem setCtx_sched (s : State) (k : Nat) (x : CtxSt) : (setCtx s k x).sched = s.sched := rfl
@[simp] theorem setCtx_slots (s : State) (k : Nat) (x : CtxSt) : (setCtx s k x).slots = s.slots := rfl
@[simp] theorem setCtx_models (s : State) (k : Nat) (x : CtxSt) : (setCtx s k x).models = s.models := rfl
@[simp] theorem setCtx_adapters (s : State) (k : Nat) (x : CtxSt) : (setCtx s k x).adapters = s.adapters := rfl
@[simp] theorem setCtx_resLatch (s : State) (k : Nat) (x : CtxSt) : (setCtx s k x).resLatch = s.resLatch := rfl
@[simp] theorem setCtx_sigs (s : State) (k : Nat) (x : CtxSt) : (setCtx s k x).sigs = s.sigs := rfl
@[simp] theorem setCtx_twin (s : State) (k : Nat) (x : CtxSt) : (setCtx s k x).twin = s.twin := rfl
@[simp] theorem setCtx_sto (s : State) (k : Nat) (x : CtxSt) : (setCtx s k x).sto = s.sto := rfl
@[simp] theorem setCtx_ras (s : State) (k : Nat) (x : CtxSt) : (setCtx s k x).ras = s.ras := rfl
@[simp] theorem setCtx_aed (s : State) (k : Nat) (x : CtxSt) : (setCtx s k x).aed = s.aed := rfl
@[simp] theorem setCtx_pwr (s : State) (k : Nat) (x : CtxSt) : (setCtx s k x).pwr = s.pwr := rfl
@[simp] theorem setCtx_host (s : State) (k : Nat) (x : CtxSt) : (setCtx s k x).host = s.host := rfl
@[simp] theorem setCtx_col (s : State) (k : Nat) (x : CtxSt) : (setCtx s k x).col = s.col := rfl
@[simp] theorem setCtx_fence (s : State) (k : Nat) (x : CtxSt) : (setCtx s k x).fence = s.fence := rfl
@[simp] theorem setCtx_stgHeld (s : State) (k : Nat) (x : CtxSt) : (setCtx s k x).stgHeld = s.stgHeld := rfl
@[simp] theorem setCtx_stgQ (s : State) (k : Nat) (x : CtxSt) : (setCtx s k x).stgQ = s.stgQ := rfl
@[simp] theorem setCtx_answers (s : State) (k : Nat) (x : CtxSt) : (setCtx s k x).answers = s.answers := rfl

/-! ### setLink -/

@[simp] theorem setLink_pending (s : State) (l : Nat) (x : LinkSt) : (setLink s l x).pending = s.pending := rfl
@[simp] theorem setLink_freshIdx (s : State) (l : Nat) (x : LinkSt) : (setLink s l x).freshIdx = s.freshIdx := rfl
@[simp] theorem setLink_outbox (s : State) (l : Nat) (x : LinkSt) : (setLink s l x).outbox = s.outbox := rfl
@[simp] theorem setLink_regs (s : State) (l : Nat) (x : LinkSt) : (setLink s l x).regs = s.regs := rfl
@[simp] theorem setLink_regB (s : State) (l : Nat) (x : LinkSt) : (setLink s l x).regB = s.regB := rfl
@[simp] theorem setLink_regC (s : State) (l : Nat) (x : LinkSt) : (setLink s l x).regC = s.regC := rfl
@[simp] theorem setLink_pages (s : State) (l : Nat) (x : LinkSt) : (setLink s l x).pages = s.pages := rfl
@[simp] theorem setLink_cores (s : State) (l : Nat) (x : LinkSt) : (setLink s l x).cores = s.cores := rfl
@[simp] theorem setLink_dsm (s : State) (l : Nat) (x : LinkSt) : (setLink s l x).dsm = s.dsm := rfl
@[simp] theorem setLink_dram (s : State) (l : Nat) (x : LinkSt) : (setLink s l x).dram = s.dram := rfl
@[simp] theorem setLink_dramChk (s : State) (l : Nat) (x : LinkSt) : (setLink s l x).dramChk = s.dramChk := rfl
@[simp] theorem setLink_dramPoison (s : State) (l : Nat) (x : LinkSt) : (setLink s l x).dramPoison = s.dramPoison := rfl
@[simp] theorem setLink_cache (s : State) (l : Nat) (x : LinkSt) : (setLink s l x).cache = s.cache := rfl
@[simp] theorem setLink_wheels (s : State) (l : Nat) (x : LinkSt) : (setLink s l x).wheels = s.wheels := rfl
@[simp] theorem setLink_routeQ (s : State) (l : Nat) (x : LinkSt) : (setLink s l x).routeQ = s.routeQ := rfl
@[simp] theorem setLink_lost (s : State) (l : Nat) (x : LinkSt) : (setLink s l x).lost = s.lost := rfl
@[simp] theorem setLink_rte (s : State) (l : Nat) (x : LinkSt) : (setLink s l x).rte = s.rte := rfl
@[simp] theorem setLink_ft (s : State) (l : Nat) (x : LinkSt) : (setLink s l x).ft = s.ft := rfl
@[simp] theorem setLink_msix (s : State) (l : Nat) (x : LinkSt) : (setLink s l x).msix = s.msix := rfl
@[simp] theorem setLink_mds (s : State) (l : Nat) (x : LinkSt) : (setLink s l x).mds = s.mds := rfl
@[simp] theorem setLink_sramFilled (s : State) (l : Nat) (x : LinkSt) : (setLink s l x).sramFilled = s.sramFilled := rfl
@[simp] theorem setLink_ctxs (s : State) (l : Nat) (x : LinkSt) : (setLink s l x).ctxs = s.ctxs := rfl
@[simp] theorem setLink_xlt (s : State) (l : Nat) (x : LinkSt) : (setLink s l x).xlt = s.xlt := rfl
@[simp] theorem setLink_faults (s : State) (l : Nat) (x : LinkSt) : (setLink s l x).faults = s.faults := rfl
@[simp] theorem setLink_hostMem (s : State) (l : Nat) (x : LinkSt) : (setLink s l x).hostMem = s.hostMem := rfl
@[simp] theorem setLink_queues (s : State) (l : Nat) (x : LinkSt) : (setLink s l x).queues = s.queues := rfl
@[simp] theorem setLink_items (s : State) (l : Nat) (x : LinkSt) : (setLink s l x).items = s.items := rfl
@[simp] theorem setLink_launches (s : State) (l : Nat) (x : LinkSt) : (setLink s l x).launches = s.launches := rfl
@[simp] theorem setLink_vcs (s : State) (l : Nat) (x : LinkSt) : (setLink s l x).vcs = s.vcs := rfl
@[simp] theorem setLink_sched (s : State) (l : Nat) (x : LinkSt) : (setLink s l x).sched = s.sched := rfl
@[simp] theorem setLink_slots (s : State) (l : Nat) (x : LinkSt) : (setLink s l x).slots = s.slots := rfl
@[simp] theorem setLink_models (s : State) (l : Nat) (x : LinkSt) : (setLink s l x).models = s.models := rfl
@[simp] theorem setLink_adapters (s : State) (l : Nat) (x : LinkSt) : (setLink s l x).adapters = s.adapters := rfl
@[simp] theorem setLink_resLatch (s : State) (l : Nat) (x : LinkSt) : (setLink s l x).resLatch = s.resLatch := rfl
@[simp] theorem setLink_sigs (s : State) (l : Nat) (x : LinkSt) : (setLink s l x).sigs = s.sigs := rfl
@[simp] theorem setLink_twin (s : State) (l : Nat) (x : LinkSt) : (setLink s l x).twin = s.twin := rfl
@[simp] theorem setLink_sto (s : State) (l : Nat) (x : LinkSt) : (setLink s l x).sto = s.sto := rfl
@[simp] theorem setLink_ras (s : State) (l : Nat) (x : LinkSt) : (setLink s l x).ras = s.ras := rfl
@[simp] theorem setLink_aed (s : State) (l : Nat) (x : LinkSt) : (setLink s l x).aed = s.aed := rfl
@[simp] theorem setLink_pwr (s : State) (l : Nat) (x : LinkSt) : (setLink s l x).pwr = s.pwr := rfl
@[simp] theorem setLink_host (s : State) (l : Nat) (x : LinkSt) : (setLink s l x).host = s.host := rfl
@[simp] theorem setLink_col (s : State) (l : Nat) (x : LinkSt) : (setLink s l x).col = s.col := rfl
@[simp] theorem setLink_fence (s : State) (l : Nat) (x : LinkSt) : (setLink s l x).fence = s.fence := rfl
@[simp] theorem setLink_stgHeld (s : State) (l : Nat) (x : LinkSt) : (setLink s l x).stgHeld = s.stgHeld := rfl
@[simp] theorem setLink_stgQ (s : State) (l : Nat) (x : LinkSt) : (setLink s l x).stgQ = s.stgQ := rfl
@[simp] theorem setLink_answers (s : State) (l : Nat) (x : LinkSt) : (setLink s l x).answers = s.answers := rfl

/-! ### setQueue -/

@[simp] theorem setQueue_pending (s : State) (q : Nat) (x : QueueSt) : (setQueue s q x).pending = s.pending := rfl
@[simp] theorem setQueue_freshIdx (s : State) (q : Nat) (x : QueueSt) : (setQueue s q x).freshIdx = s.freshIdx := rfl
@[simp] theorem setQueue_outbox (s : State) (q : Nat) (x : QueueSt) : (setQueue s q x).outbox = s.outbox := rfl
@[simp] theorem setQueue_regs (s : State) (q : Nat) (x : QueueSt) : (setQueue s q x).regs = s.regs := rfl
@[simp] theorem setQueue_regB (s : State) (q : Nat) (x : QueueSt) : (setQueue s q x).regB = s.regB := rfl
@[simp] theorem setQueue_regC (s : State) (q : Nat) (x : QueueSt) : (setQueue s q x).regC = s.regC := rfl
@[simp] theorem setQueue_pages (s : State) (q : Nat) (x : QueueSt) : (setQueue s q x).pages = s.pages := rfl
@[simp] theorem setQueue_cores (s : State) (q : Nat) (x : QueueSt) : (setQueue s q x).cores = s.cores := rfl
@[simp] theorem setQueue_dsm (s : State) (q : Nat) (x : QueueSt) : (setQueue s q x).dsm = s.dsm := rfl
@[simp] theorem setQueue_dram (s : State) (q : Nat) (x : QueueSt) : (setQueue s q x).dram = s.dram := rfl
@[simp] theorem setQueue_dramChk (s : State) (q : Nat) (x : QueueSt) : (setQueue s q x).dramChk = s.dramChk := rfl
@[simp] theorem setQueue_dramPoison (s : State) (q : Nat) (x : QueueSt) : (setQueue s q x).dramPoison = s.dramPoison := rfl
@[simp] theorem setQueue_cache (s : State) (q : Nat) (x : QueueSt) : (setQueue s q x).cache = s.cache := rfl
@[simp] theorem setQueue_wheels (s : State) (q : Nat) (x : QueueSt) : (setQueue s q x).wheels = s.wheels := rfl
@[simp] theorem setQueue_links (s : State) (q : Nat) (x : QueueSt) : (setQueue s q x).links = s.links := rfl
@[simp] theorem setQueue_routeQ (s : State) (q : Nat) (x : QueueSt) : (setQueue s q x).routeQ = s.routeQ := rfl
@[simp] theorem setQueue_lost (s : State) (q : Nat) (x : QueueSt) : (setQueue s q x).lost = s.lost := rfl
@[simp] theorem setQueue_rte (s : State) (q : Nat) (x : QueueSt) : (setQueue s q x).rte = s.rte := rfl
@[simp] theorem setQueue_ft (s : State) (q : Nat) (x : QueueSt) : (setQueue s q x).ft = s.ft := rfl
@[simp] theorem setQueue_msix (s : State) (q : Nat) (x : QueueSt) : (setQueue s q x).msix = s.msix := rfl
@[simp] theorem setQueue_mds (s : State) (q : Nat) (x : QueueSt) : (setQueue s q x).mds = s.mds := rfl
@[simp] theorem setQueue_sramFilled (s : State) (q : Nat) (x : QueueSt) : (setQueue s q x).sramFilled = s.sramFilled := rfl
@[simp] theorem setQueue_ctxs (s : State) (q : Nat) (x : QueueSt) : (setQueue s q x).ctxs = s.ctxs := rfl
@[simp] theorem setQueue_xlt (s : State) (q : Nat) (x : QueueSt) : (setQueue s q x).xlt = s.xlt := rfl
@[simp] theorem setQueue_faults (s : State) (q : Nat) (x : QueueSt) : (setQueue s q x).faults = s.faults := rfl
@[simp] theorem setQueue_hostMem (s : State) (q : Nat) (x : QueueSt) : (setQueue s q x).hostMem = s.hostMem := rfl
@[simp] theorem setQueue_items (s : State) (q : Nat) (x : QueueSt) : (setQueue s q x).items = s.items := rfl
@[simp] theorem setQueue_launches (s : State) (q : Nat) (x : QueueSt) : (setQueue s q x).launches = s.launches := rfl
@[simp] theorem setQueue_vcs (s : State) (q : Nat) (x : QueueSt) : (setQueue s q x).vcs = s.vcs := rfl
@[simp] theorem setQueue_sched (s : State) (q : Nat) (x : QueueSt) : (setQueue s q x).sched = s.sched := rfl
@[simp] theorem setQueue_slots (s : State) (q : Nat) (x : QueueSt) : (setQueue s q x).slots = s.slots := rfl
@[simp] theorem setQueue_models (s : State) (q : Nat) (x : QueueSt) : (setQueue s q x).models = s.models := rfl
@[simp] theorem setQueue_adapters (s : State) (q : Nat) (x : QueueSt) : (setQueue s q x).adapters = s.adapters := rfl
@[simp] theorem setQueue_resLatch (s : State) (q : Nat) (x : QueueSt) : (setQueue s q x).resLatch = s.resLatch := rfl
@[simp] theorem setQueue_sigs (s : State) (q : Nat) (x : QueueSt) : (setQueue s q x).sigs = s.sigs := rfl
@[simp] theorem setQueue_twin (s : State) (q : Nat) (x : QueueSt) : (setQueue s q x).twin = s.twin := rfl
@[simp] theorem setQueue_sto (s : State) (q : Nat) (x : QueueSt) : (setQueue s q x).sto = s.sto := rfl
@[simp] theorem setQueue_ras (s : State) (q : Nat) (x : QueueSt) : (setQueue s q x).ras = s.ras := rfl
@[simp] theorem setQueue_aed (s : State) (q : Nat) (x : QueueSt) : (setQueue s q x).aed = s.aed := rfl
@[simp] theorem setQueue_pwr (s : State) (q : Nat) (x : QueueSt) : (setQueue s q x).pwr = s.pwr := rfl
@[simp] theorem setQueue_host (s : State) (q : Nat) (x : QueueSt) : (setQueue s q x).host = s.host := rfl
@[simp] theorem setQueue_col (s : State) (q : Nat) (x : QueueSt) : (setQueue s q x).col = s.col := rfl
@[simp] theorem setQueue_fence (s : State) (q : Nat) (x : QueueSt) : (setQueue s q x).fence = s.fence := rfl
@[simp] theorem setQueue_stgHeld (s : State) (q : Nat) (x : QueueSt) : (setQueue s q x).stgHeld = s.stgHeld := rfl
@[simp] theorem setQueue_stgQ (s : State) (q : Nat) (x : QueueSt) : (setQueue s q x).stgQ = s.stgQ := rfl
@[simp] theorem setQueue_answers (s : State) (q : Nat) (x : QueueSt) : (setQueue s q x).answers = s.answers := rfl

/-! ### setSlot -/

@[simp] theorem setSlot_pending (s : State) (n : Nat) (x : SlotSt) : (setSlot s n x).pending = s.pending := rfl
@[simp] theorem setSlot_freshIdx (s : State) (n : Nat) (x : SlotSt) : (setSlot s n x).freshIdx = s.freshIdx := rfl
@[simp] theorem setSlot_outbox (s : State) (n : Nat) (x : SlotSt) : (setSlot s n x).outbox = s.outbox := rfl
@[simp] theorem setSlot_regs (s : State) (n : Nat) (x : SlotSt) : (setSlot s n x).regs = s.regs := rfl
@[simp] theorem setSlot_regB (s : State) (n : Nat) (x : SlotSt) : (setSlot s n x).regB = s.regB := rfl
@[simp] theorem setSlot_regC (s : State) (n : Nat) (x : SlotSt) : (setSlot s n x).regC = s.regC := rfl
@[simp] theorem setSlot_pages (s : State) (n : Nat) (x : SlotSt) : (setSlot s n x).pages = s.pages := rfl
@[simp] theorem setSlot_cores (s : State) (n : Nat) (x : SlotSt) : (setSlot s n x).cores = s.cores := rfl
@[simp] theorem setSlot_dsm (s : State) (n : Nat) (x : SlotSt) : (setSlot s n x).dsm = s.dsm := rfl
@[simp] theorem setSlot_dram (s : State) (n : Nat) (x : SlotSt) : (setSlot s n x).dram = s.dram := rfl
@[simp] theorem setSlot_dramChk (s : State) (n : Nat) (x : SlotSt) : (setSlot s n x).dramChk = s.dramChk := rfl
@[simp] theorem setSlot_dramPoison (s : State) (n : Nat) (x : SlotSt) : (setSlot s n x).dramPoison = s.dramPoison := rfl
@[simp] theorem setSlot_cache (s : State) (n : Nat) (x : SlotSt) : (setSlot s n x).cache = s.cache := rfl
@[simp] theorem setSlot_wheels (s : State) (n : Nat) (x : SlotSt) : (setSlot s n x).wheels = s.wheels := rfl
@[simp] theorem setSlot_links (s : State) (n : Nat) (x : SlotSt) : (setSlot s n x).links = s.links := rfl
@[simp] theorem setSlot_routeQ (s : State) (n : Nat) (x : SlotSt) : (setSlot s n x).routeQ = s.routeQ := rfl
@[simp] theorem setSlot_lost (s : State) (n : Nat) (x : SlotSt) : (setSlot s n x).lost = s.lost := rfl
@[simp] theorem setSlot_rte (s : State) (n : Nat) (x : SlotSt) : (setSlot s n x).rte = s.rte := rfl
@[simp] theorem setSlot_ft (s : State) (n : Nat) (x : SlotSt) : (setSlot s n x).ft = s.ft := rfl
@[simp] theorem setSlot_msix (s : State) (n : Nat) (x : SlotSt) : (setSlot s n x).msix = s.msix := rfl
@[simp] theorem setSlot_mds (s : State) (n : Nat) (x : SlotSt) : (setSlot s n x).mds = s.mds := rfl
@[simp] theorem setSlot_sramFilled (s : State) (n : Nat) (x : SlotSt) : (setSlot s n x).sramFilled = s.sramFilled := rfl
@[simp] theorem setSlot_ctxs (s : State) (n : Nat) (x : SlotSt) : (setSlot s n x).ctxs = s.ctxs := rfl
@[simp] theorem setSlot_xlt (s : State) (n : Nat) (x : SlotSt) : (setSlot s n x).xlt = s.xlt := rfl
@[simp] theorem setSlot_faults (s : State) (n : Nat) (x : SlotSt) : (setSlot s n x).faults = s.faults := rfl
@[simp] theorem setSlot_hostMem (s : State) (n : Nat) (x : SlotSt) : (setSlot s n x).hostMem = s.hostMem := rfl
@[simp] theorem setSlot_queues (s : State) (n : Nat) (x : SlotSt) : (setSlot s n x).queues = s.queues := rfl
@[simp] theorem setSlot_items (s : State) (n : Nat) (x : SlotSt) : (setSlot s n x).items = s.items := rfl
@[simp] theorem setSlot_launches (s : State) (n : Nat) (x : SlotSt) : (setSlot s n x).launches = s.launches := rfl
@[simp] theorem setSlot_vcs (s : State) (n : Nat) (x : SlotSt) : (setSlot s n x).vcs = s.vcs := rfl
@[simp] theorem setSlot_sched (s : State) (n : Nat) (x : SlotSt) : (setSlot s n x).sched = s.sched := rfl
@[simp] theorem setSlot_models (s : State) (n : Nat) (x : SlotSt) : (setSlot s n x).models = s.models := rfl
@[simp] theorem setSlot_adapters (s : State) (n : Nat) (x : SlotSt) : (setSlot s n x).adapters = s.adapters := rfl
@[simp] theorem setSlot_resLatch (s : State) (n : Nat) (x : SlotSt) : (setSlot s n x).resLatch = s.resLatch := rfl
@[simp] theorem setSlot_sigs (s : State) (n : Nat) (x : SlotSt) : (setSlot s n x).sigs = s.sigs := rfl
@[simp] theorem setSlot_twin (s : State) (n : Nat) (x : SlotSt) : (setSlot s n x).twin = s.twin := rfl
@[simp] theorem setSlot_sto (s : State) (n : Nat) (x : SlotSt) : (setSlot s n x).sto = s.sto := rfl
@[simp] theorem setSlot_ras (s : State) (n : Nat) (x : SlotSt) : (setSlot s n x).ras = s.ras := rfl
@[simp] theorem setSlot_aed (s : State) (n : Nat) (x : SlotSt) : (setSlot s n x).aed = s.aed := rfl
@[simp] theorem setSlot_pwr (s : State) (n : Nat) (x : SlotSt) : (setSlot s n x).pwr = s.pwr := rfl
@[simp] theorem setSlot_host (s : State) (n : Nat) (x : SlotSt) : (setSlot s n x).host = s.host := rfl
@[simp] theorem setSlot_col (s : State) (n : Nat) (x : SlotSt) : (setSlot s n x).col = s.col := rfl
@[simp] theorem setSlot_fence (s : State) (n : Nat) (x : SlotSt) : (setSlot s n x).fence = s.fence := rfl
@[simp] theorem setSlot_stgHeld (s : State) (n : Nat) (x : SlotSt) : (setSlot s n x).stgHeld = s.stgHeld := rfl
@[simp] theorem setSlot_stgQ (s : State) (n : Nat) (x : SlotSt) : (setSlot s n x).stgQ = s.stgQ := rfl
@[simp] theorem setSlot_answers (s : State) (n : Nat) (x : SlotSt) : (setSlot s n x).answers = s.answers := rfl

/-! ### setVc -/

@[simp] theorem setVc_pending (s : State) (k v : Nat) (x : VcSt) : (setVc s k v x).pending = s.pending := rfl
@[simp] theorem setVc_freshIdx (s : State) (k v : Nat) (x : VcSt) : (setVc s k v x).freshIdx = s.freshIdx := rfl
@[simp] theorem setVc_outbox (s : State) (k v : Nat) (x : VcSt) : (setVc s k v x).outbox = s.outbox := rfl
@[simp] theorem setVc_regs (s : State) (k v : Nat) (x : VcSt) : (setVc s k v x).regs = s.regs := rfl
@[simp] theorem setVc_regB (s : State) (k v : Nat) (x : VcSt) : (setVc s k v x).regB = s.regB := rfl
@[simp] theorem setVc_regC (s : State) (k v : Nat) (x : VcSt) : (setVc s k v x).regC = s.regC := rfl
@[simp] theorem setVc_pages (s : State) (k v : Nat) (x : VcSt) : (setVc s k v x).pages = s.pages := rfl
@[simp] theorem setVc_cores (s : State) (k v : Nat) (x : VcSt) : (setVc s k v x).cores = s.cores := rfl
@[simp] theorem setVc_dsm (s : State) (k v : Nat) (x : VcSt) : (setVc s k v x).dsm = s.dsm := rfl
@[simp] theorem setVc_dram (s : State) (k v : Nat) (x : VcSt) : (setVc s k v x).dram = s.dram := rfl
@[simp] theorem setVc_dramChk (s : State) (k v : Nat) (x : VcSt) : (setVc s k v x).dramChk = s.dramChk := rfl
@[simp] theorem setVc_dramPoison (s : State) (k v : Nat) (x : VcSt) : (setVc s k v x).dramPoison = s.dramPoison := rfl
@[simp] theorem setVc_cache (s : State) (k v : Nat) (x : VcSt) : (setVc s k v x).cache = s.cache := rfl
@[simp] theorem setVc_wheels (s : State) (k v : Nat) (x : VcSt) : (setVc s k v x).wheels = s.wheels := rfl
@[simp] theorem setVc_links (s : State) (k v : Nat) (x : VcSt) : (setVc s k v x).links = s.links := rfl
@[simp] theorem setVc_routeQ (s : State) (k v : Nat) (x : VcSt) : (setVc s k v x).routeQ = s.routeQ := rfl
@[simp] theorem setVc_lost (s : State) (k v : Nat) (x : VcSt) : (setVc s k v x).lost = s.lost := rfl
@[simp] theorem setVc_rte (s : State) (k v : Nat) (x : VcSt) : (setVc s k v x).rte = s.rte := rfl
@[simp] theorem setVc_ft (s : State) (k v : Nat) (x : VcSt) : (setVc s k v x).ft = s.ft := rfl
@[simp] theorem setVc_msix (s : State) (k v : Nat) (x : VcSt) : (setVc s k v x).msix = s.msix := rfl
@[simp] theorem setVc_mds (s : State) (k v : Nat) (x : VcSt) : (setVc s k v x).mds = s.mds := rfl
@[simp] theorem setVc_sramFilled (s : State) (k v : Nat) (x : VcSt) : (setVc s k v x).sramFilled = s.sramFilled := rfl
@[simp] theorem setVc_ctxs (s : State) (k v : Nat) (x : VcSt) : (setVc s k v x).ctxs = s.ctxs := rfl
@[simp] theorem setVc_xlt (s : State) (k v : Nat) (x : VcSt) : (setVc s k v x).xlt = s.xlt := rfl
@[simp] theorem setVc_faults (s : State) (k v : Nat) (x : VcSt) : (setVc s k v x).faults = s.faults := rfl
@[simp] theorem setVc_hostMem (s : State) (k v : Nat) (x : VcSt) : (setVc s k v x).hostMem = s.hostMem := rfl
@[simp] theorem setVc_queues (s : State) (k v : Nat) (x : VcSt) : (setVc s k v x).queues = s.queues := rfl
@[simp] theorem setVc_items (s : State) (k v : Nat) (x : VcSt) : (setVc s k v x).items = s.items := rfl
@[simp] theorem setVc_launches (s : State) (k v : Nat) (x : VcSt) : (setVc s k v x).launches = s.launches := rfl
@[simp] theorem setVc_sched (s : State) (k v : Nat) (x : VcSt) : (setVc s k v x).sched = s.sched := rfl
@[simp] theorem setVc_slots (s : State) (k v : Nat) (x : VcSt) : (setVc s k v x).slots = s.slots := rfl
@[simp] theorem setVc_models (s : State) (k v : Nat) (x : VcSt) : (setVc s k v x).models = s.models := rfl
@[simp] theorem setVc_adapters (s : State) (k v : Nat) (x : VcSt) : (setVc s k v x).adapters = s.adapters := rfl
@[simp] theorem setVc_resLatch (s : State) (k v : Nat) (x : VcSt) : (setVc s k v x).resLatch = s.resLatch := rfl
@[simp] theorem setVc_sigs (s : State) (k v : Nat) (x : VcSt) : (setVc s k v x).sigs = s.sigs := rfl
@[simp] theorem setVc_twin (s : State) (k v : Nat) (x : VcSt) : (setVc s k v x).twin = s.twin := rfl
@[simp] theorem setVc_sto (s : State) (k v : Nat) (x : VcSt) : (setVc s k v x).sto = s.sto := rfl
@[simp] theorem setVc_ras (s : State) (k v : Nat) (x : VcSt) : (setVc s k v x).ras = s.ras := rfl
@[simp] theorem setVc_aed (s : State) (k v : Nat) (x : VcSt) : (setVc s k v x).aed = s.aed := rfl
@[simp] theorem setVc_pwr (s : State) (k v : Nat) (x : VcSt) : (setVc s k v x).pwr = s.pwr := rfl
@[simp] theorem setVc_host (s : State) (k v : Nat) (x : VcSt) : (setVc s k v x).host = s.host := rfl
@[simp] theorem setVc_col (s : State) (k v : Nat) (x : VcSt) : (setVc s k v x).col = s.col := rfl
@[simp] theorem setVc_fence (s : State) (k v : Nat) (x : VcSt) : (setVc s k v x).fence = s.fence := rfl
@[simp] theorem setVc_stgHeld (s : State) (k v : Nat) (x : VcSt) : (setVc s k v x).stgHeld = s.stgHeld := rfl
@[simp] theorem setVc_stgQ (s : State) (k v : Nat) (x : VcSt) : (setVc s k v x).stgQ = s.stgQ := rfl
@[simp] theorem setVc_answers (s : State) (k v : Nat) (x : VcSt) : (setVc s k v x).answers = s.answers := rfl

/-! ### setSched -/

@[simp] theorem setSched_pending (s : State) (cd : Nat) (x : SchedSt) : (setSched s cd x).pending = s.pending := rfl
@[simp] theorem setSched_freshIdx (s : State) (cd : Nat) (x : SchedSt) : (setSched s cd x).freshIdx = s.freshIdx := rfl
@[simp] theorem setSched_outbox (s : State) (cd : Nat) (x : SchedSt) : (setSched s cd x).outbox = s.outbox := rfl
@[simp] theorem setSched_regs (s : State) (cd : Nat) (x : SchedSt) : (setSched s cd x).regs = s.regs := rfl
@[simp] theorem setSched_regB (s : State) (cd : Nat) (x : SchedSt) : (setSched s cd x).regB = s.regB := rfl
@[simp] theorem setSched_regC (s : State) (cd : Nat) (x : SchedSt) : (setSched s cd x).regC = s.regC := rfl
@[simp] theorem setSched_pages (s : State) (cd : Nat) (x : SchedSt) : (setSched s cd x).pages = s.pages := rfl
@[simp] theorem setSched_cores (s : State) (cd : Nat) (x : SchedSt) : (setSched s cd x).cores = s.cores := rfl
@[simp] theorem setSched_dsm (s : State) (cd : Nat) (x : SchedSt) : (setSched s cd x).dsm = s.dsm := rfl
@[simp] theorem setSched_dram (s : State) (cd : Nat) (x : SchedSt) : (setSched s cd x).dram = s.dram := rfl
@[simp] theorem setSched_dramChk (s : State) (cd : Nat) (x : SchedSt) : (setSched s cd x).dramChk = s.dramChk := rfl
@[simp] theorem setSched_dramPoison (s : State) (cd : Nat) (x : SchedSt) : (setSched s cd x).dramPoison = s.dramPoison := rfl
@[simp] theorem setSched_cache (s : State) (cd : Nat) (x : SchedSt) : (setSched s cd x).cache = s.cache := rfl
@[simp] theorem setSched_wheels (s : State) (cd : Nat) (x : SchedSt) : (setSched s cd x).wheels = s.wheels := rfl
@[simp] theorem setSched_links (s : State) (cd : Nat) (x : SchedSt) : (setSched s cd x).links = s.links := rfl
@[simp] theorem setSched_routeQ (s : State) (cd : Nat) (x : SchedSt) : (setSched s cd x).routeQ = s.routeQ := rfl
@[simp] theorem setSched_lost (s : State) (cd : Nat) (x : SchedSt) : (setSched s cd x).lost = s.lost := rfl
@[simp] theorem setSched_rte (s : State) (cd : Nat) (x : SchedSt) : (setSched s cd x).rte = s.rte := rfl
@[simp] theorem setSched_ft (s : State) (cd : Nat) (x : SchedSt) : (setSched s cd x).ft = s.ft := rfl
@[simp] theorem setSched_msix (s : State) (cd : Nat) (x : SchedSt) : (setSched s cd x).msix = s.msix := rfl
@[simp] theorem setSched_mds (s : State) (cd : Nat) (x : SchedSt) : (setSched s cd x).mds = s.mds := rfl
@[simp] theorem setSched_sramFilled (s : State) (cd : Nat) (x : SchedSt) : (setSched s cd x).sramFilled = s.sramFilled := rfl
@[simp] theorem setSched_ctxs (s : State) (cd : Nat) (x : SchedSt) : (setSched s cd x).ctxs = s.ctxs := rfl
@[simp] theorem setSched_xlt (s : State) (cd : Nat) (x : SchedSt) : (setSched s cd x).xlt = s.xlt := rfl
@[simp] theorem setSched_faults (s : State) (cd : Nat) (x : SchedSt) : (setSched s cd x).faults = s.faults := rfl
@[simp] theorem setSched_hostMem (s : State) (cd : Nat) (x : SchedSt) : (setSched s cd x).hostMem = s.hostMem := rfl
@[simp] theorem setSched_queues (s : State) (cd : Nat) (x : SchedSt) : (setSched s cd x).queues = s.queues := rfl
@[simp] theorem setSched_items (s : State) (cd : Nat) (x : SchedSt) : (setSched s cd x).items = s.items := rfl
@[simp] theorem setSched_launches (s : State) (cd : Nat) (x : SchedSt) : (setSched s cd x).launches = s.launches := rfl
@[simp] theorem setSched_vcs (s : State) (cd : Nat) (x : SchedSt) : (setSched s cd x).vcs = s.vcs := rfl
@[simp] theorem setSched_slots (s : State) (cd : Nat) (x : SchedSt) : (setSched s cd x).slots = s.slots := rfl
@[simp] theorem setSched_models (s : State) (cd : Nat) (x : SchedSt) : (setSched s cd x).models = s.models := rfl
@[simp] theorem setSched_adapters (s : State) (cd : Nat) (x : SchedSt) : (setSched s cd x).adapters = s.adapters := rfl
@[simp] theorem setSched_resLatch (s : State) (cd : Nat) (x : SchedSt) : (setSched s cd x).resLatch = s.resLatch := rfl
@[simp] theorem setSched_sigs (s : State) (cd : Nat) (x : SchedSt) : (setSched s cd x).sigs = s.sigs := rfl
@[simp] theorem setSched_twin (s : State) (cd : Nat) (x : SchedSt) : (setSched s cd x).twin = s.twin := rfl
@[simp] theorem setSched_sto (s : State) (cd : Nat) (x : SchedSt) : (setSched s cd x).sto = s.sto := rfl
@[simp] theorem setSched_ras (s : State) (cd : Nat) (x : SchedSt) : (setSched s cd x).ras = s.ras := rfl
@[simp] theorem setSched_aed (s : State) (cd : Nat) (x : SchedSt) : (setSched s cd x).aed = s.aed := rfl
@[simp] theorem setSched_pwr (s : State) (cd : Nat) (x : SchedSt) : (setSched s cd x).pwr = s.pwr := rfl
@[simp] theorem setSched_host (s : State) (cd : Nat) (x : SchedSt) : (setSched s cd x).host = s.host := rfl
@[simp] theorem setSched_col (s : State) (cd : Nat) (x : SchedSt) : (setSched s cd x).col = s.col := rfl
@[simp] theorem setSched_fence (s : State) (cd : Nat) (x : SchedSt) : (setSched s cd x).fence = s.fence := rfl
@[simp] theorem setSched_stgHeld (s : State) (cd : Nat) (x : SchedSt) : (setSched s cd x).stgHeld = s.stgHeld := rfl
@[simp] theorem setSched_stgQ (s : State) (cd : Nat) (x : SchedSt) : (setSched s cd x).stgQ = s.stgQ := rfl
@[simp] theorem setSched_answers (s : State) (cd : Nat) (x : SchedSt) : (setSched s cd x).answers = s.answers := rfl

/-! ### setDsm -/

@[simp] theorem setDsm_pending (s : State) (cd : Nat) (m : Sram) : (setDsm s cd m).pending = s.pending := rfl
@[simp] theorem setDsm_freshIdx (s : State) (cd : Nat) (m : Sram) : (setDsm s cd m).freshIdx = s.freshIdx := rfl
@[simp] theorem setDsm_outbox (s : State) (cd : Nat) (m : Sram) : (setDsm s cd m).outbox = s.outbox := rfl
@[simp] theorem setDsm_regs (s : State) (cd : Nat) (m : Sram) : (setDsm s cd m).regs = s.regs := rfl
@[simp] theorem setDsm_regB (s : State) (cd : Nat) (m : Sram) : (setDsm s cd m).regB = s.regB := rfl
@[simp] theorem setDsm_regC (s : State) (cd : Nat) (m : Sram) : (setDsm s cd m).regC = s.regC := rfl
@[simp] theorem setDsm_pages (s : State) (cd : Nat) (m : Sram) : (setDsm s cd m).pages = s.pages := rfl
@[simp] theorem setDsm_cores (s : State) (cd : Nat) (m : Sram) : (setDsm s cd m).cores = s.cores := rfl
@[simp] theorem setDsm_dram (s : State) (cd : Nat) (m : Sram) : (setDsm s cd m).dram = s.dram := rfl
@[simp] theorem setDsm_dramChk (s : State) (cd : Nat) (m : Sram) : (setDsm s cd m).dramChk = s.dramChk := rfl
@[simp] theorem setDsm_dramPoison (s : State) (cd : Nat) (m : Sram) : (setDsm s cd m).dramPoison = s.dramPoison := rfl
@[simp] theorem setDsm_cache (s : State) (cd : Nat) (m : Sram) : (setDsm s cd m).cache = s.cache := rfl
@[simp] theorem setDsm_wheels (s : State) (cd : Nat) (m : Sram) : (setDsm s cd m).wheels = s.wheels := rfl
@[simp] theorem setDsm_links (s : State) (cd : Nat) (m : Sram) : (setDsm s cd m).links = s.links := rfl
@[simp] theorem setDsm_routeQ (s : State) (cd : Nat) (m : Sram) : (setDsm s cd m).routeQ = s.routeQ := rfl
@[simp] theorem setDsm_lost (s : State) (cd : Nat) (m : Sram) : (setDsm s cd m).lost = s.lost := rfl
@[simp] theorem setDsm_rte (s : State) (cd : Nat) (m : Sram) : (setDsm s cd m).rte = s.rte := rfl
@[simp] theorem setDsm_ft (s : State) (cd : Nat) (m : Sram) : (setDsm s cd m).ft = s.ft := rfl
@[simp] theorem setDsm_msix (s : State) (cd : Nat) (m : Sram) : (setDsm s cd m).msix = s.msix := rfl
@[simp] theorem setDsm_mds (s : State) (cd : Nat) (m : Sram) : (setDsm s cd m).mds = s.mds := rfl
@[simp] theorem setDsm_sramFilled (s : State) (cd : Nat) (m : Sram) : (setDsm s cd m).sramFilled = s.sramFilled := rfl
@[simp] theorem setDsm_ctxs (s : State) (cd : Nat) (m : Sram) : (setDsm s cd m).ctxs = s.ctxs := rfl
@[simp] theorem setDsm_xlt (s : State) (cd : Nat) (m : Sram) : (setDsm s cd m).xlt = s.xlt := rfl
@[simp] theorem setDsm_faults (s : State) (cd : Nat) (m : Sram) : (setDsm s cd m).faults = s.faults := rfl
@[simp] theorem setDsm_hostMem (s : State) (cd : Nat) (m : Sram) : (setDsm s cd m).hostMem = s.hostMem := rfl
@[simp] theorem setDsm_queues (s : State) (cd : Nat) (m : Sram) : (setDsm s cd m).queues = s.queues := rfl
@[simp] theorem setDsm_items (s : State) (cd : Nat) (m : Sram) : (setDsm s cd m).items = s.items := rfl
@[simp] theorem setDsm_launches (s : State) (cd : Nat) (m : Sram) : (setDsm s cd m).launches = s.launches := rfl
@[simp] theorem setDsm_vcs (s : State) (cd : Nat) (m : Sram) : (setDsm s cd m).vcs = s.vcs := rfl
@[simp] theorem setDsm_sched (s : State) (cd : Nat) (m : Sram) : (setDsm s cd m).sched = s.sched := rfl
@[simp] theorem setDsm_slots (s : State) (cd : Nat) (m : Sram) : (setDsm s cd m).slots = s.slots := rfl
@[simp] theorem setDsm_models (s : State) (cd : Nat) (m : Sram) : (setDsm s cd m).models = s.models := rfl
@[simp] theorem setDsm_adapters (s : State) (cd : Nat) (m : Sram) : (setDsm s cd m).adapters = s.adapters := rfl
@[simp] theorem setDsm_resLatch (s : State) (cd : Nat) (m : Sram) : (setDsm s cd m).resLatch = s.resLatch := rfl
@[simp] theorem setDsm_sigs (s : State) (cd : Nat) (m : Sram) : (setDsm s cd m).sigs = s.sigs := rfl
@[simp] theorem setDsm_twin (s : State) (cd : Nat) (m : Sram) : (setDsm s cd m).twin = s.twin := rfl
@[simp] theorem setDsm_sto (s : State) (cd : Nat) (m : Sram) : (setDsm s cd m).sto = s.sto := rfl
@[simp] theorem setDsm_ras (s : State) (cd : Nat) (m : Sram) : (setDsm s cd m).ras = s.ras := rfl
@[simp] theorem setDsm_aed (s : State) (cd : Nat) (m : Sram) : (setDsm s cd m).aed = s.aed := rfl
@[simp] theorem setDsm_pwr (s : State) (cd : Nat) (m : Sram) : (setDsm s cd m).pwr = s.pwr := rfl
@[simp] theorem setDsm_host (s : State) (cd : Nat) (m : Sram) : (setDsm s cd m).host = s.host := rfl
@[simp] theorem setDsm_col (s : State) (cd : Nat) (m : Sram) : (setDsm s cd m).col = s.col := rfl
@[simp] theorem setDsm_fence (s : State) (cd : Nat) (m : Sram) : (setDsm s cd m).fence = s.fence := rfl
@[simp] theorem setDsm_stgHeld (s : State) (cd : Nat) (m : Sram) : (setDsm s cd m).stgHeld = s.stgHeld := rfl
@[simp] theorem setDsm_stgQ (s : State) (cd : Nat) (m : Sram) : (setDsm s cd m).stgQ = s.stgQ := rfl
@[simp] theorem setDsm_answers (s : State) (cd : Nat) (m : Sram) : (setDsm s cd m).answers = s.answers := rfl

/-! ### setWheel -/

@[simp] theorem setWheel_pending (s : State) (die : Nat) (w : WheelSt) : (setWheel s die w).pending = s.pending := rfl
@[simp] theorem setWheel_freshIdx (s : State) (die : Nat) (w : WheelSt) : (setWheel s die w).freshIdx = s.freshIdx := rfl
@[simp] theorem setWheel_outbox (s : State) (die : Nat) (w : WheelSt) : (setWheel s die w).outbox = s.outbox := rfl
@[simp] theorem setWheel_regs (s : State) (die : Nat) (w : WheelSt) : (setWheel s die w).regs = s.regs := rfl
@[simp] theorem setWheel_regB (s : State) (die : Nat) (w : WheelSt) : (setWheel s die w).regB = s.regB := rfl
@[simp] theorem setWheel_regC (s : State) (die : Nat) (w : WheelSt) : (setWheel s die w).regC = s.regC := rfl
@[simp] theorem setWheel_pages (s : State) (die : Nat) (w : WheelSt) : (setWheel s die w).pages = s.pages := rfl
@[simp] theorem setWheel_cores (s : State) (die : Nat) (w : WheelSt) : (setWheel s die w).cores = s.cores := rfl
@[simp] theorem setWheel_dsm (s : State) (die : Nat) (w : WheelSt) : (setWheel s die w).dsm = s.dsm := rfl
@[simp] theorem setWheel_dram (s : State) (die : Nat) (w : WheelSt) : (setWheel s die w).dram = s.dram := rfl
@[simp] theorem setWheel_dramChk (s : State) (die : Nat) (w : WheelSt) : (setWheel s die w).dramChk = s.dramChk := rfl
@[simp] theorem setWheel_dramPoison (s : State) (die : Nat) (w : WheelSt) : (setWheel s die w).dramPoison = s.dramPoison := rfl
@[simp] theorem setWheel_cache (s : State) (die : Nat) (w : WheelSt) : (setWheel s die w).cache = s.cache := rfl
@[simp] theorem setWheel_links (s : State) (die : Nat) (w : WheelSt) : (setWheel s die w).links = s.links := rfl
@[simp] theorem setWheel_routeQ (s : State) (die : Nat) (w : WheelSt) : (setWheel s die w).routeQ = s.routeQ := rfl
@[simp] theorem setWheel_lost (s : State) (die : Nat) (w : WheelSt) : (setWheel s die w).lost = s.lost := rfl
@[simp] theorem setWheel_rte (s : State) (die : Nat) (w : WheelSt) : (setWheel s die w).rte = s.rte := rfl
@[simp] theorem setWheel_ft (s : State) (die : Nat) (w : WheelSt) : (setWheel s die w).ft = s.ft := rfl
@[simp] theorem setWheel_msix (s : State) (die : Nat) (w : WheelSt) : (setWheel s die w).msix = s.msix := rfl
@[simp] theorem setWheel_mds (s : State) (die : Nat) (w : WheelSt) : (setWheel s die w).mds = s.mds := rfl
@[simp] theorem setWheel_sramFilled (s : State) (die : Nat) (w : WheelSt) : (setWheel s die w).sramFilled = s.sramFilled := rfl
@[simp] theorem setWheel_ctxs (s : State) (die : Nat) (w : WheelSt) : (setWheel s die w).ctxs = s.ctxs := rfl
@[simp] theorem setWheel_xlt (s : State) (die : Nat) (w : WheelSt) : (setWheel s die w).xlt = s.xlt := rfl
@[simp] theorem setWheel_faults (s : State) (die : Nat) (w : WheelSt) : (setWheel s die w).faults = s.faults := rfl
@[simp] theorem setWheel_hostMem (s : State) (die : Nat) (w : WheelSt) : (setWheel s die w).hostMem = s.hostMem := rfl
@[simp] theorem setWheel_queues (s : State) (die : Nat) (w : WheelSt) : (setWheel s die w).queues = s.queues := rfl
@[simp] theorem setWheel_items (s : State) (die : Nat) (w : WheelSt) : (setWheel s die w).items = s.items := rfl
@[simp] theorem setWheel_launches (s : State) (die : Nat) (w : WheelSt) : (setWheel s die w).launches = s.launches := rfl
@[simp] theorem setWheel_vcs (s : State) (die : Nat) (w : WheelSt) : (setWheel s die w).vcs = s.vcs := rfl
@[simp] theorem setWheel_sched (s : State) (die : Nat) (w : WheelSt) : (setWheel s die w).sched = s.sched := rfl
@[simp] theorem setWheel_slots (s : State) (die : Nat) (w : WheelSt) : (setWheel s die w).slots = s.slots := rfl
@[simp] theorem setWheel_models (s : State) (die : Nat) (w : WheelSt) : (setWheel s die w).models = s.models := rfl
@[simp] theorem setWheel_adapters (s : State) (die : Nat) (w : WheelSt) : (setWheel s die w).adapters = s.adapters := rfl
@[simp] theorem setWheel_resLatch (s : State) (die : Nat) (w : WheelSt) : (setWheel s die w).resLatch = s.resLatch := rfl
@[simp] theorem setWheel_sigs (s : State) (die : Nat) (w : WheelSt) : (setWheel s die w).sigs = s.sigs := rfl
@[simp] theorem setWheel_twin (s : State) (die : Nat) (w : WheelSt) : (setWheel s die w).twin = s.twin := rfl
@[simp] theorem setWheel_sto (s : State) (die : Nat) (w : WheelSt) : (setWheel s die w).sto = s.sto := rfl
@[simp] theorem setWheel_ras (s : State) (die : Nat) (w : WheelSt) : (setWheel s die w).ras = s.ras := rfl
@[simp] theorem setWheel_aed (s : State) (die : Nat) (w : WheelSt) : (setWheel s die w).aed = s.aed := rfl
@[simp] theorem setWheel_pwr (s : State) (die : Nat) (w : WheelSt) : (setWheel s die w).pwr = s.pwr := rfl
@[simp] theorem setWheel_host (s : State) (die : Nat) (w : WheelSt) : (setWheel s die w).host = s.host := rfl
@[simp] theorem setWheel_col (s : State) (die : Nat) (w : WheelSt) : (setWheel s die w).col = s.col := rfl
@[simp] theorem setWheel_fence (s : State) (die : Nat) (w : WheelSt) : (setWheel s die w).fence = s.fence := rfl
@[simp] theorem setWheel_stgHeld (s : State) (die : Nat) (w : WheelSt) : (setWheel s die w).stgHeld = s.stgHeld := rfl
@[simp] theorem setWheel_stgQ (s : State) (die : Nat) (w : WheelSt) : (setWheel s die w).stgQ = s.stgQ := rfl
@[simp] theorem setWheel_answers (s : State) (die : Nat) (w : WheelSt) : (setWheel s die w).answers = s.answers := rfl

/-! ### setGroup -/

@[simp] theorem setGroup_pending (s : State) (gr : Nat) (x : GroupSt) : (setGroup s gr x).pending = s.pending := rfl
@[simp] theorem setGroup_freshIdx (s : State) (gr : Nat) (x : GroupSt) : (setGroup s gr x).freshIdx = s.freshIdx := rfl
@[simp] theorem setGroup_outbox (s : State) (gr : Nat) (x : GroupSt) : (setGroup s gr x).outbox = s.outbox := rfl
@[simp] theorem setGroup_regs (s : State) (gr : Nat) (x : GroupSt) : (setGroup s gr x).regs = s.regs := rfl
@[simp] theorem setGroup_regB (s : State) (gr : Nat) (x : GroupSt) : (setGroup s gr x).regB = s.regB := rfl
@[simp] theorem setGroup_regC (s : State) (gr : Nat) (x : GroupSt) : (setGroup s gr x).regC = s.regC := rfl
@[simp] theorem setGroup_pages (s : State) (gr : Nat) (x : GroupSt) : (setGroup s gr x).pages = s.pages := rfl
@[simp] theorem setGroup_cores (s : State) (gr : Nat) (x : GroupSt) : (setGroup s gr x).cores = s.cores := rfl
@[simp] theorem setGroup_dsm (s : State) (gr : Nat) (x : GroupSt) : (setGroup s gr x).dsm = s.dsm := rfl
@[simp] theorem setGroup_dram (s : State) (gr : Nat) (x : GroupSt) : (setGroup s gr x).dram = s.dram := rfl
@[simp] theorem setGroup_dramChk (s : State) (gr : Nat) (x : GroupSt) : (setGroup s gr x).dramChk = s.dramChk := rfl
@[simp] theorem setGroup_dramPoison (s : State) (gr : Nat) (x : GroupSt) : (setGroup s gr x).dramPoison = s.dramPoison := rfl
@[simp] theorem setGroup_cache (s : State) (gr : Nat) (x : GroupSt) : (setGroup s gr x).cache = s.cache := rfl
@[simp] theorem setGroup_wheels (s : State) (gr : Nat) (x : GroupSt) : (setGroup s gr x).wheels = s.wheels := rfl
@[simp] theorem setGroup_links (s : State) (gr : Nat) (x : GroupSt) : (setGroup s gr x).links = s.links := rfl
@[simp] theorem setGroup_routeQ (s : State) (gr : Nat) (x : GroupSt) : (setGroup s gr x).routeQ = s.routeQ := rfl
@[simp] theorem setGroup_lost (s : State) (gr : Nat) (x : GroupSt) : (setGroup s gr x).lost = s.lost := rfl
@[simp] theorem setGroup_rte (s : State) (gr : Nat) (x : GroupSt) : (setGroup s gr x).rte = s.rte := rfl
@[simp] theorem setGroup_ft (s : State) (gr : Nat) (x : GroupSt) : (setGroup s gr x).ft = s.ft := rfl
@[simp] theorem setGroup_msix (s : State) (gr : Nat) (x : GroupSt) : (setGroup s gr x).msix = s.msix := rfl
@[simp] theorem setGroup_mds (s : State) (gr : Nat) (x : GroupSt) : (setGroup s gr x).mds = s.mds := rfl
@[simp] theorem setGroup_sramFilled (s : State) (gr : Nat) (x : GroupSt) : (setGroup s gr x).sramFilled = s.sramFilled := rfl
@[simp] theorem setGroup_ctxs (s : State) (gr : Nat) (x : GroupSt) : (setGroup s gr x).ctxs = s.ctxs := rfl
@[simp] theorem setGroup_xlt (s : State) (gr : Nat) (x : GroupSt) : (setGroup s gr x).xlt = s.xlt := rfl
@[simp] theorem setGroup_faults (s : State) (gr : Nat) (x : GroupSt) : (setGroup s gr x).faults = s.faults := rfl
@[simp] theorem setGroup_hostMem (s : State) (gr : Nat) (x : GroupSt) : (setGroup s gr x).hostMem = s.hostMem := rfl
@[simp] theorem setGroup_queues (s : State) (gr : Nat) (x : GroupSt) : (setGroup s gr x).queues = s.queues := rfl
@[simp] theorem setGroup_items (s : State) (gr : Nat) (x : GroupSt) : (setGroup s gr x).items = s.items := rfl
@[simp] theorem setGroup_launches (s : State) (gr : Nat) (x : GroupSt) : (setGroup s gr x).launches = s.launches := rfl
@[simp] theorem setGroup_vcs (s : State) (gr : Nat) (x : GroupSt) : (setGroup s gr x).vcs = s.vcs := rfl
@[simp] theorem setGroup_sched (s : State) (gr : Nat) (x : GroupSt) : (setGroup s gr x).sched = s.sched := rfl
@[simp] theorem setGroup_slots (s : State) (gr : Nat) (x : GroupSt) : (setGroup s gr x).slots = s.slots := rfl
@[simp] theorem setGroup_models (s : State) (gr : Nat) (x : GroupSt) : (setGroup s gr x).models = s.models := rfl
@[simp] theorem setGroup_adapters (s : State) (gr : Nat) (x : GroupSt) : (setGroup s gr x).adapters = s.adapters := rfl
@[simp] theorem setGroup_resLatch (s : State) (gr : Nat) (x : GroupSt) : (setGroup s gr x).resLatch = s.resLatch := rfl
@[simp] theorem setGroup_sigs (s : State) (gr : Nat) (x : GroupSt) : (setGroup s gr x).sigs = s.sigs := rfl
@[simp] theorem setGroup_twin (s : State) (gr : Nat) (x : GroupSt) : (setGroup s gr x).twin = s.twin := rfl
@[simp] theorem setGroup_sto (s : State) (gr : Nat) (x : GroupSt) : (setGroup s gr x).sto = s.sto := rfl
@[simp] theorem setGroup_ras (s : State) (gr : Nat) (x : GroupSt) : (setGroup s gr x).ras = s.ras := rfl
@[simp] theorem setGroup_aed (s : State) (gr : Nat) (x : GroupSt) : (setGroup s gr x).aed = s.aed := rfl
@[simp] theorem setGroup_pwr (s : State) (gr : Nat) (x : GroupSt) : (setGroup s gr x).pwr = s.pwr := rfl
@[simp] theorem setGroup_host (s : State) (gr : Nat) (x : GroupSt) : (setGroup s gr x).host = s.host := rfl
@[simp] theorem setGroup_fence (s : State) (gr : Nat) (x : GroupSt) : (setGroup s gr x).fence = s.fence := rfl
@[simp] theorem setGroup_stgHeld (s : State) (gr : Nat) (x : GroupSt) : (setGroup s gr x).stgHeld = s.stgHeld := rfl
@[simp] theorem setGroup_stgQ (s : State) (gr : Nat) (x : GroupSt) : (setGroup s gr x).stgQ = s.stgQ := rfl
@[simp] theorem setGroup_answers (s : State) (gr : Nat) (x : GroupSt) : (setGroup s gr x).answers = s.answers := rfl

/-! ### modHost -/

@[simp] theorem modHost_pending (s : State) (f : HostSt → HostSt) : (modHost s f).pending = s.pending := rfl
@[simp] theorem modHost_freshIdx (s : State) (f : HostSt → HostSt) : (modHost s f).freshIdx = s.freshIdx := rfl
@[simp] theorem modHost_outbox (s : State) (f : HostSt → HostSt) : (modHost s f).outbox = s.outbox := rfl
@[simp] theorem modHost_regs (s : State) (f : HostSt → HostSt) : (modHost s f).regs = s.regs := rfl
@[simp] theorem modHost_regB (s : State) (f : HostSt → HostSt) : (modHost s f).regB = s.regB := rfl
@[simp] theorem modHost_regC (s : State) (f : HostSt → HostSt) : (modHost s f).regC = s.regC := rfl
@[simp] theorem modHost_pages (s : State) (f : HostSt → HostSt) : (modHost s f).pages = s.pages := rfl
@[simp] theorem modHost_cores (s : State) (f : HostSt → HostSt) : (modHost s f).cores = s.cores := rfl
@[simp] theorem modHost_dsm (s : State) (f : HostSt → HostSt) : (modHost s f).dsm = s.dsm := rfl
@[simp] theorem modHost_dram (s : State) (f : HostSt → HostSt) : (modHost s f).dram = s.dram := rfl
@[simp] theorem modHost_dramChk (s : State) (f : HostSt → HostSt) : (modHost s f).dramChk = s.dramChk := rfl
@[simp] theorem modHost_dramPoison (s : State) (f : HostSt → HostSt) : (modHost s f).dramPoison = s.dramPoison := rfl
@[simp] theorem modHost_cache (s : State) (f : HostSt → HostSt) : (modHost s f).cache = s.cache := rfl
@[simp] theorem modHost_wheels (s : State) (f : HostSt → HostSt) : (modHost s f).wheels = s.wheels := rfl
@[simp] theorem modHost_links (s : State) (f : HostSt → HostSt) : (modHost s f).links = s.links := rfl
@[simp] theorem modHost_routeQ (s : State) (f : HostSt → HostSt) : (modHost s f).routeQ = s.routeQ := rfl
@[simp] theorem modHost_lost (s : State) (f : HostSt → HostSt) : (modHost s f).lost = s.lost := rfl
@[simp] theorem modHost_rte (s : State) (f : HostSt → HostSt) : (modHost s f).rte = s.rte := rfl
@[simp] theorem modHost_ft (s : State) (f : HostSt → HostSt) : (modHost s f).ft = s.ft := rfl
@[simp] theorem modHost_msix (s : State) (f : HostSt → HostSt) : (modHost s f).msix = s.msix := rfl
@[simp] theorem modHost_mds (s : State) (f : HostSt → HostSt) : (modHost s f).mds = s.mds := rfl
@[simp] theorem modHost_sramFilled (s : State) (f : HostSt → HostSt) : (modHost s f).sramFilled = s.sramFilled := rfl
@[simp] theorem modHost_ctxs (s : State) (f : HostSt → HostSt) : (modHost s f).ctxs = s.ctxs := rfl
@[simp] theorem modHost_xlt (s : State) (f : HostSt → HostSt) : (modHost s f).xlt = s.xlt := rfl
@[simp] theorem modHost_faults (s : State) (f : HostSt → HostSt) : (modHost s f).faults = s.faults := rfl
@[simp] theorem modHost_hostMem (s : State) (f : HostSt → HostSt) : (modHost s f).hostMem = s.hostMem := rfl
@[simp] theorem modHost_queues (s : State) (f : HostSt → HostSt) : (modHost s f).queues = s.queues := rfl
@[simp] theorem modHost_items (s : State) (f : HostSt → HostSt) : (modHost s f).items = s.items := rfl
@[simp] theorem modHost_launches (s : State) (f : HostSt → HostSt) : (modHost s f).launches = s.launches := rfl
@[simp] theorem modHost_vcs (s : State) (f : HostSt → HostSt) : (modHost s f).vcs = s.vcs := rfl
@[simp] theorem modHost_sched (s : State) (f : HostSt → HostSt) : (modHost s f).sched = s.sched := rfl
@[simp] theorem modHost_slots (s : State) (f : HostSt → HostSt) : (modHost s f).slots = s.slots := rfl
@[simp] theorem modHost_models (s : State) (f : HostSt → HostSt) : (modHost s f).models = s.models := rfl
@[simp] theorem modHost_adapters (s : State) (f : HostSt → HostSt) : (modHost s f).adapters = s.adapters := rfl
@[simp] theorem modHost_resLatch (s : State) (f : HostSt → HostSt) : (modHost s f).resLatch = s.resLatch := rfl
@[simp] theorem modHost_sigs (s : State) (f : HostSt → HostSt) : (modHost s f).sigs = s.sigs := rfl
@[simp] theorem modHost_twin (s : State) (f : HostSt → HostSt) : (modHost s f).twin = s.twin := rfl
@[simp] theorem modHost_sto (s : State) (f : HostSt → HostSt) : (modHost s f).sto = s.sto := rfl
@[simp] theorem modHost_ras (s : State) (f : HostSt → HostSt) : (modHost s f).ras = s.ras := rfl
@[simp] theorem modHost_aed (s : State) (f : HostSt → HostSt) : (modHost s f).aed = s.aed := rfl
@[simp] theorem modHost_pwr (s : State) (f : HostSt → HostSt) : (modHost s f).pwr = s.pwr := rfl
@[simp] theorem modHost_col (s : State) (f : HostSt → HostSt) : (modHost s f).col = s.col := rfl
@[simp] theorem modHost_fence (s : State) (f : HostSt → HostSt) : (modHost s f).fence = s.fence := rfl
@[simp] theorem modHost_stgHeld (s : State) (f : HostSt → HostSt) : (modHost s f).stgHeld = s.stgHeld := rfl
@[simp] theorem modHost_stgQ (s : State) (f : HostSt → HostSt) : (modHost s f).stgQ = s.stgQ := rfl
@[simp] theorem modHost_answers (s : State) (f : HostSt → HostSt) : (modHost s f).answers = s.answers := rfl

/-! ### modAed -/

@[simp] theorem modAed_pending (s : State) (f : AedSt → AedSt) : (modAed s f).pending = s.pending := rfl
@[simp] theorem modAed_freshIdx (s : State) (f : AedSt → AedSt) : (modAed s f).freshIdx = s.freshIdx := rfl
@[simp] theorem modAed_outbox (s : State) (f : AedSt → AedSt) : (modAed s f).outbox = s.outbox := rfl
@[simp] theorem modAed_regs (s : State) (f : AedSt → AedSt) : (modAed s f).regs = s.regs := rfl
@[simp] theorem modAed_regB (s : State) (f : AedSt → AedSt) : (modAed s f).regB = s.regB := rfl
@[simp] theorem modAed_regC (s : State) (f : AedSt → AedSt) : (modAed s f).regC = s.regC := rfl
@[simp] theorem modAed_pages (s : State) (f : AedSt → AedSt) : (modAed s f).pages = s.pages := rfl
@[simp] theorem modAed_cores (s : State) (f : AedSt → AedSt) : (modAed s f).cores = s.cores := rfl
@[simp] theorem modAed_dsm (s : State) (f : AedSt → AedSt) : (modAed s f).dsm = s.dsm := rfl
@[simp] theorem modAed_dram (s : State) (f : AedSt → AedSt) : (modAed s f).dram = s.dram := rfl
@[simp] theorem modAed_dramChk (s : State) (f : AedSt → AedSt) : (modAed s f).dramChk = s.dramChk := rfl
@[simp] theorem modAed_dramPoison (s : State) (f : AedSt → AedSt) : (modAed s f).dramPoison = s.dramPoison := rfl
@[simp] theorem modAed_cache (s : State) (f : AedSt → AedSt) : (modAed s f).cache = s.cache := rfl
@[simp] theorem modAed_wheels (s : State) (f : AedSt → AedSt) : (modAed s f).wheels = s.wheels := rfl
@[simp] theorem modAed_links (s : State) (f : AedSt → AedSt) : (modAed s f).links = s.links := rfl
@[simp] theorem modAed_routeQ (s : State) (f : AedSt → AedSt) : (modAed s f).routeQ = s.routeQ := rfl
@[simp] theorem modAed_lost (s : State) (f : AedSt → AedSt) : (modAed s f).lost = s.lost := rfl
@[simp] theorem modAed_rte (s : State) (f : AedSt → AedSt) : (modAed s f).rte = s.rte := rfl
@[simp] theorem modAed_ft (s : State) (f : AedSt → AedSt) : (modAed s f).ft = s.ft := rfl
@[simp] theorem modAed_msix (s : State) (f : AedSt → AedSt) : (modAed s f).msix = s.msix := rfl
@[simp] theorem modAed_mds (s : State) (f : AedSt → AedSt) : (modAed s f).mds = s.mds := rfl
@[simp] theorem modAed_sramFilled (s : State) (f : AedSt → AedSt) : (modAed s f).sramFilled = s.sramFilled := rfl
@[simp] theorem modAed_ctxs (s : State) (f : AedSt → AedSt) : (modAed s f).ctxs = s.ctxs := rfl
@[simp] theorem modAed_xlt (s : State) (f : AedSt → AedSt) : (modAed s f).xlt = s.xlt := rfl
@[simp] theorem modAed_faults (s : State) (f : AedSt → AedSt) : (modAed s f).faults = s.faults := rfl
@[simp] theorem modAed_hostMem (s : State) (f : AedSt → AedSt) : (modAed s f).hostMem = s.hostMem := rfl
@[simp] theorem modAed_queues (s : State) (f : AedSt → AedSt) : (modAed s f).queues = s.queues := rfl
@[simp] theorem modAed_items (s : State) (f : AedSt → AedSt) : (modAed s f).items = s.items := rfl
@[simp] theorem modAed_launches (s : State) (f : AedSt → AedSt) : (modAed s f).launches = s.launches := rfl
@[simp] theorem modAed_vcs (s : State) (f : AedSt → AedSt) : (modAed s f).vcs = s.vcs := rfl
@[simp] theorem modAed_sched (s : State) (f : AedSt → AedSt) : (modAed s f).sched = s.sched := rfl
@[simp] theorem modAed_slots (s : State) (f : AedSt → AedSt) : (modAed s f).slots = s.slots := rfl
@[simp] theorem modAed_models (s : State) (f : AedSt → AedSt) : (modAed s f).models = s.models := rfl
@[simp] theorem modAed_adapters (s : State) (f : AedSt → AedSt) : (modAed s f).adapters = s.adapters := rfl
@[simp] theorem modAed_resLatch (s : State) (f : AedSt → AedSt) : (modAed s f).resLatch = s.resLatch := rfl
@[simp] theorem modAed_sigs (s : State) (f : AedSt → AedSt) : (modAed s f).sigs = s.sigs := rfl
@[simp] theorem modAed_twin (s : State) (f : AedSt → AedSt) : (modAed s f).twin = s.twin := rfl
@[simp] theorem modAed_sto (s : State) (f : AedSt → AedSt) : (modAed s f).sto = s.sto := rfl
@[simp] theorem modAed_ras (s : State) (f : AedSt → AedSt) : (modAed s f).ras = s.ras := rfl
@[simp] theorem modAed_pwr (s : State) (f : AedSt → AedSt) : (modAed s f).pwr = s.pwr := rfl
@[simp] theorem modAed_host (s : State) (f : AedSt → AedSt) : (modAed s f).host = s.host := rfl
@[simp] theorem modAed_col (s : State) (f : AedSt → AedSt) : (modAed s f).col = s.col := rfl
@[simp] theorem modAed_fence (s : State) (f : AedSt → AedSt) : (modAed s f).fence = s.fence := rfl
@[simp] theorem modAed_stgHeld (s : State) (f : AedSt → AedSt) : (modAed s f).stgHeld = s.stgHeld := rfl
@[simp] theorem modAed_stgQ (s : State) (f : AedSt → AedSt) : (modAed s f).stgQ = s.stgQ := rfl
@[simp] theorem modAed_answers (s : State) (f : AedSt → AedSt) : (modAed s f).answers = s.answers := rfl

/-! ### modPwr -/

@[simp] theorem modPwr_pending (s : State) (f : PwrSt → PwrSt) : (modPwr s f).pending = s.pending := rfl
@[simp] theorem modPwr_freshIdx (s : State) (f : PwrSt → PwrSt) : (modPwr s f).freshIdx = s.freshIdx := rfl
@[simp] theorem modPwr_outbox (s : State) (f : PwrSt → PwrSt) : (modPwr s f).outbox = s.outbox := rfl
@[simp] theorem modPwr_regs (s : State) (f : PwrSt → PwrSt) : (modPwr s f).regs = s.regs := rfl
@[simp] theorem modPwr_regB (s : State) (f : PwrSt → PwrSt) : (modPwr s f).regB = s.regB := rfl
@[simp] theorem modPwr_regC (s : State) (f : PwrSt → PwrSt) : (modPwr s f).regC = s.regC := rfl
@[simp] theorem modPwr_pages (s : State) (f : PwrSt → PwrSt) : (modPwr s f).pages = s.pages := rfl
@[simp] theorem modPwr_cores (s : State) (f : PwrSt → PwrSt) : (modPwr s f).cores = s.cores := rfl
@[simp] theorem modPwr_dsm (s : State) (f : PwrSt → PwrSt) : (modPwr s f).dsm = s.dsm := rfl
@[simp] theorem modPwr_dram (s : State) (f : PwrSt → PwrSt) : (modPwr s f).dram = s.dram := rfl
@[simp] theorem modPwr_dramChk (s : State) (f : PwrSt → PwrSt) : (modPwr s f).dramChk = s.dramChk := rfl
@[simp] theorem modPwr_dramPoison (s : State) (f : PwrSt → PwrSt) : (modPwr s f).dramPoison = s.dramPoison := rfl
@[simp] theorem modPwr_cache (s : State) (f : PwrSt → PwrSt) : (modPwr s f).cache = s.cache := rfl
@[simp] theorem modPwr_wheels (s : State) (f : PwrSt → PwrSt) : (modPwr s f).wheels = s.wheels := rfl
@[simp] theorem modPwr_links (s : State) (f : PwrSt → PwrSt) : (modPwr s f).links = s.links := rfl
@[simp] theorem modPwr_routeQ (s : State) (f : PwrSt → PwrSt) : (modPwr s f).routeQ = s.routeQ := rfl
@[simp] theorem modPwr_lost (s : State) (f : PwrSt → PwrSt) : (modPwr s f).lost = s.lost := rfl
@[simp] theorem modPwr_rte (s : State) (f : PwrSt → PwrSt) : (modPwr s f).rte = s.rte := rfl
@[simp] theorem modPwr_ft (s : State) (f : PwrSt → PwrSt) : (modPwr s f).ft = s.ft := rfl
@[simp] theorem modPwr_msix (s : State) (f : PwrSt → PwrSt) : (modPwr s f).msix = s.msix := rfl
@[simp] theorem modPwr_mds (s : State) (f : PwrSt → PwrSt) : (modPwr s f).mds = s.mds := rfl
@[simp] theorem modPwr_sramFilled (s : State) (f : PwrSt → PwrSt) : (modPwr s f).sramFilled = s.sramFilled := rfl
@[simp] theorem modPwr_ctxs (s : State) (f : PwrSt → PwrSt) : (modPwr s f).ctxs = s.ctxs := rfl
@[simp] theorem modPwr_xlt (s : State) (f : PwrSt → PwrSt) : (modPwr s f).xlt = s.xlt := rfl
@[simp] theorem modPwr_faults (s : State) (f : PwrSt → PwrSt) : (modPwr s f).faults = s.faults := rfl
@[simp] theorem modPwr_hostMem (s : State) (f : PwrSt → PwrSt) : (modPwr s f).hostMem = s.hostMem := rfl
@[simp] theorem modPwr_queues (s : State) (f : PwrSt → PwrSt) : (modPwr s f).queues = s.queues := rfl
@[simp] theorem modPwr_items (s : State) (f : PwrSt → PwrSt) : (modPwr s f).items = s.items := rfl
@[simp] theorem modPwr_launches (s : State) (f : PwrSt → PwrSt) : (modPwr s f).launches = s.launches := rfl
@[simp] theorem modPwr_vcs (s : State) (f : PwrSt → PwrSt) : (modPwr s f).vcs = s.vcs := rfl
@[simp] theorem modPwr_sched (s : State) (f : PwrSt → PwrSt) : (modPwr s f).sched = s.sched := rfl
@[simp] theorem modPwr_slots (s : State) (f : PwrSt → PwrSt) : (modPwr s f).slots = s.slots := rfl
@[simp] theorem modPwr_models (s : State) (f : PwrSt → PwrSt) : (modPwr s f).models = s.models := rfl
@[simp] theorem modPwr_adapters (s : State) (f : PwrSt → PwrSt) : (modPwr s f).adapters = s.adapters := rfl
@[simp] theorem modPwr_resLatch (s : State) (f : PwrSt → PwrSt) : (modPwr s f).resLatch = s.resLatch := rfl
@[simp] theorem modPwr_sigs (s : State) (f : PwrSt → PwrSt) : (modPwr s f).sigs = s.sigs := rfl
@[simp] theorem modPwr_twin (s : State) (f : PwrSt → PwrSt) : (modPwr s f).twin = s.twin := rfl
@[simp] theorem modPwr_sto (s : State) (f : PwrSt → PwrSt) : (modPwr s f).sto = s.sto := rfl
@[simp] theorem modPwr_ras (s : State) (f : PwrSt → PwrSt) : (modPwr s f).ras = s.ras := rfl
@[simp] theorem modPwr_aed (s : State) (f : PwrSt → PwrSt) : (modPwr s f).aed = s.aed := rfl
@[simp] theorem modPwr_host (s : State) (f : PwrSt → PwrSt) : (modPwr s f).host = s.host := rfl
@[simp] theorem modPwr_col (s : State) (f : PwrSt → PwrSt) : (modPwr s f).col = s.col := rfl
@[simp] theorem modPwr_fence (s : State) (f : PwrSt → PwrSt) : (modPwr s f).fence = s.fence := rfl
@[simp] theorem modPwr_stgHeld (s : State) (f : PwrSt → PwrSt) : (modPwr s f).stgHeld = s.stgHeld := rfl
@[simp] theorem modPwr_stgQ (s : State) (f : PwrSt → PwrSt) : (modPwr s f).stgQ = s.stgQ := rfl
@[simp] theorem modPwr_answers (s : State) (f : PwrSt → PwrSt) : (modPwr s f).answers = s.answers := rfl

/-! ### modRas -/

@[simp] theorem modRas_pending (s : State) (f : RasSt → RasSt) : (modRas s f).pending = s.pending := rfl
@[simp] theorem modRas_freshIdx (s : State) (f : RasSt → RasSt) : (modRas s f).freshIdx = s.freshIdx := rfl
@[simp] theorem modRas_outbox (s : State) (f : RasSt → RasSt) : (modRas s f).outbox = s.outbox := rfl
@[simp] theorem modRas_regs (s : State) (f : RasSt → RasSt) : (modRas s f).regs = s.regs := rfl
@[simp] theorem modRas_regB (s : State) (f : RasSt → RasSt) : (modRas s f).regB = s.regB := rfl
@[simp] theorem modRas_regC (s : State) (f : RasSt → RasSt) : (modRas s f).regC = s.regC := rfl
@[simp] theorem modRas_pages (s : State) (f : RasSt → RasSt) : (modRas s f).pages = s.pages := rfl
@[simp] theorem modRas_cores (s : State) (f : RasSt → RasSt) : (modRas s f).cores = s.cores := rfl
@[simp] theorem modRas_dsm (s : State) (f : RasSt → RasSt) : (modRas s f).dsm = s.dsm := rfl
@[simp] theorem modRas_dram (s : State) (f : RasSt → RasSt) : (modRas s f).dram = s.dram := rfl
@[simp] theorem modRas_dramChk (s : State) (f : RasSt → RasSt) : (modRas s f).dramChk = s.dramChk := rfl
@[simp] theorem modRas_dramPoison (s : State) (f : RasSt → RasSt) : (modRas s f).dramPoison = s.dramPoison := rfl
@[simp] theorem modRas_cache (s : State) (f : RasSt → RasSt) : (modRas s f).cache = s.cache := rfl
@[simp] theorem modRas_wheels (s : State) (f : RasSt → RasSt) : (modRas s f).wheels = s.wheels := rfl
@[simp] theorem modRas_links (s : State) (f : RasSt → RasSt) : (modRas s f).links = s.links := rfl
@[simp] theorem modRas_routeQ (s : State) (f : RasSt → RasSt) : (modRas s f).routeQ = s.routeQ := rfl
@[simp] theorem modRas_lost (s : State) (f : RasSt → RasSt) : (modRas s f).lost = s.lost := rfl
@[simp] theorem modRas_rte (s : State) (f : RasSt → RasSt) : (modRas s f).rte = s.rte := rfl
@[simp] theorem modRas_ft (s : State) (f : RasSt → RasSt) : (modRas s f).ft = s.ft := rfl
@[simp] theorem modRas_msix (s : State) (f : RasSt → RasSt) : (modRas s f).msix = s.msix := rfl
@[simp] theorem modRas_mds (s : State) (f : RasSt → RasSt) : (modRas s f).mds = s.mds := rfl
@[simp] theorem modRas_sramFilled (s : State) (f : RasSt → RasSt) : (modRas s f).sramFilled = s.sramFilled := rfl
@[simp] theorem modRas_ctxs (s : State) (f : RasSt → RasSt) : (modRas s f).ctxs = s.ctxs := rfl
@[simp] theorem modRas_xlt (s : State) (f : RasSt → RasSt) : (modRas s f).xlt = s.xlt := rfl
@[simp] theorem modRas_faults (s : State) (f : RasSt → RasSt) : (modRas s f).faults = s.faults := rfl
@[simp] theorem modRas_hostMem (s : State) (f : RasSt → RasSt) : (modRas s f).hostMem = s.hostMem := rfl
@[simp] theorem modRas_queues (s : State) (f : RasSt → RasSt) : (modRas s f).queues = s.queues := rfl
@[simp] theorem modRas_items (s : State) (f : RasSt → RasSt) : (modRas s f).items = s.items := rfl
@[simp] theorem modRas_launches (s : State) (f : RasSt → RasSt) : (modRas s f).launches = s.launches := rfl
@[simp] theorem modRas_vcs (s : State) (f : RasSt → RasSt) : (modRas s f).vcs = s.vcs := rfl
@[simp] theorem modRas_sched (s : State) (f : RasSt → RasSt) : (modRas s f).sched = s.sched := rfl
@[simp] theorem modRas_slots (s : State) (f : RasSt → RasSt) : (modRas s f).slots = s.slots := rfl
@[simp] theorem modRas_models (s : State) (f : RasSt → RasSt) : (modRas s f).models = s.models := rfl
@[simp] theorem modRas_adapters (s : State) (f : RasSt → RasSt) : (modRas s f).adapters = s.adapters := rfl
@[simp] theorem modRas_resLatch (s : State) (f : RasSt → RasSt) : (modRas s f).resLatch = s.resLatch := rfl
@[simp] theorem modRas_sigs (s : State) (f : RasSt → RasSt) : (modRas s f).sigs = s.sigs := rfl
@[simp] theorem modRas_twin (s : State) (f : RasSt → RasSt) : (modRas s f).twin = s.twin := rfl
@[simp] theorem modRas_sto (s : State) (f : RasSt → RasSt) : (modRas s f).sto = s.sto := rfl
@[simp] theorem modRas_aed (s : State) (f : RasSt → RasSt) : (modRas s f).aed = s.aed := rfl
@[simp] theorem modRas_pwr (s : State) (f : RasSt → RasSt) : (modRas s f).pwr = s.pwr := rfl
@[simp] theorem modRas_host (s : State) (f : RasSt → RasSt) : (modRas s f).host = s.host := rfl
@[simp] theorem modRas_col (s : State) (f : RasSt → RasSt) : (modRas s f).col = s.col := rfl
@[simp] theorem modRas_fence (s : State) (f : RasSt → RasSt) : (modRas s f).fence = s.fence := rfl
@[simp] theorem modRas_stgHeld (s : State) (f : RasSt → RasSt) : (modRas s f).stgHeld = s.stgHeld := rfl
@[simp] theorem modRas_stgQ (s : State) (f : RasSt → RasSt) : (modRas s f).stgQ = s.stgQ := rfl
@[simp] theorem modRas_answers (s : State) (f : RasSt → RasSt) : (modRas s f).answers = s.answers := rfl

/-! ### modTwin -/

@[simp] theorem modTwin_pending (s : State) (f : TwinSt → TwinSt) : (modTwin s f).pending = s.pending := rfl
@[simp] theorem modTwin_freshIdx (s : State) (f : TwinSt → TwinSt) : (modTwin s f).freshIdx = s.freshIdx := rfl
@[simp] theorem modTwin_outbox (s : State) (f : TwinSt → TwinSt) : (modTwin s f).outbox = s.outbox := rfl
@[simp] theorem modTwin_regs (s : State) (f : TwinSt → TwinSt) : (modTwin s f).regs = s.regs := rfl
@[simp] theorem modTwin_regB (s : State) (f : TwinSt → TwinSt) : (modTwin s f).regB = s.regB := rfl
@[simp] theorem modTwin_regC (s : State) (f : TwinSt → TwinSt) : (modTwin s f).regC = s.regC := rfl
@[simp] theorem modTwin_pages (s : State) (f : TwinSt → TwinSt) : (modTwin s f).pages = s.pages := rfl
@[simp] theorem modTwin_cores (s : State) (f : TwinSt → TwinSt) : (modTwin s f).cores = s.cores := rfl
@[simp] theorem modTwin_dsm (s : State) (f : TwinSt → TwinSt) : (modTwin s f).dsm = s.dsm := rfl
@[simp] theorem modTwin_dram (s : State) (f : TwinSt → TwinSt) : (modTwin s f).dram = s.dram := rfl
@[simp] theorem modTwin_dramChk (s : State) (f : TwinSt → TwinSt) : (modTwin s f).dramChk = s.dramChk := rfl
@[simp] theorem modTwin_dramPoison (s : State) (f : TwinSt → TwinSt) : (modTwin s f).dramPoison = s.dramPoison := rfl
@[simp] theorem modTwin_cache (s : State) (f : TwinSt → TwinSt) : (modTwin s f).cache = s.cache := rfl
@[simp] theorem modTwin_wheels (s : State) (f : TwinSt → TwinSt) : (modTwin s f).wheels = s.wheels := rfl
@[simp] theorem modTwin_links (s : State) (f : TwinSt → TwinSt) : (modTwin s f).links = s.links := rfl
@[simp] theorem modTwin_routeQ (s : State) (f : TwinSt → TwinSt) : (modTwin s f).routeQ = s.routeQ := rfl
@[simp] theorem modTwin_lost (s : State) (f : TwinSt → TwinSt) : (modTwin s f).lost = s.lost := rfl
@[simp] theorem modTwin_rte (s : State) (f : TwinSt → TwinSt) : (modTwin s f).rte = s.rte := rfl
@[simp] theorem modTwin_ft (s : State) (f : TwinSt → TwinSt) : (modTwin s f).ft = s.ft := rfl
@[simp] theorem modTwin_msix (s : State) (f : TwinSt → TwinSt) : (modTwin s f).msix = s.msix := rfl
@[simp] theorem modTwin_mds (s : State) (f : TwinSt → TwinSt) : (modTwin s f).mds = s.mds := rfl
@[simp] theorem modTwin_sramFilled (s : State) (f : TwinSt → TwinSt) : (modTwin s f).sramFilled = s.sramFilled := rfl
@[simp] theorem modTwin_ctxs (s : State) (f : TwinSt → TwinSt) : (modTwin s f).ctxs = s.ctxs := rfl
@[simp] theorem modTwin_xlt (s : State) (f : TwinSt → TwinSt) : (modTwin s f).xlt = s.xlt := rfl
@[simp] theorem modTwin_faults (s : State) (f : TwinSt → TwinSt) : (modTwin s f).faults = s.faults := rfl
@[simp] theorem modTwin_hostMem (s : State) (f : TwinSt → TwinSt) : (modTwin s f).hostMem = s.hostMem := rfl
@[simp] theorem modTwin_queues (s : State) (f : TwinSt → TwinSt) : (modTwin s f).queues = s.queues := rfl
@[simp] theorem modTwin_items (s : State) (f : TwinSt → TwinSt) : (modTwin s f).items = s.items := rfl
@[simp] theorem modTwin_launches (s : State) (f : TwinSt → TwinSt) : (modTwin s f).launches = s.launches := rfl
@[simp] theorem modTwin_vcs (s : State) (f : TwinSt → TwinSt) : (modTwin s f).vcs = s.vcs := rfl
@[simp] theorem modTwin_sched (s : State) (f : TwinSt → TwinSt) : (modTwin s f).sched = s.sched := rfl
@[simp] theorem modTwin_slots (s : State) (f : TwinSt → TwinSt) : (modTwin s f).slots = s.slots := rfl
@[simp] theorem modTwin_models (s : State) (f : TwinSt → TwinSt) : (modTwin s f).models = s.models := rfl
@[simp] theorem modTwin_adapters (s : State) (f : TwinSt → TwinSt) : (modTwin s f).adapters = s.adapters := rfl
@[simp] theorem modTwin_resLatch (s : State) (f : TwinSt → TwinSt) : (modTwin s f).resLatch = s.resLatch := rfl
@[simp] theorem modTwin_sigs (s : State) (f : TwinSt → TwinSt) : (modTwin s f).sigs = s.sigs := rfl
@[simp] theorem modTwin_sto (s : State) (f : TwinSt → TwinSt) : (modTwin s f).sto = s.sto := rfl
@[simp] theorem modTwin_ras (s : State) (f : TwinSt → TwinSt) : (modTwin s f).ras = s.ras := rfl
@[simp] theorem modTwin_aed (s : State) (f : TwinSt → TwinSt) : (modTwin s f).aed = s.aed := rfl
@[simp] theorem modTwin_pwr (s : State) (f : TwinSt → TwinSt) : (modTwin s f).pwr = s.pwr := rfl
@[simp] theorem modTwin_host (s : State) (f : TwinSt → TwinSt) : (modTwin s f).host = s.host := rfl
@[simp] theorem modTwin_col (s : State) (f : TwinSt → TwinSt) : (modTwin s f).col = s.col := rfl
@[simp] theorem modTwin_fence (s : State) (f : TwinSt → TwinSt) : (modTwin s f).fence = s.fence := rfl
@[simp] theorem modTwin_stgHeld (s : State) (f : TwinSt → TwinSt) : (modTwin s f).stgHeld = s.stgHeld := rfl
@[simp] theorem modTwin_stgQ (s : State) (f : TwinSt → TwinSt) : (modTwin s f).stgQ = s.stgQ := rfl
@[simp] theorem modTwin_answers (s : State) (f : TwinSt → TwinSt) : (modTwin s f).answers = s.answers := rfl

/-! ### setTgt -/

@[simp] theorem setTgt_pending (s : State) (n : Nat) (x : TgtSt) : (setTgt s n x).pending = s.pending := rfl
@[simp] theorem setTgt_freshIdx (s : State) (n : Nat) (x : TgtSt) : (setTgt s n x).freshIdx = s.freshIdx := rfl
@[simp] theorem setTgt_outbox (s : State) (n : Nat) (x : TgtSt) : (setTgt s n x).outbox = s.outbox := rfl
@[simp] theorem setTgt_regs (s : State) (n : Nat) (x : TgtSt) : (setTgt s n x).regs = s.regs := rfl
@[simp] theorem setTgt_regB (s : State) (n : Nat) (x : TgtSt) : (setTgt s n x).regB = s.regB := rfl
@[simp] theorem setTgt_regC (s : State) (n : Nat) (x : TgtSt) : (setTgt s n x).regC = s.regC := rfl
@[simp] theorem setTgt_pages (s : State) (n : Nat) (x : TgtSt) : (setTgt s n x).pages = s.pages := rfl
@[simp] theorem setTgt_cores (s : State) (n : Nat) (x : TgtSt) : (setTgt s n x).cores = s.cores := rfl
@[simp] theorem setTgt_dsm (s : State) (n : Nat) (x : TgtSt) : (setTgt s n x).dsm = s.dsm := rfl
@[simp] theorem setTgt_dram (s : State) (n : Nat) (x : TgtSt) : (setTgt s n x).dram = s.dram := rfl
@[simp] theorem setTgt_dramChk (s : State) (n : Nat) (x : TgtSt) : (setTgt s n x).dramChk = s.dramChk := rfl
@[simp] theorem setTgt_dramPoison (s : State) (n : Nat) (x : TgtSt) : (setTgt s n x).dramPoison = s.dramPoison := rfl
@[simp] theorem setTgt_cache (s : State) (n : Nat) (x : TgtSt) : (setTgt s n x).cache = s.cache := rfl
@[simp] theorem setTgt_wheels (s : State) (n : Nat) (x : TgtSt) : (setTgt s n x).wheels = s.wheels := rfl
@[simp] theorem setTgt_links (s : State) (n : Nat) (x : TgtSt) : (setTgt s n x).links = s.links := rfl
@[simp] theorem setTgt_routeQ (s : State) (n : Nat) (x : TgtSt) : (setTgt s n x).routeQ = s.routeQ := rfl
@[simp] theorem setTgt_lost (s : State) (n : Nat) (x : TgtSt) : (setTgt s n x).lost = s.lost := rfl
@[simp] theorem setTgt_rte (s : State) (n : Nat) (x : TgtSt) : (setTgt s n x).rte = s.rte := rfl
@[simp] theorem setTgt_ft (s : State) (n : Nat) (x : TgtSt) : (setTgt s n x).ft = s.ft := rfl
@[simp] theorem setTgt_msix (s : State) (n : Nat) (x : TgtSt) : (setTgt s n x).msix = s.msix := rfl
@[simp] theorem setTgt_mds (s : State) (n : Nat) (x : TgtSt) : (setTgt s n x).mds = s.mds := rfl
@[simp] theorem setTgt_sramFilled (s : State) (n : Nat) (x : TgtSt) : (setTgt s n x).sramFilled = s.sramFilled := rfl
@[simp] theorem setTgt_ctxs (s : State) (n : Nat) (x : TgtSt) : (setTgt s n x).ctxs = s.ctxs := rfl
@[simp] theorem setTgt_xlt (s : State) (n : Nat) (x : TgtSt) : (setTgt s n x).xlt = s.xlt := rfl
@[simp] theorem setTgt_faults (s : State) (n : Nat) (x : TgtSt) : (setTgt s n x).faults = s.faults := rfl
@[simp] theorem setTgt_hostMem (s : State) (n : Nat) (x : TgtSt) : (setTgt s n x).hostMem = s.hostMem := rfl
@[simp] theorem setTgt_queues (s : State) (n : Nat) (x : TgtSt) : (setTgt s n x).queues = s.queues := rfl
@[simp] theorem setTgt_items (s : State) (n : Nat) (x : TgtSt) : (setTgt s n x).items = s.items := rfl
@[simp] theorem setTgt_launches (s : State) (n : Nat) (x : TgtSt) : (setTgt s n x).launches = s.launches := rfl
@[simp] theorem setTgt_vcs (s : State) (n : Nat) (x : TgtSt) : (setTgt s n x).vcs = s.vcs := rfl
@[simp] theorem setTgt_sched (s : State) (n : Nat) (x : TgtSt) : (setTgt s n x).sched = s.sched := rfl
@[simp] theorem setTgt_slots (s : State) (n : Nat) (x : TgtSt) : (setTgt s n x).slots = s.slots := rfl
@[simp] theorem setTgt_models (s : State) (n : Nat) (x : TgtSt) : (setTgt s n x).models = s.models := rfl
@[simp] theorem setTgt_adapters (s : State) (n : Nat) (x : TgtSt) : (setTgt s n x).adapters = s.adapters := rfl
@[simp] theorem setTgt_resLatch (s : State) (n : Nat) (x : TgtSt) : (setTgt s n x).resLatch = s.resLatch := rfl
@[simp] theorem setTgt_sigs (s : State) (n : Nat) (x : TgtSt) : (setTgt s n x).sigs = s.sigs := rfl
@[simp] theorem setTgt_twin (s : State) (n : Nat) (x : TgtSt) : (setTgt s n x).twin = s.twin := rfl
@[simp] theorem setTgt_ras (s : State) (n : Nat) (x : TgtSt) : (setTgt s n x).ras = s.ras := rfl
@[simp] theorem setTgt_aed (s : State) (n : Nat) (x : TgtSt) : (setTgt s n x).aed = s.aed := rfl
@[simp] theorem setTgt_pwr (s : State) (n : Nat) (x : TgtSt) : (setTgt s n x).pwr = s.pwr := rfl
@[simp] theorem setTgt_host (s : State) (n : Nat) (x : TgtSt) : (setTgt s n x).host = s.host := rfl
@[simp] theorem setTgt_col (s : State) (n : Nat) (x : TgtSt) : (setTgt s n x).col = s.col := rfl
@[simp] theorem setTgt_fence (s : State) (n : Nat) (x : TgtSt) : (setTgt s n x).fence = s.fence := rfl
@[simp] theorem setTgt_stgHeld (s : State) (n : Nat) (x : TgtSt) : (setTgt s n x).stgHeld = s.stgHeld := rfl
@[simp] theorem setTgt_stgQ (s : State) (n : Nat) (x : TgtSt) : (setTgt s n x).stgQ = s.stgQ := rfl
@[simp] theorem setTgt_answers (s : State) (n : Nat) (x : TgtSt) : (setTgt s n x).answers = s.answers := rfl

/-! ### setG -/

@[simp] theorem setG_p (k : CoreSt) (n : Nat) (v : Word64) : (setG k n v).p = k.p := rfl
@[simp] theorem setG_d (k : CoreSt) (n : Nat) (v : Word64) : (setG k n v).d = k.d := rfl
@[simp] theorem setG_banks (k : CoreSt) (n : Nat) (v : Word64) : (setG k n v).banks = k.banks := rfl
@[simp] theorem setG_tiles (k : CoreSt) (n : Nat) (v : Word64) : (setG k n v).tiles = k.tiles := rfl
@[simp] theorem setG_tags (k : CoreSt) (n : Nat) (v : Word64) : (setG k n v).tags = k.tags := rfl
@[simp] theorem setG_bound (k : CoreSt) (n : Nat) (v : Word64) : (setG k n v).bound = k.bound := rfl
@[simp] theorem setG_pc (k : CoreSt) (n : Nat) (v : Word64) : (setG k n v).pc = k.pc := rfl
@[simp] theorem setG_hdr (k : CoreSt) (n : Nat) (v : Word64) : (setG k n v).hdr = k.hdr := rfl
@[simp] theorem setG_loops (k : CoreSt) (n : Nat) (v : Word64) : (setG k n v).loops = k.loops := rfl
@[simp] theorem setG_lc0 (k : CoreSt) (n : Nat) (v : Word64) : (setG k n v).lc0 = k.lc0 := rfl
@[simp] theorem setG_lc1 (k : CoreSt) (n : Nat) (v : Word64) : (setG k n v).lc1 = k.lc1 := rfl
@[simp] theorem setG_tokens (k : CoreSt) (n : Nat) (v : Word64) : (setG k n v).tokens = k.tokens := rfl
@[simp] theorem setG_fetched (k : CoreSt) (n : Nat) (v : Word64) : (setG k n v).fetched = k.fetched := rfl
@[simp] theorem setG_skip (k : CoreSt) (n : Nat) (v : Word64) : (setG k n v).skip = k.skip := rfl
@[simp] theorem setG_halting (k : CoreSt) (n : Nat) (v : Word64) : (setG k n v).halting = k.halting := rfl
@[simp] theorem setG_icache (k : CoreSt) (n : Nat) (v : Word64) : (setG k n v).icache = k.icache := rfl
@[simp] theorem setG_spm (k : CoreSt) (n : Nat) (v : Word64) : (setG k n v).spm = k.spm := rfl
@[simp] theorem setG_partSeg (k : CoreSt) (n : Nat) (v : Word64) : (setG k n v).partSeg = k.partSeg := rfl
@[simp] theorem setG_partLen (k : CoreSt) (n : Nat) (v : Word64) : (setG k n v).partLen = k.partLen := rfl
@[simp] theorem setG_station (k : CoreSt) (n : Nat) (v : Word64) : (setG k n v).station = k.station := rfl
@[simp] theorem setG_tscale (k : CoreSt) (n : Nat) (v : Word64) : (setG k n v).tscale = k.tscale := rfl
@[simp] theorem setG_seeds (k : CoreSt) (n : Nat) (v : Word64) : (setG k n v).seeds = k.seeds := rfl
@[simp] theorem setG_curVec (k : CoreSt) (n : Nat) (v : Word64) : (setG k n v).curVec = k.curVec := rfl
@[simp] theorem setG_scaleBuf (k : CoreSt) (n : Nat) (v : Word64) : (setG k n v).scaleBuf = k.scaleBuf := rfl
@[simp] theorem setG_numCnt (k : CoreSt) (n : Nat) (v : Word64) : (setG k n v).numCnt = k.numCnt := rfl
@[simp] theorem setG_numLatch (k : CoreSt) (n : Nat) (v : Word64) : (setG k n v).numLatch = k.numLatch := rfl
@[simp] theorem setG_units (k : CoreSt) (n : Nat) (v : Word64) : (setG k n v).units = k.units := rfl
@[simp] theorem setG_releases (k : CoreSt) (n : Nat) (v : Word64) : (setG k n v).releases = k.releases := rfl
@[simp] theorem setG_reports (k : CoreSt) (n : Nat) (v : Word64) : (setG k n v).reports = k.reports := rfl
@[simp] theorem setG_xfers (k : CoreSt) (n : Nat) (v : Word64) : (setG k n v).xfers = k.xfers := rfl
@[simp] theorem setG_xferSeq (k : CoreSt) (n : Nat) (v : Word64) : (setG k n v).xferSeq = k.xferSeq := rfl
@[simp] theorem setG_winLo (k : CoreSt) (n : Nat) (v : Word64) : (setG k n v).winLo = k.winLo := rfl
@[simp] theorem setG_spills (k : CoreSt) (n : Nat) (v : Word64) : (setG k n v).spills = k.spills := rfl
@[simp] theorem setG_win (k : CoreSt) (n : Nat) (v : Word64) : (setG k n v).win = k.win := rfl
@[simp] theorem setG_winFault (k : CoreSt) (n : Nat) (v : Word64) : (setG k n v).winFault = k.winFault := rfl
@[simp] theorem setG_gateStep (k : CoreSt) (n : Nat) (v : Word64) : (setG k n v).gateStep = k.gateStep := rfl
@[simp] theorem setG_pz (k : CoreSt) (n : Nat) (v : Word64) : (setG k n v).pz = k.pz := rfl
@[simp] theorem setG_pzArmed (k : CoreSt) (n : Nat) (v : Word64) : (setG k n v).pzArmed = k.pzArmed := rfl
@[simp] theorem setG_events (k : CoreSt) (n : Nat) (v : Word64) : (setG k n v).events = k.events := rfl
@[simp] theorem setG_injCell (k : CoreSt) (n : Nat) (v : Word64) : (setG k n v).injCell = k.injCell := rfl
@[simp] theorem setG_injPar (k : CoreSt) (n : Nat) (v : Word64) : (setG k n v).injPar = k.injPar := rfl
@[simp] theorem setG_drainPar (k : CoreSt) (n : Nat) (v : Word64) : (setG k n v).drainPar = k.drainPar := rfl
@[simp] theorem setG_beatHold (k : CoreSt) (n : Nat) (v : Word64) : (setG k n v).beatHold = k.beatHold := rfl
@[simp] theorem setG_issued (k : CoreSt) (n : Nat) (v : Word64) : (setG k n v).issued = k.issued := rfl
@[simp] theorem setG_heldWr (k : CoreSt) (n : Nat) (v : Word64) : (setG k n v).heldWr = k.heldWr := rfl
@[simp] theorem setG_item (k : CoreSt) (n : Nat) (v : Word64) : (setG k n v).item = k.item := rfl
@[simp] theorem setG_warm (k : CoreSt) (n : Nat) (v : Word64) : (setG k n v).warm = k.warm := rfl

/-! ### setD -/

@[simp] theorem setD_g (k : CoreSt) (n : Nat) (v : DescReg) : (setD k n v).g = k.g := rfl
@[simp] theorem setD_p (k : CoreSt) (n : Nat) (v : DescReg) : (setD k n v).p = k.p := rfl
@[simp] theorem setD_banks (k : CoreSt) (n : Nat) (v : DescReg) : (setD k n v).banks = k.banks := rfl
@[simp] theorem setD_tiles (k : CoreSt) (n : Nat) (v : DescReg) : (setD k n v).tiles = k.tiles := rfl
@[simp] theorem setD_tags (k : CoreSt) (n : Nat) (v : DescReg) : (setD k n v).tags = k.tags := rfl
@[simp] theorem setD_bound (k : CoreSt) (n : Nat) (v : DescReg) : (setD k n v).bound = k.bound := rfl
@[simp] theorem setD_pc (k : CoreSt) (n : Nat) (v : DescReg) : (setD k n v).pc = k.pc := rfl
@[simp] theorem setD_hdr (k : CoreSt) (n : Nat) (v : DescReg) : (setD k n v).hdr = k.hdr := rfl
@[simp] theorem setD_loops (k : CoreSt) (n : Nat) (v : DescReg) : (setD k n v).loops = k.loops := rfl
@[simp] theorem setD_lc0 (k : CoreSt) (n : Nat) (v : DescReg) : (setD k n v).lc0 = k.lc0 := rfl
@[simp] theorem setD_lc1 (k : CoreSt) (n : Nat) (v : DescReg) : (setD k n v).lc1 = k.lc1 := rfl
@[simp] theorem setD_tokens (k : CoreSt) (n : Nat) (v : DescReg) : (setD k n v).tokens = k.tokens := rfl
@[simp] theorem setD_fetched (k : CoreSt) (n : Nat) (v : DescReg) : (setD k n v).fetched = k.fetched := rfl
@[simp] theorem setD_skip (k : CoreSt) (n : Nat) (v : DescReg) : (setD k n v).skip = k.skip := rfl
@[simp] theorem setD_halting (k : CoreSt) (n : Nat) (v : DescReg) : (setD k n v).halting = k.halting := rfl
@[simp] theorem setD_icache (k : CoreSt) (n : Nat) (v : DescReg) : (setD k n v).icache = k.icache := rfl
@[simp] theorem setD_spm (k : CoreSt) (n : Nat) (v : DescReg) : (setD k n v).spm = k.spm := rfl
@[simp] theorem setD_partSeg (k : CoreSt) (n : Nat) (v : DescReg) : (setD k n v).partSeg = k.partSeg := rfl
@[simp] theorem setD_partLen (k : CoreSt) (n : Nat) (v : DescReg) : (setD k n v).partLen = k.partLen := rfl
@[simp] theorem setD_station (k : CoreSt) (n : Nat) (v : DescReg) : (setD k n v).station = k.station := rfl
@[simp] theorem setD_tscale (k : CoreSt) (n : Nat) (v : DescReg) : (setD k n v).tscale = k.tscale := rfl
@[simp] theorem setD_seeds (k : CoreSt) (n : Nat) (v : DescReg) : (setD k n v).seeds = k.seeds := rfl
@[simp] theorem setD_curVec (k : CoreSt) (n : Nat) (v : DescReg) : (setD k n v).curVec = k.curVec := rfl
@[simp] theorem setD_scaleBuf (k : CoreSt) (n : Nat) (v : DescReg) : (setD k n v).scaleBuf = k.scaleBuf := rfl
@[simp] theorem setD_numCnt (k : CoreSt) (n : Nat) (v : DescReg) : (setD k n v).numCnt = k.numCnt := rfl
@[simp] theorem setD_numLatch (k : CoreSt) (n : Nat) (v : DescReg) : (setD k n v).numLatch = k.numLatch := rfl
@[simp] theorem setD_units (k : CoreSt) (n : Nat) (v : DescReg) : (setD k n v).units = k.units := rfl
@[simp] theorem setD_releases (k : CoreSt) (n : Nat) (v : DescReg) : (setD k n v).releases = k.releases := rfl
@[simp] theorem setD_reports (k : CoreSt) (n : Nat) (v : DescReg) : (setD k n v).reports = k.reports := rfl
@[simp] theorem setD_xfers (k : CoreSt) (n : Nat) (v : DescReg) : (setD k n v).xfers = k.xfers := rfl
@[simp] theorem setD_xferSeq (k : CoreSt) (n : Nat) (v : DescReg) : (setD k n v).xferSeq = k.xferSeq := rfl
@[simp] theorem setD_winLo (k : CoreSt) (n : Nat) (v : DescReg) : (setD k n v).winLo = k.winLo := rfl
@[simp] theorem setD_spills (k : CoreSt) (n : Nat) (v : DescReg) : (setD k n v).spills = k.spills := rfl
@[simp] theorem setD_win (k : CoreSt) (n : Nat) (v : DescReg) : (setD k n v).win = k.win := rfl
@[simp] theorem setD_winFault (k : CoreSt) (n : Nat) (v : DescReg) : (setD k n v).winFault = k.winFault := rfl
@[simp] theorem setD_gateStep (k : CoreSt) (n : Nat) (v : DescReg) : (setD k n v).gateStep = k.gateStep := rfl
@[simp] theorem setD_pz (k : CoreSt) (n : Nat) (v : DescReg) : (setD k n v).pz = k.pz := rfl
@[simp] theorem setD_pzArmed (k : CoreSt) (n : Nat) (v : DescReg) : (setD k n v).pzArmed = k.pzArmed := rfl
@[simp] theorem setD_events (k : CoreSt) (n : Nat) (v : DescReg) : (setD k n v).events = k.events := rfl
@[simp] theorem setD_injCell (k : CoreSt) (n : Nat) (v : DescReg) : (setD k n v).injCell = k.injCell := rfl
@[simp] theorem setD_injPar (k : CoreSt) (n : Nat) (v : DescReg) : (setD k n v).injPar = k.injPar := rfl
@[simp] theorem setD_drainPar (k : CoreSt) (n : Nat) (v : DescReg) : (setD k n v).drainPar = k.drainPar := rfl
@[simp] theorem setD_beatHold (k : CoreSt) (n : Nat) (v : DescReg) : (setD k n v).beatHold = k.beatHold := rfl
@[simp] theorem setD_issued (k : CoreSt) (n : Nat) (v : DescReg) : (setD k n v).issued = k.issued := rfl
@[simp] theorem setD_heldWr (k : CoreSt) (n : Nat) (v : DescReg) : (setD k n v).heldWr = k.heldWr := rfl
@[simp] theorem setD_item (k : CoreSt) (n : Nat) (v : DescReg) : (setD k n v).item = k.item := rfl
@[simp] theorem setD_warm (k : CoreSt) (n : Nat) (v : DescReg) : (setD k n v).warm = k.warm := rfl

/-! ### setBank -/

@[simp] theorem setBank_g (k : CoreSt) (n : Nat) (t : Tile) : (setBank k n t).g = k.g := rfl
@[simp] theorem setBank_p (k : CoreSt) (n : Nat) (t : Tile) : (setBank k n t).p = k.p := rfl
@[simp] theorem setBank_d (k : CoreSt) (n : Nat) (t : Tile) : (setBank k n t).d = k.d := rfl
@[simp] theorem setBank_tiles (k : CoreSt) (n : Nat) (t : Tile) : (setBank k n t).tiles = k.tiles := rfl
@[simp] theorem setBank_tags (k : CoreSt) (n : Nat) (t : Tile) : (setBank k n t).tags = k.tags := rfl
@[simp] theorem setBank_bound (k : CoreSt) (n : Nat) (t : Tile) : (setBank k n t).bound = k.bound := rfl
@[simp] theorem setBank_pc (k : CoreSt) (n : Nat) (t : Tile) : (setBank k n t).pc = k.pc := rfl
@[simp] theorem setBank_hdr (k : CoreSt) (n : Nat) (t : Tile) : (setBank k n t).hdr = k.hdr := rfl
@[simp] theorem setBank_loops (k : CoreSt) (n : Nat) (t : Tile) : (setBank k n t).loops = k.loops := rfl
@[simp] theorem setBank_lc0 (k : CoreSt) (n : Nat) (t : Tile) : (setBank k n t).lc0 = k.lc0 := rfl
@[simp] theorem setBank_lc1 (k : CoreSt) (n : Nat) (t : Tile) : (setBank k n t).lc1 = k.lc1 := rfl
@[simp] theorem setBank_tokens (k : CoreSt) (n : Nat) (t : Tile) : (setBank k n t).tokens = k.tokens := rfl
@[simp] theorem setBank_fetched (k : CoreSt) (n : Nat) (t : Tile) : (setBank k n t).fetched = k.fetched := rfl
@[simp] theorem setBank_skip (k : CoreSt) (n : Nat) (t : Tile) : (setBank k n t).skip = k.skip := rfl
@[simp] theorem setBank_halting (k : CoreSt) (n : Nat) (t : Tile) : (setBank k n t).halting = k.halting := rfl
@[simp] theorem setBank_icache (k : CoreSt) (n : Nat) (t : Tile) : (setBank k n t).icache = k.icache := rfl
@[simp] theorem setBank_spm (k : CoreSt) (n : Nat) (t : Tile) : (setBank k n t).spm = k.spm := rfl
@[simp] theorem setBank_partSeg (k : CoreSt) (n : Nat) (t : Tile) : (setBank k n t).partSeg = k.partSeg := rfl
@[simp] theorem setBank_partLen (k : CoreSt) (n : Nat) (t : Tile) : (setBank k n t).partLen = k.partLen := rfl
@[simp] theorem setBank_station (k : CoreSt) (n : Nat) (t : Tile) : (setBank k n t).station = k.station := rfl
@[simp] theorem setBank_tscale (k : CoreSt) (n : Nat) (t : Tile) : (setBank k n t).tscale = k.tscale := rfl
@[simp] theorem setBank_seeds (k : CoreSt) (n : Nat) (t : Tile) : (setBank k n t).seeds = k.seeds := rfl
@[simp] theorem setBank_curVec (k : CoreSt) (n : Nat) (t : Tile) : (setBank k n t).curVec = k.curVec := rfl
@[simp] theorem setBank_scaleBuf (k : CoreSt) (n : Nat) (t : Tile) : (setBank k n t).scaleBuf = k.scaleBuf := rfl
@[simp] theorem setBank_numCnt (k : CoreSt) (n : Nat) (t : Tile) : (setBank k n t).numCnt = k.numCnt := rfl
@[simp] theorem setBank_numLatch (k : CoreSt) (n : Nat) (t : Tile) : (setBank k n t).numLatch = k.numLatch := rfl
@[simp] theorem setBank_units (k : CoreSt) (n : Nat) (t : Tile) : (setBank k n t).units = k.units := rfl
@[simp] theorem setBank_releases (k : CoreSt) (n : Nat) (t : Tile) : (setBank k n t).releases = k.releases := rfl
@[simp] theorem setBank_reports (k : CoreSt) (n : Nat) (t : Tile) : (setBank k n t).reports = k.reports := rfl
@[simp] theorem setBank_xfers (k : CoreSt) (n : Nat) (t : Tile) : (setBank k n t).xfers = k.xfers := rfl
@[simp] theorem setBank_xferSeq (k : CoreSt) (n : Nat) (t : Tile) : (setBank k n t).xferSeq = k.xferSeq := rfl
@[simp] theorem setBank_winLo (k : CoreSt) (n : Nat) (t : Tile) : (setBank k n t).winLo = k.winLo := rfl
@[simp] theorem setBank_spills (k : CoreSt) (n : Nat) (t : Tile) : (setBank k n t).spills = k.spills := rfl
@[simp] theorem setBank_win (k : CoreSt) (n : Nat) (t : Tile) : (setBank k n t).win = k.win := rfl
@[simp] theorem setBank_winFault (k : CoreSt) (n : Nat) (t : Tile) : (setBank k n t).winFault = k.winFault := rfl
@[simp] theorem setBank_gateStep (k : CoreSt) (n : Nat) (t : Tile) : (setBank k n t).gateStep = k.gateStep := rfl
@[simp] theorem setBank_pz (k : CoreSt) (n : Nat) (t : Tile) : (setBank k n t).pz = k.pz := rfl
@[simp] theorem setBank_pzArmed (k : CoreSt) (n : Nat) (t : Tile) : (setBank k n t).pzArmed = k.pzArmed := rfl
@[simp] theorem setBank_events (k : CoreSt) (n : Nat) (t : Tile) : (setBank k n t).events = k.events := rfl
@[simp] theorem setBank_injCell (k : CoreSt) (n : Nat) (t : Tile) : (setBank k n t).injCell = k.injCell := rfl
@[simp] theorem setBank_injPar (k : CoreSt) (n : Nat) (t : Tile) : (setBank k n t).injPar = k.injPar := rfl
@[simp] theorem setBank_drainPar (k : CoreSt) (n : Nat) (t : Tile) : (setBank k n t).drainPar = k.drainPar := rfl
@[simp] theorem setBank_beatHold (k : CoreSt) (n : Nat) (t : Tile) : (setBank k n t).beatHold = k.beatHold := rfl
@[simp] theorem setBank_issued (k : CoreSt) (n : Nat) (t : Tile) : (setBank k n t).issued = k.issued := rfl
@[simp] theorem setBank_heldWr (k : CoreSt) (n : Nat) (t : Tile) : (setBank k n t).heldWr = k.heldWr := rfl
@[simp] theorem setBank_item (k : CoreSt) (n : Nat) (t : Tile) : (setBank k n t).item = k.item := rfl
@[simp] theorem setBank_warm (k : CoreSt) (n : Nat) (t : Tile) : (setBank k n t).warm = k.warm := rfl

/-! ### setTile -/

@[simp] theorem setTile_g (k : CoreSt) (n : Nat) (t : Tile) : (setTile k n t).g = k.g := rfl
@[simp] theorem setTile_p (k : CoreSt) (n : Nat) (t : Tile) : (setTile k n t).p = k.p := rfl
@[simp] theorem setTile_d (k : CoreSt) (n : Nat) (t : Tile) : (setTile k n t).d = k.d := rfl
@[simp] theorem setTile_banks (k : CoreSt) (n : Nat) (t : Tile) : (setTile k n t).banks = k.banks := rfl
@[simp] theorem setTile_tags (k : CoreSt) (n : Nat) (t : Tile) : (setTile k n t).tags = k.tags := rfl
@[simp] theorem setTile_bound (k : CoreSt) (n : Nat) (t : Tile) : (setTile k n t).bound = k.bound := rfl
@[simp] theorem setTile_pc (k : CoreSt) (n : Nat) (t : Tile) : (setTile k n t).pc = k.pc := rfl
@[simp] theorem setTile_hdr (k : CoreSt) (n : Nat) (t : Tile) : (setTile k n t).hdr = k.hdr := rfl
@[simp] theorem setTile_loops (k : CoreSt) (n : Nat) (t : Tile) : (setTile k n t).loops = k.loops := rfl
@[simp] theorem setTile_lc0 (k : CoreSt) (n : Nat) (t : Tile) : (setTile k n t).lc0 = k.lc0 := rfl
@[simp] theorem setTile_lc1 (k : CoreSt) (n : Nat) (t : Tile) : (setTile k n t).lc1 = k.lc1 := rfl
@[simp] theorem setTile_tokens (k : CoreSt) (n : Nat) (t : Tile) : (setTile k n t).tokens = k.tokens := rfl
@[simp] theorem setTile_fetched (k : CoreSt) (n : Nat) (t : Tile) : (setTile k n t).fetched = k.fetched := rfl
@[simp] theorem setTile_skip (k : CoreSt) (n : Nat) (t : Tile) : (setTile k n t).skip = k.skip := rfl
@[simp] theorem setTile_halting (k : CoreSt) (n : Nat) (t : Tile) : (setTile k n t).halting = k.halting := rfl
@[simp] theorem setTile_icache (k : CoreSt) (n : Nat) (t : Tile) : (setTile k n t).icache = k.icache := rfl
@[simp] theorem setTile_spm (k : CoreSt) (n : Nat) (t : Tile) : (setTile k n t).spm = k.spm := rfl
@[simp] theorem setTile_partSeg (k : CoreSt) (n : Nat) (t : Tile) : (setTile k n t).partSeg = k.partSeg := rfl
@[simp] theorem setTile_partLen (k : CoreSt) (n : Nat) (t : Tile) : (setTile k n t).partLen = k.partLen := rfl
@[simp] theorem setTile_station (k : CoreSt) (n : Nat) (t : Tile) : (setTile k n t).station = k.station := rfl
@[simp] theorem setTile_tscale (k : CoreSt) (n : Nat) (t : Tile) : (setTile k n t).tscale = k.tscale := rfl
@[simp] theorem setTile_seeds (k : CoreSt) (n : Nat) (t : Tile) : (setTile k n t).seeds = k.seeds := rfl
@[simp] theorem setTile_curVec (k : CoreSt) (n : Nat) (t : Tile) : (setTile k n t).curVec = k.curVec := rfl
@[simp] theorem setTile_scaleBuf (k : CoreSt) (n : Nat) (t : Tile) : (setTile k n t).scaleBuf = k.scaleBuf := rfl
@[simp] theorem setTile_numCnt (k : CoreSt) (n : Nat) (t : Tile) : (setTile k n t).numCnt = k.numCnt := rfl
@[simp] theorem setTile_numLatch (k : CoreSt) (n : Nat) (t : Tile) : (setTile k n t).numLatch = k.numLatch := rfl
@[simp] theorem setTile_units (k : CoreSt) (n : Nat) (t : Tile) : (setTile k n t).units = k.units := rfl
@[simp] theorem setTile_releases (k : CoreSt) (n : Nat) (t : Tile) : (setTile k n t).releases = k.releases := rfl
@[simp] theorem setTile_reports (k : CoreSt) (n : Nat) (t : Tile) : (setTile k n t).reports = k.reports := rfl
@[simp] theorem setTile_xfers (k : CoreSt) (n : Nat) (t : Tile) : (setTile k n t).xfers = k.xfers := rfl
@[simp] theorem setTile_xferSeq (k : CoreSt) (n : Nat) (t : Tile) : (setTile k n t).xferSeq = k.xferSeq := rfl
@[simp] theorem setTile_winLo (k : CoreSt) (n : Nat) (t : Tile) : (setTile k n t).winLo = k.winLo := rfl
@[simp] theorem setTile_spills (k : CoreSt) (n : Nat) (t : Tile) : (setTile k n t).spills = k.spills := rfl
@[simp] theorem setTile_win (k : CoreSt) (n : Nat) (t : Tile) : (setTile k n t).win = k.win := rfl
@[simp] theorem setTile_winFault (k : CoreSt) (n : Nat) (t : Tile) : (setTile k n t).winFault = k.winFault := rfl
@[simp] theorem setTile_gateStep (k : CoreSt) (n : Nat) (t : Tile) : (setTile k n t).gateStep = k.gateStep := rfl
@[simp] theorem setTile_pz (k : CoreSt) (n : Nat) (t : Tile) : (setTile k n t).pz = k.pz := rfl
@[simp] theorem setTile_pzArmed (k : CoreSt) (n : Nat) (t : Tile) : (setTile k n t).pzArmed = k.pzArmed := rfl
@[simp] theorem setTile_events (k : CoreSt) (n : Nat) (t : Tile) : (setTile k n t).events = k.events := rfl
@[simp] theorem setTile_injCell (k : CoreSt) (n : Nat) (t : Tile) : (setTile k n t).injCell = k.injCell := rfl
@[simp] theorem setTile_injPar (k : CoreSt) (n : Nat) (t : Tile) : (setTile k n t).injPar = k.injPar := rfl
@[simp] theorem setTile_drainPar (k : CoreSt) (n : Nat) (t : Tile) : (setTile k n t).drainPar = k.drainPar := rfl
@[simp] theorem setTile_beatHold (k : CoreSt) (n : Nat) (t : Tile) : (setTile k n t).beatHold = k.beatHold := rfl
@[simp] theorem setTile_issued (k : CoreSt) (n : Nat) (t : Tile) : (setTile k n t).issued = k.issued := rfl
@[simp] theorem setTile_heldWr (k : CoreSt) (n : Nat) (t : Tile) : (setTile k n t).heldWr = k.heldWr := rfl
@[simp] theorem setTile_item (k : CoreSt) (n : Nat) (t : Tile) : (setTile k n t).item = k.item := rfl
@[simp] theorem setTile_warm (k : CoreSt) (n : Nat) (t : Tile) : (setTile k n t).warm = k.warm := rfl

/-! ### setUnitOps -/

@[simp] theorem setUnitOps_g (k : CoreSt) (u : Nat) (l : List UnitOp) : (setUnitOps k u l).g = k.g := rfl
@[simp] theorem setUnitOps_p (k : CoreSt) (u : Nat) (l : List UnitOp) : (setUnitOps k u l).p = k.p := rfl
@[simp] theorem setUnitOps_d (k : CoreSt) (u : Nat) (l : List UnitOp) : (setUnitOps k u l).d = k.d := rfl
@[simp] theorem setUnitOps_banks (k : CoreSt) (u : Nat) (l : List UnitOp) : (setUnitOps k u l).banks = k.banks := rfl
@[simp] theorem setUnitOps_tiles (k : CoreSt) (u : Nat) (l : List UnitOp) : (setUnitOps k u l).tiles = k.tiles := rfl
@[simp] theorem setUnitOps_tags (k : CoreSt) (u : Nat) (l : List UnitOp) : (setUnitOps k u l).tags = k.tags := rfl
@[simp] theorem setUnitOps_bound (k : CoreSt) (u : Nat) (l : List UnitOp) : (setUnitOps k u l).bound = k.bound := rfl
@[simp] theorem setUnitOps_pc (k : CoreSt) (u : Nat) (l : List UnitOp) : (setUnitOps k u l).pc = k.pc := rfl
@[simp] theorem setUnitOps_hdr (k : CoreSt) (u : Nat) (l : List UnitOp) : (setUnitOps k u l).hdr = k.hdr := rfl
@[simp] theorem setUnitOps_loops (k : CoreSt) (u : Nat) (l : List UnitOp) : (setUnitOps k u l).loops = k.loops := rfl
@[simp] theorem setUnitOps_lc0 (k : CoreSt) (u : Nat) (l : List UnitOp) : (setUnitOps k u l).lc0 = k.lc0 := rfl
@[simp] theorem setUnitOps_lc1 (k : CoreSt) (u : Nat) (l : List UnitOp) : (setUnitOps k u l).lc1 = k.lc1 := rfl
@[simp] theorem setUnitOps_tokens (k : CoreSt) (u : Nat) (l : List UnitOp) : (setUnitOps k u l).tokens = k.tokens := rfl
@[simp] theorem setUnitOps_fetched (k : CoreSt) (u : Nat) (l : List UnitOp) : (setUnitOps k u l).fetched = k.fetched := rfl
@[simp] theorem setUnitOps_skip (k : CoreSt) (u : Nat) (l : List UnitOp) : (setUnitOps k u l).skip = k.skip := rfl
@[simp] theorem setUnitOps_halting (k : CoreSt) (u : Nat) (l : List UnitOp) : (setUnitOps k u l).halting = k.halting := rfl
@[simp] theorem setUnitOps_icache (k : CoreSt) (u : Nat) (l : List UnitOp) : (setUnitOps k u l).icache = k.icache := rfl
@[simp] theorem setUnitOps_spm (k : CoreSt) (u : Nat) (l : List UnitOp) : (setUnitOps k u l).spm = k.spm := rfl
@[simp] theorem setUnitOps_partSeg (k : CoreSt) (u : Nat) (l : List UnitOp) : (setUnitOps k u l).partSeg = k.partSeg := rfl
@[simp] theorem setUnitOps_partLen (k : CoreSt) (u : Nat) (l : List UnitOp) : (setUnitOps k u l).partLen = k.partLen := rfl
@[simp] theorem setUnitOps_station (k : CoreSt) (u : Nat) (l : List UnitOp) : (setUnitOps k u l).station = k.station := rfl
@[simp] theorem setUnitOps_tscale (k : CoreSt) (u : Nat) (l : List UnitOp) : (setUnitOps k u l).tscale = k.tscale := rfl
@[simp] theorem setUnitOps_seeds (k : CoreSt) (u : Nat) (l : List UnitOp) : (setUnitOps k u l).seeds = k.seeds := rfl
@[simp] theorem setUnitOps_curVec (k : CoreSt) (u : Nat) (l : List UnitOp) : (setUnitOps k u l).curVec = k.curVec := rfl
@[simp] theorem setUnitOps_scaleBuf (k : CoreSt) (u : Nat) (l : List UnitOp) : (setUnitOps k u l).scaleBuf = k.scaleBuf := rfl
@[simp] theorem setUnitOps_numCnt (k : CoreSt) (u : Nat) (l : List UnitOp) : (setUnitOps k u l).numCnt = k.numCnt := rfl
@[simp] theorem setUnitOps_numLatch (k : CoreSt) (u : Nat) (l : List UnitOp) : (setUnitOps k u l).numLatch = k.numLatch := rfl
@[simp] theorem setUnitOps_releases (k : CoreSt) (u : Nat) (l : List UnitOp) : (setUnitOps k u l).releases = k.releases := rfl
@[simp] theorem setUnitOps_reports (k : CoreSt) (u : Nat) (l : List UnitOp) : (setUnitOps k u l).reports = k.reports := rfl
@[simp] theorem setUnitOps_xfers (k : CoreSt) (u : Nat) (l : List UnitOp) : (setUnitOps k u l).xfers = k.xfers := rfl
@[simp] theorem setUnitOps_xferSeq (k : CoreSt) (u : Nat) (l : List UnitOp) : (setUnitOps k u l).xferSeq = k.xferSeq := rfl
@[simp] theorem setUnitOps_winLo (k : CoreSt) (u : Nat) (l : List UnitOp) : (setUnitOps k u l).winLo = k.winLo := rfl
@[simp] theorem setUnitOps_spills (k : CoreSt) (u : Nat) (l : List UnitOp) : (setUnitOps k u l).spills = k.spills := rfl
@[simp] theorem setUnitOps_win (k : CoreSt) (u : Nat) (l : List UnitOp) : (setUnitOps k u l).win = k.win := rfl
@[simp] theorem setUnitOps_winFault (k : CoreSt) (u : Nat) (l : List UnitOp) : (setUnitOps k u l).winFault = k.winFault := rfl
@[simp] theorem setUnitOps_gateStep (k : CoreSt) (u : Nat) (l : List UnitOp) : (setUnitOps k u l).gateStep = k.gateStep := rfl
@[simp] theorem setUnitOps_pz (k : CoreSt) (u : Nat) (l : List UnitOp) : (setUnitOps k u l).pz = k.pz := rfl
@[simp] theorem setUnitOps_pzArmed (k : CoreSt) (u : Nat) (l : List UnitOp) : (setUnitOps k u l).pzArmed = k.pzArmed := rfl
@[simp] theorem setUnitOps_events (k : CoreSt) (u : Nat) (l : List UnitOp) : (setUnitOps k u l).events = k.events := rfl
@[simp] theorem setUnitOps_injCell (k : CoreSt) (u : Nat) (l : List UnitOp) : (setUnitOps k u l).injCell = k.injCell := rfl
@[simp] theorem setUnitOps_injPar (k : CoreSt) (u : Nat) (l : List UnitOp) : (setUnitOps k u l).injPar = k.injPar := rfl
@[simp] theorem setUnitOps_drainPar (k : CoreSt) (u : Nat) (l : List UnitOp) : (setUnitOps k u l).drainPar = k.drainPar := rfl
@[simp] theorem setUnitOps_beatHold (k : CoreSt) (u : Nat) (l : List UnitOp) : (setUnitOps k u l).beatHold = k.beatHold := rfl
@[simp] theorem setUnitOps_issued (k : CoreSt) (u : Nat) (l : List UnitOp) : (setUnitOps k u l).issued = k.issued := rfl
@[simp] theorem setUnitOps_heldWr (k : CoreSt) (u : Nat) (l : List UnitOp) : (setUnitOps k u l).heldWr = k.heldWr := rfl
@[simp] theorem setUnitOps_item (k : CoreSt) (u : Nat) (l : List UnitOp) : (setUnitOps k u l).item = k.item := rfl
@[simp] theorem setUnitOps_warm (k : CoreSt) (u : Nat) (l : List UnitOp) : (setUnitOps k u l).warm = k.warm := rfl

/-! ### setReleases -/

@[simp] theorem setReleases_g (k : CoreSt) (a : Nat) (l : List Nat) : (setReleases k a l).g = k.g := rfl
@[simp] theorem setReleases_p (k : CoreSt) (a : Nat) (l : List Nat) : (setReleases k a l).p = k.p := rfl
@[simp] theorem setReleases_d (k : CoreSt) (a : Nat) (l : List Nat) : (setReleases k a l).d = k.d := rfl
@[simp] theorem setReleases_banks (k : CoreSt) (a : Nat) (l : List Nat) : (setReleases k a l).banks = k.banks := rfl
@[simp] theorem setReleases_tiles (k : CoreSt) (a : Nat) (l : List Nat) : (setReleases k a l).tiles = k.tiles := rfl
@[simp] theorem setReleases_tags (k : CoreSt) (a : Nat) (l : List Nat) : (setReleases k a l).tags = k.tags := rfl
@[simp] theorem setReleases_bound (k : CoreSt) (a : Nat) (l : List Nat) : (setReleases k a l).bound = k.bound := rfl
@[simp] theorem setReleases_pc (k : CoreSt) (a : Nat) (l : List Nat) : (setReleases k a l).pc = k.pc := rfl
@[simp] theorem setReleases_hdr (k : CoreSt) (a : Nat) (l : List Nat) : (setReleases k a l).hdr = k.hdr := rfl
@[simp] theorem setReleases_loops (k : CoreSt) (a : Nat) (l : List Nat) : (setReleases k a l).loops = k.loops := rfl
@[simp] theorem setReleases_lc0 (k : CoreSt) (a : Nat) (l : List Nat) : (setReleases k a l).lc0 = k.lc0 := rfl
@[simp] theorem setReleases_lc1 (k : CoreSt) (a : Nat) (l : List Nat) : (setReleases k a l).lc1 = k.lc1 := rfl
@[simp] theorem setReleases_tokens (k : CoreSt) (a : Nat) (l : List Nat) : (setReleases k a l).tokens = k.tokens := rfl
@[simp] theorem setReleases_fetched (k : CoreSt) (a : Nat) (l : List Nat) : (setReleases k a l).fetched = k.fetched := rfl
@[simp] theorem setReleases_skip (k : CoreSt) (a : Nat) (l : List Nat) : (setReleases k a l).skip = k.skip := rfl
@[simp] theorem setReleases_halting (k : CoreSt) (a : Nat) (l : List Nat) : (setReleases k a l).halting = k.halting := rfl
@[simp] theorem setReleases_icache (k : CoreSt) (a : Nat) (l : List Nat) : (setReleases k a l).icache = k.icache := rfl
@[simp] theorem setReleases_spm (k : CoreSt) (a : Nat) (l : List Nat) : (setReleases k a l).spm = k.spm := rfl
@[simp] theorem setReleases_partSeg (k : CoreSt) (a : Nat) (l : List Nat) : (setReleases k a l).partSeg = k.partSeg := rfl
@[simp] theorem setReleases_partLen (k : CoreSt) (a : Nat) (l : List Nat) : (setReleases k a l).partLen = k.partLen := rfl
@[simp] theorem setReleases_station (k : CoreSt) (a : Nat) (l : List Nat) : (setReleases k a l).station = k.station := rfl
@[simp] theorem setReleases_tscale (k : CoreSt) (a : Nat) (l : List Nat) : (setReleases k a l).tscale = k.tscale := rfl
@[simp] theorem setReleases_seeds (k : CoreSt) (a : Nat) (l : List Nat) : (setReleases k a l).seeds = k.seeds := rfl
@[simp] theorem setReleases_curVec (k : CoreSt) (a : Nat) (l : List Nat) : (setReleases k a l).curVec = k.curVec := rfl
@[simp] theorem setReleases_scaleBuf (k : CoreSt) (a : Nat) (l : List Nat) : (setReleases k a l).scaleBuf = k.scaleBuf := rfl
@[simp] theorem setReleases_numCnt (k : CoreSt) (a : Nat) (l : List Nat) : (setReleases k a l).numCnt = k.numCnt := rfl
@[simp] theorem setReleases_numLatch (k : CoreSt) (a : Nat) (l : List Nat) : (setReleases k a l).numLatch = k.numLatch := rfl
@[simp] theorem setReleases_units (k : CoreSt) (a : Nat) (l : List Nat) : (setReleases k a l).units = k.units := rfl
@[simp] theorem setReleases_reports (k : CoreSt) (a : Nat) (l : List Nat) : (setReleases k a l).reports = k.reports := rfl
@[simp] theorem setReleases_xfers (k : CoreSt) (a : Nat) (l : List Nat) : (setReleases k a l).xfers = k.xfers := rfl
@[simp] theorem setReleases_xferSeq (k : CoreSt) (a : Nat) (l : List Nat) : (setReleases k a l).xferSeq = k.xferSeq := rfl
@[simp] theorem setReleases_winLo (k : CoreSt) (a : Nat) (l : List Nat) : (setReleases k a l).winLo = k.winLo := rfl
@[simp] theorem setReleases_spills (k : CoreSt) (a : Nat) (l : List Nat) : (setReleases k a l).spills = k.spills := rfl
@[simp] theorem setReleases_win (k : CoreSt) (a : Nat) (l : List Nat) : (setReleases k a l).win = k.win := rfl
@[simp] theorem setReleases_winFault (k : CoreSt) (a : Nat) (l : List Nat) : (setReleases k a l).winFault = k.winFault := rfl
@[simp] theorem setReleases_gateStep (k : CoreSt) (a : Nat) (l : List Nat) : (setReleases k a l).gateStep = k.gateStep := rfl
@[simp] theorem setReleases_pz (k : CoreSt) (a : Nat) (l : List Nat) : (setReleases k a l).pz = k.pz := rfl
@[simp] theorem setReleases_pzArmed (k : CoreSt) (a : Nat) (l : List Nat) : (setReleases k a l).pzArmed = k.pzArmed := rfl
@[simp] theorem setReleases_events (k : CoreSt) (a : Nat) (l : List Nat) : (setReleases k a l).events = k.events := rfl
@[simp] theorem setReleases_injCell (k : CoreSt) (a : Nat) (l : List Nat) : (setReleases k a l).injCell = k.injCell := rfl
@[simp] theorem setReleases_injPar (k : CoreSt) (a : Nat) (l : List Nat) : (setReleases k a l).injPar = k.injPar := rfl
@[simp] theorem setReleases_drainPar (k : CoreSt) (a : Nat) (l : List Nat) : (setReleases k a l).drainPar = k.drainPar := rfl
@[simp] theorem setReleases_beatHold (k : CoreSt) (a : Nat) (l : List Nat) : (setReleases k a l).beatHold = k.beatHold := rfl
@[simp] theorem setReleases_issued (k : CoreSt) (a : Nat) (l : List Nat) : (setReleases k a l).issued = k.issued := rfl
@[simp] theorem setReleases_heldWr (k : CoreSt) (a : Nat) (l : List Nat) : (setReleases k a l).heldWr = k.heldWr := rfl
@[simp] theorem setReleases_item (k : CoreSt) (a : Nat) (l : List Nat) : (setReleases k a l).item = k.item := rfl
@[simp] theorem setReleases_warm (k : CoreSt) (a : Nat) (l : List Nat) : (setReleases k a l).warm = k.warm := rfl

/-! ### setToken -/

@[simp] theorem setToken_g (k : CoreSt) (n v : Nat) : (setToken k n v).g = k.g := rfl
@[simp] theorem setToken_p (k : CoreSt) (n v : Nat) : (setToken k n v).p = k.p := rfl
@[simp] theorem setToken_d (k : CoreSt) (n v : Nat) : (setToken k n v).d = k.d := rfl
@[simp] theorem setToken_banks (k : CoreSt) (n v : Nat) : (setToken k n v).banks = k.banks := rfl
@[simp] theorem setToken_tiles (k : CoreSt) (n v : Nat) : (setToken k n v).tiles = k.tiles := rfl
@[simp] theorem setToken_tags (k : CoreSt) (n v : Nat) : (setToken k n v).tags = k.tags := rfl
@[simp] theorem setToken_bound (k : CoreSt) (n v : Nat) : (setToken k n v).bound = k.bound := rfl
@[simp] theorem setToken_pc (k : CoreSt) (n v : Nat) : (setToken k n v).pc = k.pc := rfl
@[simp] theorem setToken_hdr (k : CoreSt) (n v : Nat) : (setToken k n v).hdr = k.hdr := rfl
@[simp] theorem setToken_loops (k : CoreSt) (n v : Nat) : (setToken k n v).loops = k.loops := rfl
@[simp] theorem setToken_lc0 (k : CoreSt) (n v : Nat) : (setToken k n v).lc0 = k.lc0 := rfl
@[simp] theorem setToken_lc1 (k : CoreSt) (n v : Nat) : (setToken k n v).lc1 = k.lc1 := rfl
@[simp] theorem setToken_fetched (k : CoreSt) (n v : Nat) : (setToken k n v).fetched = k.fetched := rfl
@[simp] theorem setToken_skip (k : CoreSt) (n v : Nat) : (setToken k n v).skip = k.skip := rfl
@[simp] theorem setToken_halting (k : CoreSt) (n v : Nat) : (setToken k n v).halting = k.halting := rfl
@[simp] theorem setToken_icache (k : CoreSt) (n v : Nat) : (setToken k n v).icache = k.icache := rfl
@[simp] theorem setToken_spm (k : CoreSt) (n v : Nat) : (setToken k n v).spm = k.spm := rfl
@[simp] theorem setToken_partSeg (k : CoreSt) (n v : Nat) : (setToken k n v).partSeg = k.partSeg := rfl
@[simp] theorem setToken_partLen (k : CoreSt) (n v : Nat) : (setToken k n v).partLen = k.partLen := rfl
@[simp] theorem setToken_station (k : CoreSt) (n v : Nat) : (setToken k n v).station = k.station := rfl
@[simp] theorem setToken_tscale (k : CoreSt) (n v : Nat) : (setToken k n v).tscale = k.tscale := rfl
@[simp] theorem setToken_seeds (k : CoreSt) (n v : Nat) : (setToken k n v).seeds = k.seeds := rfl
@[simp] theorem setToken_curVec (k : CoreSt) (n v : Nat) : (setToken k n v).curVec = k.curVec := rfl
@[simp] theorem setToken_scaleBuf (k : CoreSt) (n v : Nat) : (setToken k n v).scaleBuf = k.scaleBuf := rfl
@[simp] theorem setToken_numCnt (k : CoreSt) (n v : Nat) : (setToken k n v).numCnt = k.numCnt := rfl
@[simp] theorem setToken_numLatch (k : CoreSt) (n v : Nat) : (setToken k n v).numLatch = k.numLatch := rfl
@[simp] theorem setToken_units (k : CoreSt) (n v : Nat) : (setToken k n v).units = k.units := rfl
@[simp] theorem setToken_releases (k : CoreSt) (n v : Nat) : (setToken k n v).releases = k.releases := rfl
@[simp] theorem setToken_reports (k : CoreSt) (n v : Nat) : (setToken k n v).reports = k.reports := rfl
@[simp] theorem setToken_xfers (k : CoreSt) (n v : Nat) : (setToken k n v).xfers = k.xfers := rfl
@[simp] theorem setToken_xferSeq (k : CoreSt) (n v : Nat) : (setToken k n v).xferSeq = k.xferSeq := rfl
@[simp] theorem setToken_winLo (k : CoreSt) (n v : Nat) : (setToken k n v).winLo = k.winLo := rfl
@[simp] theorem setToken_spills (k : CoreSt) (n v : Nat) : (setToken k n v).spills = k.spills := rfl
@[simp] theorem setToken_win (k : CoreSt) (n v : Nat) : (setToken k n v).win = k.win := rfl
@[simp] theorem setToken_winFault (k : CoreSt) (n v : Nat) : (setToken k n v).winFault = k.winFault := rfl
@[simp] theorem setToken_gateStep (k : CoreSt) (n v : Nat) : (setToken k n v).gateStep = k.gateStep := rfl
@[simp] theorem setToken_pz (k : CoreSt) (n v : Nat) : (setToken k n v).pz = k.pz := rfl
@[simp] theorem setToken_pzArmed (k : CoreSt) (n v : Nat) : (setToken k n v).pzArmed = k.pzArmed := rfl
@[simp] theorem setToken_events (k : CoreSt) (n v : Nat) : (setToken k n v).events = k.events := rfl
@[simp] theorem setToken_injCell (k : CoreSt) (n v : Nat) : (setToken k n v).injCell = k.injCell := rfl
@[simp] theorem setToken_injPar (k : CoreSt) (n v : Nat) : (setToken k n v).injPar = k.injPar := rfl
@[simp] theorem setToken_drainPar (k : CoreSt) (n v : Nat) : (setToken k n v).drainPar = k.drainPar := rfl
@[simp] theorem setToken_beatHold (k : CoreSt) (n v : Nat) : (setToken k n v).beatHold = k.beatHold := rfl
@[simp] theorem setToken_issued (k : CoreSt) (n v : Nat) : (setToken k n v).issued = k.issued := rfl
@[simp] theorem setToken_heldWr (k : CoreSt) (n v : Nat) : (setToken k n v).heldWr = k.heldWr := rfl
@[simp] theorem setToken_item (k : CoreSt) (n v : Nat) : (setToken k n v).item = k.item := rfl
@[simp] theorem setToken_warm (k : CoreSt) (n v : Nat) : (setToken k n v).warm = k.warm := rfl

/-! ### setP -/

@[simp] theorem setP_g (k : CoreSt) (n : Nat) (v : Word64) : (setP k n v).g = k.g := by unfold setP; split <;> rfl
@[simp] theorem setP_d (k : CoreSt) (n : Nat) (v : Word64) : (setP k n v).d = k.d := by unfold setP; split <;> rfl
@[simp] theorem setP_banks (k : CoreSt) (n : Nat) (v : Word64) : (setP k n v).banks = k.banks := by unfold setP; split <;> rfl
@[simp] theorem setP_tiles (k : CoreSt) (n : Nat) (v : Word64) : (setP k n v).tiles = k.tiles := by unfold setP; split <;> rfl
@[simp] theorem setP_tags (k : CoreSt) (n : Nat) (v : Word64) : (setP k n v).tags = k.tags := by unfold setP; split <;> rfl
@[simp] theorem setP_bound (k : CoreSt) (n : Nat) (v : Word64) : (setP k n v).bound = k.bound := by unfold setP; split <;> rfl
@[simp] theorem setP_pc (k : CoreSt) (n : Nat) (v : Word64) : (setP k n v).pc = k.pc := by unfold setP; split <;> rfl
@[simp] theorem setP_hdr (k : CoreSt) (n : Nat) (v : Word64) : (setP k n v).hdr = k.hdr := by unfold setP; split <;> rfl
@[simp] theorem setP_loops (k : CoreSt) (n : Nat) (v : Word64) : (setP k n v).loops = k.loops := by unfold setP; split <;> rfl
@[simp] theorem setP_lc0 (k : CoreSt) (n : Nat) (v : Word64) : (setP k n v).lc0 = k.lc0 := by unfold setP; split <;> rfl
@[simp] theorem setP_lc1 (k : CoreSt) (n : Nat) (v : Word64) : (setP k n v).lc1 = k.lc1 := by unfold setP; split <;> rfl
@[simp] theorem setP_tokens (k : CoreSt) (n : Nat) (v : Word64) : (setP k n v).tokens = k.tokens := by unfold setP; split <;> rfl
@[simp] theorem setP_fetched (k : CoreSt) (n : Nat) (v : Word64) : (setP k n v).fetched = k.fetched := by unfold setP; split <;> rfl
@[simp] theorem setP_skip (k : CoreSt) (n : Nat) (v : Word64) : (setP k n v).skip = k.skip := by unfold setP; split <;> rfl
@[simp] theorem setP_halting (k : CoreSt) (n : Nat) (v : Word64) : (setP k n v).halting = k.halting := by unfold setP; split <;> rfl
@[simp] theorem setP_icache (k : CoreSt) (n : Nat) (v : Word64) : (setP k n v).icache = k.icache := by unfold setP; split <;> rfl
@[simp] theorem setP_spm (k : CoreSt) (n : Nat) (v : Word64) : (setP k n v).spm = k.spm := by unfold setP; split <;> rfl
@[simp] theorem setP_partSeg (k : CoreSt) (n : Nat) (v : Word64) : (setP k n v).partSeg = k.partSeg := by unfold setP; split <;> rfl
@[simp] theorem setP_partLen (k : CoreSt) (n : Nat) (v : Word64) : (setP k n v).partLen = k.partLen := by unfold setP; split <;> rfl
@[simp] theorem setP_station (k : CoreSt) (n : Nat) (v : Word64) : (setP k n v).station = k.station := by unfold setP; split <;> rfl
@[simp] theorem setP_tscale (k : CoreSt) (n : Nat) (v : Word64) : (setP k n v).tscale = k.tscale := by unfold setP; split <;> rfl
@[simp] theorem setP_seeds (k : CoreSt) (n : Nat) (v : Word64) : (setP k n v).seeds = k.seeds := by unfold setP; split <;> rfl
@[simp] theorem setP_curVec (k : CoreSt) (n : Nat) (v : Word64) : (setP k n v).curVec = k.curVec := by unfold setP; split <;> rfl
@[simp] theorem setP_scaleBuf (k : CoreSt) (n : Nat) (v : Word64) : (setP k n v).scaleBuf = k.scaleBuf := by unfold setP; split <;> rfl
@[simp] theorem setP_numCnt (k : CoreSt) (n : Nat) (v : Word64) : (setP k n v).numCnt = k.numCnt := by unfold setP; split <;> rfl
@[simp] theorem setP_numLatch (k : CoreSt) (n : Nat) (v : Word64) : (setP k n v).numLatch = k.numLatch := by unfold setP; split <;> rfl
@[simp] theorem setP_units (k : CoreSt) (n : Nat) (v : Word64) : (setP k n v).units = k.units := by unfold setP; split <;> rfl
@[simp] theorem setP_releases (k : CoreSt) (n : Nat) (v : Word64) : (setP k n v).releases = k.releases := by unfold setP; split <;> rfl
@[simp] theorem setP_reports (k : CoreSt) (n : Nat) (v : Word64) : (setP k n v).reports = k.reports := by unfold setP; split <;> rfl
@[simp] theorem setP_xfers (k : CoreSt) (n : Nat) (v : Word64) : (setP k n v).xfers = k.xfers := by unfold setP; split <;> rfl
@[simp] theorem setP_xferSeq (k : CoreSt) (n : Nat) (v : Word64) : (setP k n v).xferSeq = k.xferSeq := by unfold setP; split <;> rfl
@[simp] theorem setP_winLo (k : CoreSt) (n : Nat) (v : Word64) : (setP k n v).winLo = k.winLo := by unfold setP; split <;> rfl
@[simp] theorem setP_spills (k : CoreSt) (n : Nat) (v : Word64) : (setP k n v).spills = k.spills := by unfold setP; split <;> rfl
@[simp] theorem setP_win (k : CoreSt) (n : Nat) (v : Word64) : (setP k n v).win = k.win := by unfold setP; split <;> rfl
@[simp] theorem setP_winFault (k : CoreSt) (n : Nat) (v : Word64) : (setP k n v).winFault = k.winFault := by unfold setP; split <;> rfl
@[simp] theorem setP_gateStep (k : CoreSt) (n : Nat) (v : Word64) : (setP k n v).gateStep = k.gateStep := by unfold setP; split <;> rfl
@[simp] theorem setP_pz (k : CoreSt) (n : Nat) (v : Word64) : (setP k n v).pz = k.pz := by unfold setP; split <;> rfl
@[simp] theorem setP_pzArmed (k : CoreSt) (n : Nat) (v : Word64) : (setP k n v).pzArmed = k.pzArmed := by unfold setP; split <;> rfl
@[simp] theorem setP_events (k : CoreSt) (n : Nat) (v : Word64) : (setP k n v).events = k.events := by unfold setP; split <;> rfl
@[simp] theorem setP_injCell (k : CoreSt) (n : Nat) (v : Word64) : (setP k n v).injCell = k.injCell := by unfold setP; split <;> rfl
@[simp] theorem setP_injPar (k : CoreSt) (n : Nat) (v : Word64) : (setP k n v).injPar = k.injPar := by unfold setP; split <;> rfl
@[simp] theorem setP_drainPar (k : CoreSt) (n : Nat) (v : Word64) : (setP k n v).drainPar = k.drainPar := by unfold setP; split <;> rfl
@[simp] theorem setP_beatHold (k : CoreSt) (n : Nat) (v : Word64) : (setP k n v).beatHold = k.beatHold := by unfold setP; split <;> rfl
@[simp] theorem setP_issued (k : CoreSt) (n : Nat) (v : Word64) : (setP k n v).issued = k.issued := by unfold setP; split <;> rfl
@[simp] theorem setP_heldWr (k : CoreSt) (n : Nat) (v : Word64) : (setP k n v).heldWr = k.heldWr := by unfold setP; split <;> rfl
@[simp] theorem setP_item (k : CoreSt) (n : Nat) (v : Word64) : (setP k n v).item = k.item := by unfold setP; split <;> rfl
@[simp] theorem setP_warm (k : CoreSt) (n : Nat) (v : Word64) : (setP k n v).warm = k.warm := by unfold setP; split <;> rfl

end Sys2Proof.Machine
end

