-- ==== Sys2Proof/Laws/Ops.lean ====
section
/-! SUPPORT. Laws/Ops.lean: what the shared operations over registers, cores and messages do, once each. -/

namespace Sys2Proof.Machine

/-! ### Bit fields -/

theorem testBit_bitsOf (w hi lo i : Nat) : (bitsOf w hi lo).testBit i = (decide (i < hi + 1 - lo) && w.testBit (lo + i)) := by
  unfold bitsOf
  rw [Nat.testBit_mod_two_pow, Nat.testBit_div_two_pow]
  congr 2
  omega

theorem getLsbD_putBits (w : Word32) (hi lo v i : Nat) (h : i < 32) :
    (putBits w hi lo v).getLsbD i =
      if lo ≤ i ∧ i < hi + 1 then v.testBit (i - lo) else w.getLsbD i := by
  unfold putBits
  simp only [BitVec.getLsbD_or, BitVec.getLsbD_and, BitVec.getLsbD_not, BitVec.getLsbD_ofNat, Nat.testBit_mul_two_pow,
    Nat.testBit_two_pow_sub_one, h, decide_true, Bool.true_and]
  by_cases h1 : lo ≤ i
  · by_cases h2 : i < hi + 1
    · have : i - lo < hi + 1 - lo := by omega
      simp [h1, h2, this]
    · have : ¬ (i - lo < hi + 1 - lo) := by omega
      simp [h1, h2, this]
  · simp [h1]

/-- A field reads back what was written to it, cut to its width. -/
theorem bitsOf_putBits (w : Word32) (hi lo v : Nat) (h : hi < 32) :
    bitsOf (putBits w hi lo v).toNat hi lo = v % 2 ^ (hi + 1 - lo) := by
  apply Nat.eq_of_testBit_eq
  intro i
  rw [testBit_bitsOf, Nat.testBit_mod_two_pow]
  by_cases hi' : i < hi + 1 - lo
  · have h32 : lo + i < 32 := by omega
    have := getLsbD_putBits w hi lo v (lo + i) h32
    rw [BitVec.testBit_toNat, this, if_pos (by omega)]
    simp [hi']
  · simp [hi']

/-- A field with other bits reads as before. -/
theorem bitsOf_putBits_other (w : Word32) (hi lo v hi' lo' : Nat) (h' : hi' < 32) (h : hi' < lo ∨ hi < lo') :
    bitsOf (putBits w hi lo v).toNat hi' lo' = bitsOf w.toNat hi' lo' := by
  apply Nat.eq_of_testBit_eq
  intro i
  rw [testBit_bitsOf, testBit_bitsOf]
  by_cases hi1 : i < hi' + 1 - lo'
  · have h32 : lo' + i < 32 := by omega
    rw [BitVec.testBit_toNat, getLsbD_putBits w hi lo v (lo' + i) h32, if_neg (by omega), BitVec.testBit_toNat]
  · simp [hi1]

/-- Writing the value a field has changes nothing. -/
theorem putBits_same (w : Word32) (hi lo : Nat) : putBits w hi lo (bitsOf w.toNat hi lo) = w := by
  apply BitVec.eq_of_getLsbD_eq
  intro i h
  rw [getLsbD_putBits _ _ _ _ _ h]
  split
  · next hc =>
    rw [testBit_bitsOf, BitVec.testBit_toNat]
    have : i - lo < hi + 1 - lo := by omega
    have e : lo + (i - lo) = i := by omega
    simp [this, e]
  · rfl

/-! ### Register words -/

theorem rdWord_wrWord (s : State) (a b : Nat) (w : Word32) :
    rdWord (wrWord s a w) b = if b = a then w else rdWord s b := by
  unfold rdWord wrWord
  by_cases h : b = a
  · subst h; simp
  · simp only [if_neg h, sget_sset_ne _ _ _ _ h]

theorem rdWord_setAt (s : State) (a hi lo v b : Nat) :
    rdWord (setAt s a hi lo v) b = if b = a then putBits (rdWord s a) hi lo v else rdWord s b := rdWord_wrWord ..

theorem rdWord_setF (s : State) (f : Fld) (n v b : Nat) :
    rdWord (setF s f n v) b = if b = fldAddr f n then putBits (rdWord s (fldAddr f n)) f.hi f.lo v else rdWord s b :=
  rdWord_wrWord ..

/-- A field reads back what was written. -/
theorem getF_setF (s : State) (f : Fld) (n v : Nat) (h : f.hi < 32) :
    getF (setF s f n v) f n = v % 2 ^ (f.hi + 1 - f.lo) := by
  unfold getF getAt
  rw [rdWord_setF, if_pos rfl, bitsOf_putBits _ _ _ _ h]

/-- Another field reads as before. -/
theorem getF_setF_other (s : State) (f g : Fld) (n m v : Nat) (hg : g.hi < 32)
    (h : fldAddr g m ≠ fldAddr f n ∨ g.hi < f.lo ∨ f.hi < g.lo) : getF (setF s f n v) g m = getF s g m := by
  unfold getF getAt
  rw [rdWord_setF]
  by_cases ha : fldAddr g m = fldAddr f n
  · rw [if_pos ha, ha]
    exact bitsOf_putBits_other _ _ _ _ _ _ hg (h.resolve_left (fun hn => hn ha))
  · rw [if_neg ha]

/-- Writing the value that a field has leaves every word as it was. -/
theorem rdWord_setF_same (s : State) (f : Fld) (n b : Nat) : rdWord (setF s f n (getF s f n)) b = rdWord s b := by
  rw [rdWord_setF]
  split
  · next h => subst h; exact putBits_same _ _ _
  · rfl

/-- A register read sees nothing but the three copies. -/
theorem rdWord_congr {s t : State} (h1 : t.regs = s.regs) (h2 : t.regB = s.regB) (h3 : t.regC = s.regC) (a : Nat) :
    rdWord t a = rdWord s a := by
  unfold rdWord; rw [h1, h2, h3]

theorem getF_congr {s t : State} (h1 : t.regs = s.regs) (h2 : t.regB = s.regB) (h3 : t.regC = s.regC) (f : Fld) (n : Nat) :
    getF t f n = getF s f n := by
  unfold getF getAt; rw [rdWord_congr h1 h2 h3]

/-! ### Cores -/

theorem coreOf_setCore (s : State) (c d : Nat) (k : CoreSt) : coreOf (setCore s c k) d = if d = c then k else coreOf s d :=
  sget_sset ..

@[simp] theorem coreOf_setCore_self (s : State) (c : Nat) (k : CoreSt) : coreOf (setCore s c k) c = k := by
  simp [coreOf_setCore]

theorem coreOf_modCore (s : State) (c d : Nat) (f : CoreSt → CoreSt) :
    coreOf (modCore s c f) d = if d = c then f (coreOf s c) else coreOf s d := sget_sset ..

@[simp] theorem coreOf_modCore_self (s : State) (c : Nat) (f : CoreSt → CoreSt) : coreOf (modCore s c f) c = f (coreOf s c) := by
  simp [coreOf_modCore]

@[simp] theorem coreOf_setF (s : State) (f : Fld) (n v d : Nat) : coreOf (setF s f n v) d = coreOf s d := rfl

@[simp] theorem coreOf_inc (s : State) (f : Fld) (n d : Nat) : coreOf (inc s f n) d = coreOf s d := rfl

@[simp] theorem getF_modCore (s : State) (c : Nat) (g : CoreSt → CoreSt) (f : Fld) (n : Nat) :
    getF (modCore s c g) f n = getF s f n := rfl

@[simp] theorem getG_setG_self (k : CoreSt) (n : Nat) (v : Word64) : getG (setG k n v) n = v := by simp [getG, setG]

theorem getG_setG (k : CoreSt) (n m : Nat) (v : Word64) : getG (setG k n v) m = if m = n then v else getG k m := sget_sset ..

/-- A write of a predicate register reads back, except that p0 keeps all ones. -/
theorem getP_setP (k : CoreSt) (n m : Nat) (v : Word64) :
    getP (setP k n v) m = if m = 0 then BitVec.allOnes 64 else if m = n then v else getP k m := by
  unfold getP setP
  by_cases hm : m = 0
  · simp [hm]
  · by_cases hn : n = 0
    · subst hn; simp [hm]
    · simp [hm, hn, sget_sset]

/-! ### Messages and page events -/

/-- An interrupt message goes out, or the masked vector's pending bit is set; nothing else changes. -/
theorem sendMsix_cases (s : State) (vec : Nat) :
    (sget false s.msix.unmasked vec = true ∧ sendMsix s vec = emit s (.msix vec)) ∨
    (sget false s.msix.unmasked vec = false ∧
      sendMsix s vec = { s with msix := { s.msix with pend := sset false s.msix.pend vec true } }) := by
  unfold sendMsix
  cases h : sget false s.msix.unmasked vec <;> simp

/-- Setting an event bit: the bit alone, and one message at an enabled rise. -/
theorem setSts_cases (s : State) (base bit : Nat) :
    setSts s base bit = setAt s (base + 0x014) bit bit 1 ∨
      setSts s base bit = sendMsix (setAt s (base + 0x014) bit bit 1)
        (getAt s (base + 0x018) 26 16) := by
  unfold setSts
  dsimp only
  split
  · exact .inr rfl
  · exact .inl rfl

end Sys2Proof.Machine
end

