-- ==== Sys2Proof/Laws/Issue.lean ====
section
/-! SUPPORT. Laws/Issue.lean: a syllable command issues its syllable, and what a bundle of one acting syllable does. -/

namespace Sys2Proof.Machine

/-- Every syllable command is the issue of its syllable. -/
theorem exec_sylInstr (c : CoreId) (y : Syl) (s : State) : exec (sylInstr c y) s = .next (issueSyl s c.val y) := by
  cases y with
  | s o y => cases o <;> rfl
  | c o y => cases o <;> rfl
  | m o y => cases o <;> rfl
  | d o y => cases o <;> rfl
  | a r o y => cases o <;> rfl
  | v h o y => cases o <;> rfl
  | x o y => cases o <;> rfl
  | y o y => cases o <;> rfl
  | k o y => cases o <;> rfl
  | q o y => cases o <;> rfl

/-- A HALT that does not wait leaves the core as it is. -/
theorem haltCheck_going (s : State) (c : Nat) (h : (coreOf s c).halting = false) : haltCheck s c = s := by
  unfold haltCheck
  simp [h]

theorem bankDue_own (s : State) (c : Nat) (k : CoreSt) (y : Syl) : bankDue s c ⟨k.hdr, false, 0, 0, [y]⟩ = false := by
  simp [bankDue]

theorem countSkip_own (s : State) (c : Nat) (k : CoreSt) (y : Syl) : countSkip s c ⟨k.hdr, false, 0, 0, [y]⟩ = s := by
  simp [countSkip]

/-- A syllable of its own meets no other. -/
theorem actOrder_own (y : Syl) : actOrder [y] = [y] := by
  unfold actOrder
  cases y with
  | d o y => cases o <;> rfl
  | _ => rfl

theorem bundleCauses_own (s : State) (c : Nat) (k0 : CoreSt) (hdr : Word64) (y : Syl) :
    bundleCauses s c k0 hdr [y] = sylCauses s c k0 hdr [] y := by
  unfold bundleCauses
  rw [actOrder_own]
  simp [withBefore]

theorem bundleCauses_none (s : State) (c : Nat) (k0 : CoreSt) (hdr : Word64) : bundleCauses s c k0 hdr [] = [] := rfl

theorem slopeClash_own (k0 : CoreSt) (y : Syl) : slopeClash k0 [y] = false := by
  cases y <;> simp [slopeClash, writesShared, sylWrites]

theorem spoilCore_nil (s : State) (c : Nat) : spoilCore s c [] = s := rfl

theorem coreOf_spoilCore (s : State) (c d : Nat) (l : List Syl) :
    coreOf (spoilCore s c l) d = if d = c then spoilScales l (coreOf s c) else coreOf s d := by
  unfold spoilCore
  split
  · rw [coreOf_modCore]
  · next h =>
    split
    · next hd => subst hd; simp [spoilScales, h]
    · rfl

/-- The state after a bundle of one syllable, before HALT's wait is weighed. -/
def afterSyl (s : State) (c : Nat) (y : Syl) : State :=
  setF (modCore (sylEffect c (coreOf s c) (spoilCore s c [y]) y) c (fun k =>
    controlEffect (coreOf s c) (coreOf s c).hdr (coreOf s c).pc false (cSyl [y])
      { k with fetched := none, issued := k.issued + 1 })) F.CORE_STS_STATE c 1

/-- A syllable that acts issues: its effect, the flow of control, and one bundle counted. -/
theorem issueSyl_acts (s : State) (c : Nat) (y : Syl) (h : Acts s c y) :
    issueSyl s c y = haltCheck (afterSyl s c y) c := by
  obtain ⟨⟨hb, hs, hf, hh, hz, hl, hw⟩, ha, hg, hy, hc⟩ := h
  have hflt : [y].filter (sylActs (coreOf s c)) = [y] := by simp [ha]
  rw [hflt] at hw
  unfold issueSyl
  simp only [hb, hs, hf, hh, hz, hl, Option.isNone_none, Bool.false_eq_true, not_false_eq_true, and_self, if_true]
  unfold tryIssue
  simp only [hflt, bankDue_own, hw, hg, Bool.false_eq_true, if_false, hy, slopeClash_own, bundleCauses_own, hc, ne_eq,
    not_true_eq_false]
  unfold issueBundle
  simp only [countSkip_own, hflt, actOrder_own, List.foldl_cons, List.foldl_nil, ha, if_true]
  rfl

/-- A syllable whose predicate is false issues and does nothing, but a vector syllable occupies its half (R49, R150). -/
theorem issueSyl_masked (s : State) (c : Nat) (y : Syl) (h : Ready s c y) (ha : sylActs (coreOf s c) y = false) :
    issueSyl s c y = setF (modCore (idleEffect c s y) c (fun k =>
      { k with fetched := none, issued := k.issued + 1 })) F.CORE_STS_STATE c 1 := by
  obtain ⟨hb, hs, hf, hh, hz, hl, hw⟩ := h
  have hflt : [y].filter (sylActs (coreOf s c)) = [] := by simp [ha]
  rw [hflt] at hw
  have h1 : gateWaits s c [] = false := by simp [gateWaits]
  unfold issueSyl
  simp only [hb, hs, hf, hh, hz, hl, Option.isNone_none, Bool.false_eq_true, not_false_eq_true, and_self, if_true]
  unfold tryIssue
  have h2 : yWaits s (coreOf s c) [] = false := rfl
  simp only [hflt, bankDue_own, hw, h1, h2, Bool.false_eq_true, if_false, slopeClash_own, bundleCauses_none, ne_eq,
    not_true_eq_false]
  unfold issueBundle
  simp only [countSkip_own, hflt, actOrder_own, List.foldl_cons, List.foldl_nil, ha, Bool.false_eq_true, if_false,
    spoilCore_nil]
  refine haltCheck_going _ _ ?_
  have hk : (coreOf (idleEffect c s y) c).halting = false := by
    unfold idleEffect
    cases y <;> simp [pushOps, hh]
  simp [controlEffect, cSyl, hk]

/-- A change of a core changes cores only. -/
theorem coresOnly_modCore (s u : State) (c : Nat) (f : CoreSt → CoreSt) (hu : u = { s with cores := u.cores }) :
    modCore u c f = { s with cores := (modCore u c f).cores } := by
  rw [hu]; rfl

theorem coresOnly_spoilCore (s : State) (c : Nat) (l : List Syl) : spoilCore s c l = { s with cores := (spoilCore s c l).cores } := by
  unfold spoilCore
  split <;> rfl

/-- A state that differs in its cores only, once CORE_STS.STATE is written again with RUN. -/
theorem onlyCore_setF (s u : State) (c : Nat) (k : CoreSt) (hs : coreState s c = 1) (hu : u = { s with cores := u.cores })
    (hk : coreOf u c = { k with issued := (coreOf s c).issued + 1 }) (ho : ∀ d, d ≠ c → coreOf u d = coreOf s d) :
    OnlyCore s (setF u F.CORE_STS_STATE c 1) c k := by
  have hr : u.regs = s.regs := by rw [hu]
  have hB : u.regB = s.regB := by rw [hu]
  have hC : u.regC = s.regC := by rw [hu]
  refine ⟨?_, ?_, ?_, ?_⟩
  · simpa using hk
  · intro d hd; simpa using ho d hd
  · intro a
    have h1 : getF u F.CORE_STS_STATE c = 1 := by rw [getF_congr hr hB hC]; exact hs
    rw [← rdWord_congr hr hB hC a, ← rdWord_setF_same u F.CORE_STS_STATE c a, h1]
  · rw [hu]; rfl

/-- A syllable other than of slot C that changes its core by `f` alone. -/
theorem acts_onlyCore (s : State) (c : Nat) (y : Syl) (f : CoreSt → CoreSt) (h : Acts s c y) (hc : cSyl [y] = none)
    (he : ∀ u, sylEffect c (coreOf s c) u y = modCore u c f)
    (hf : (f (spoilScales [y] (coreOf s c))).fetched = none)
    (hh : (f (spoilScales [y] (coreOf s c))).halting = false)
    (hi : (f (spoilScales [y] (coreOf s c))).issued = (coreOf s c).issued) :
    OnlyCore s (issueSyl s c y) c (f (spoilScales [y] (coreOf s c))) := by
  rw [issueSyl_acts s c y h, haltCheck_going]
  · unfold afterSyl
    rw [he, hc]
    refine onlyCore_setF s _ c _ h.1.2.1
      (coresOnly_modCore _ _ _ _ (coresOnly_modCore _ _ _ _ (coresOnly_spoilCore _ _ _))) ?_ ?_
    · simp only [coreOf_modCore_self, coreOf_spoilCore, if_true, controlEffect, Bool.false_eq_true, if_false, hi, ← hf]
    · intro d hd
      simp [coreOf_modCore, coreOf_spoilCore, hd]
  · unfold afterSyl
    rw [he, hc]
    simp [controlEffect, coreOf_spoilCore, hh]

end Sys2Proof.Machine
end

