-- ==== Sys2Proof/Laws/Memory.lean ====
section
/-! SUPPORT. Laws/Memory.lean: accesses to device memory touch nothing but device memory, and keep its canonical form. -/

namespace Sys2Proof.Machine

/-! ### MemSide, once for each operation -/

/-- Nothing was sent. -/
theorem snoopsOnly_of_eq {s t : State} (h : t.outbox = s.outbox) : SnoopsOnly s t := ⟨[], by simp [h], by simp⟩

theorem snoopsOnly_trans {s t u : State} (h : SnoopsOnly s t) (k : SnoopsOnly t u) : SnoopsOnly s u := by
  obtain ⟨l, hl, al⟩ := h
  obtain ⟨m, hm, am⟩ := k
  exact ⟨l ++ m, by rw [hm, hl, List.append_assoc], fun x hx => (List.mem_append.mp hx).elim (al x) (am x)⟩

theorem memSide_refl (s : State) : MemSide s s := ⟨fun _ _ => rfl, snoopsOnly_of_eq rfl, rfl⟩

theorem memSide_trans {s t u : State} (h : MemSide s t) (k : MemSide t u) : MemSide s u :=
  ⟨fun a ha => (k.1 a ha).trans (h.1 a ha), snoopsOnly_trans h.2.1 k.2.1, by rw [k.2.2, h.2.2]⟩

/-- A change of fields of device memory other than register words. -/
theorem memSide_of_regs {s t : State} (h1 : t.regs = s.regs) (h2 : t.regB = s.regB) (h3 : t.regC = s.regC)
    (ho : t.outbox = s.outbox)
    (h : t = { s with regs := t.regs, regB := t.regB, regC := t.regC, dram := t.dram, dramChk := t.dramChk,
                      dramPoison := t.dramPoison, cache := t.cache, mds := t.mds, twin := t.twin, xlt := t.xlt,
                      outbox := t.outbox }) :
    MemSide s t := ⟨fun a _ => rdWord_congr h1 h2 h3 a, snoopsOnly_of_eq ho, h⟩

theorem memSide_askFirst (s : State) (ls : List Nat) (kind : Nat) : MemSide s (askFirst s ls kind) := by
  refine ⟨fun _ _ => rfl, ⟨snoopsFor s ls kind, rfl, ?_⟩, rfl⟩
  intro m hm
  unfold snoopsFor at hm
  split at hm
  · obtain ⟨l, _, rfl⟩ := List.mem_map.mp hm
    exact ⟨_, _, rfl⟩
  · simp at hm

theorem memWord_md (f : Fld) (m : Nat) (hp : f.page = .md) (ho : f.off < 65536) (hm : m < 8) :
    memWord (fldAddr f m) = true := by
  have h : 0x500000 ≤ fldAddr f m ∧ fldAddr f m < 0x580000 := by
    simp only [fldAddr, hp, pageBase]; omega
  have h2 : pageBase .md 0 ≤ fldAddr f m ∧ fldAddr f m < pageBase .md 8 := h
  simp [memWord, h2]

/-- A write of a word of `memWord`. -/
theorem memSide_setF (s : State) (f : Fld) (n v : Nat) (h : memWord (fldAddr f n) = true) : MemSide s (setF s f n v) := by
  refine ⟨fun a ha => ?_, snoopsOnly_of_eq rfl, rfl⟩
  rw [rdWord_setF, if_neg]
  rintro rfl
  rw [h] at ha
  exact Bool.noConfusion ha

theorem memSide_inc (s : State) (f : Fld) (n : Nat) (h : memWord (fldAddr f n) = true) : MemSide s (inc s f n) :=
  memSide_setF s f n _ h

theorem dpaMd_lt (a : Nat) : dpaMd a < 8 := Nat.mod_lt _ (by decide)

theorem memSide_eccLog (s : State) (m typ src pair sym gran dpa : Nat) (hm : m < 8) :
    MemSide s (eccLog s m typ src pair sym gran dpa) := by
  have w : ∀ (u : State) (f : Fld) (v : Nat), f.page = .md → f.off < 65536 → MemSide u (setF u f m v) := fun u f v hp ho =>
    memSide_setF u f m v (memWord_md f m hp ho hm)
  unfold eccLog
  split
  · exact w _ _ _ rfl (by decide)
  · refine memSide_trans (memSide_trans (memSide_trans (memSide_trans (memSide_trans (memSide_trans (memSide_trans
      (memSide_trans (w _ _ _ ?_ ?_) (w _ _ _ ?_ ?_)) (w _ _ _ ?_ ?_)) (w _ _ _ ?_ ?_)) (w _ _ _ ?_ ?_)) (w _ _ _ ?_ ?_))
      (w _ _ _ ?_ ?_)) (w _ _ _ ?_ ?_)) (w _ _ _ ?_ ?_)
    all_goals first | rfl | decide

theorem memSide_countCE (s : State) (l src sym gran : Nat) : MemSide s (countCE s l src sym gran) :=
  memSide_trans (memSide_inc _ _ _ (memWord_md _ _ rfl (by decide) (dpaMd_lt _))) (memSide_eccLog _ _ _ _ _ _ _ _ (dpaMd_lt _))

theorem memSide_countUE (s : State) (l src gran : Nat) : MemSide s (countUE s l src gran) :=
  memSide_trans (memSide_inc _ _ _ (memWord_md _ _ rfl (by decide) (dpaMd_lt _))) (memSide_eccLog _ _ _ _ _ _ _ _ (dpaMd_lt _))

theorem memSide_foldl {α : Type} (f : State → α → State) (h : ∀ s x, MemSide s (f s x)) (l : List α) :
    ∀ s, MemSide s (l.foldl f s) := by
  induction l with
  | nil => exact memSide_refl
  | cons x t ih => exact fun s => memSide_trans (h s x) (ih _)

theorem memSide_countScan (s : State) (l src : Nat) (r : LineScan) (marked : Bool) :
    MemSide s (countScan s l src r marked) := by
  unfold countScan
  have h := memSide_foldl (fun s (x : Nat × Nat) => countCE s l src x.2 x.1) (fun s x => memSide_countCE s l src x.2 x.1) r.fixes s
  dsimp only
  split
  · exact h
  · exact memSide_trans h (memSide_foldl (fun s g => countUE s l src g) (fun s g => memSide_countUE s l src g) r.bads _)

theorem memSide_dramPut (s : State) (a : Nat) (bs : List Byte) : MemSide s (dramPut s a bs) :=
  memSide_of_regs rfl rfl rfl rfl rfl

theorem memSide_dramFresh (s : State) (l : Nat) (gs : List Nat) : MemSide s (dramFresh s l gs) :=
  memSide_of_regs rfl rfl rfl rfl rfl

theorem memSide_dramFlag (s : State) (l : Nat) (f : Bool) : MemSide s (dramFlag s l f) := memSide_of_regs rfl rfl rfl rfl rfl

theorem memSide_cachePut (s : State) (l : Nat) (c : Option CLine) : MemSide s (cachePut s l c) :=
  memSide_of_regs rfl rfl rfl rfl rfl

theorem memSide_setMd (s : State) (m : Nat) (x : MdSt) : MemSide s (setMd s m x) := memSide_of_regs rfl rfl rfl rfl rfl

theorem memSide_setXlt (s : State) (d : Nat) (l : List XltEntry) : MemSide s (setXlt s d l) := memSide_of_regs rfl rfl rfl rfl rfl

theorem memSide_ite (s : State) (p : Prop) [Decidable p] (t u : State) (ht : MemSide s t) (hu : MemSide s u) :
    MemSide s (if p then t else u) := by
  split
  · exact ht
  · exact hu

theorem memSide_metaWrite (s : State) (l src : Nat) : MemSide s (metaWrite s l src) := by
  have h : ∀ (ks : List Nat) (u : State), MemSide u (ks.foldl (fun s k =>
      if flagSplit (sget 0 s.dramPoison k) then
        countCE (dramFlag s k (voteFlag (sget 0 s.dramPoison k))) k src 36 0
      else s) u) := by
    intro ks
    induction ks with
    | nil => exact fun u => memSide_refl _
    | cons k t ih =>
      intro u
      refine memSide_trans ?_ (ih _)
      exact memSide_ite _ _ _ _ (memSide_trans (memSide_dramFlag _ _ _) (memSide_countCE _ _ _ _ _)) (memSide_refl _)
  exact h _ _

theorem memSide_beginWrite (s : State) (l src : Nat) : MemSide s (beginWrite s l src) :=
  memSide_trans (memSide_metaWrite s l src) (memSide_setMd _ _ _)

theorem memSide_dramRead (s : State) (l src : Nat) : MemSide s (dramRead s l src).2.2 := by
  unfold dramRead
  dsimp only
  have h1 := memSide_countScan s l src (scanLine (dramLine s l) (dramDiff s l) allGranules) (voteFlag (sget 0 s.dramPoison l))
  refine memSide_trans ?_ (memSide_ite _ _ _ _ (memSide_trans (memSide_metaWrite _ _ _) (memSide_dramFlag _ _ _)) (memSide_refl _))
  exact memSide_trans h1 (memSide_ite _ _ _ _ (memSide_inc _ _ _ (memWord_md _ _ rfl (by decide) (dpaMd_lt _))) (memSide_refl _))

theorem memSide_writeBack (s : State) (l : Nat) (c : CLine) (src : Nat) (all : Bool) : MemSide s (writeBack s l c src all) := by
  refine memSide_trans (memSide_trans (memSide_trans (memSide_trans (memSide_countScan _ _ _ _ _) (memSide_beginWrite _ _ _))
    (memSide_dramPut _ _ _)) (memSide_dramFresh _ _ _)) (memSide_dramFlag _ _ _)

theorem memSide_cacheDrop (s : State) (l : Nat) : MemSide s (cacheDrop s l) :=
  memSide_trans (memSide_cachePut _ _ _) (memSide_setMd _ _ _)

theorem memSide_evictLine (s : State) (l : Nat) : MemSide s (evictLine s l) := by
  unfold evictLine
  split
  · refine memSide_trans ?_ (memSide_cacheDrop _ _)
    exact memSide_ite _ _ _ _ (memSide_writeBack _ _ _ _ _) (memSide_refl _)
  · exact memSide_refl _

theorem memSide_allocate (s : State) (l : Nat) (c : CLine) (cls : Alloc) : MemSide s (allocate s l c cls) :=
  memSide_trans (memSide_foldl evictLine memSide_evictLine _ _) (memSide_trans (memSide_cachePut _ _ _) (memSide_setMd _ _ _))

theorem memSide_hitLine (s : State) (l : Nat) (c : CLine) (cls : Alloc) : MemSide s (hitLine s l c cls) := by
  unfold hitLine
  exact memSide_ite _ _ _ _ (memSide_trans (memSide_cachePut _ _ _) (memSide_setMd _ _ _)) (memSide_refl _)

theorem memSide_holdReq (s : State) (l : Nat) (r : MemReq) : MemSide s (holdReq s l r) := memSide_setMd _ _ _

theorem memSide_lineServe (s : State) (l : Nat) (cls : Alloc) : MemSide s (lineServe s l cls).2.2 := by
  unfold lineServe
  have w : ∀ (u : State) (f : Fld), f.page = .md → f.off < 65536 → MemSide u (inc u f (dpaMd (64 * l))) := fun u f hp ho =>
    memSide_inc u f _ (memWord_md f _ hp ho (dpaMd_lt _))
  dsimp only
  split
  · dsimp only
    refine memSide_trans ?_ (memSide_hitLine _ _ _ _)
    refine memSide_trans ?_ (memSide_ite _ _ _ _
      (memSide_trans (memSide_trans (memSide_metaWrite _ _ _) (memSide_dramFlag _ _ _)) (memSide_cachePut _ _ _)) (memSide_refl _))
    refine memSide_trans ?_ (memSide_ite _ _ _ _ (w _ _ rfl (by decide)) (memSide_refl _))
    exact memSide_trans (w _ _ rfl (by decide)) (memSide_countScan _ _ _ _ _)
  · have h := memSide_trans (w s F.MD_CACHE_MISS_MISS_CNT rfl (by decide)) (memSide_dramRead _ l 0)
    exact memSide_trans h (memSide_ite _ _ _ _ (memSide_refl _) (memSide_allocate _ _ _ _))

theorem memSide_lineRead (s : State) (l : Nat) (cls : Alloc) : MemSide s (lineRead s l cls).2.2 := by
  unfold lineRead
  split
  · exact memSide_lineServe _ _ _
  · exact memSide_holdReq _ _ _

theorem memSide_linesRead (s : State) (ls : List Nat) (cls : Alloc) : MemSide s (linesRead s ls cls).2.2 := by
  have h : ∀ (ls : List Nat) (x : List Byte × Bool × State), MemSide x.2.2 (ls.foldl (fun (x : List Byte × Bool × State) l =>
      let (d, p, s) := lineRead x.2.2 l cls
      (x.1 ++ d, x.2.1 || p, s)) x).2.2 := by
    intro ls
    induction ls with
    | nil => exact fun x => memSide_refl _
    | cons l t ih => exact fun x => memSide_trans (memSide_lineRead x.2.2 l cls) (ih _)
  exact h _ _

theorem memSide_range (s : State) : MemSide s (inc s F.MD_ECC_CNT3_RANGE_CNT 0) :=
  memSide_inc s F.MD_ECC_CNT3_RANGE_CNT 0 (memWord_md F.MD_ECC_CNT3_RANGE_CNT 0 rfl (by decide) (by decide))

theorem memSide_memRead (s : State) (a n : Nat) (cls : Alloc) : MemSide s (memRead s a n cls).2.2 := by
  unfold memRead
  split
  · exact memSide_range s
  · exact memSide_trans (memSide_askFirst _ _ _) (memSide_linesRead _ _ _)

theorem unmarked_snd (x : List Byte × Bool × State) : (unmarked x).2 = x.2.2 := rfl

theorem memSide_pageRead (s : State) (pg : Nat) : MemSide s (pageRead s pg).2 := by
  rw [pageRead, unmarked_snd]
  exact memSide_trans (memSide_askFirst s _ 0) (memSide_linesRead _ _ .normal)

theorem memSide_passHolds (p : PassSt) (pg : Nat) (x : List Byte × State) : MemSide x.2 (passHolds p pg x) :=
  memSide_of_regs rfl rfl rfl rfl rfl

theorem memSide_passRead (s : State) (p : PassSt) (pg : Nat) : MemSide s (passRead s p pg) :=
  memSide_trans (memSide_pageRead s pg) (memSide_passHolds p pg _)

theorem memSide_twinWrite (s : State) (a : Nat) : MemSide s (twinWrite s a) := by
  unfold twinWrite
  split
  · exact memSide_refl _
  · next pg _ =>
    have h : ∀ u : State, MemSide u { u with twin := { u.twin with w := sset 0 u.twin.w pg 3 } } := fun u =>
      memSide_of_regs rfl rfl rfl rfl rfl
    dsimp only
    split
    · refine memSide_trans ?_ (h _)
      refine memSide_ite _ _ _ _ (memSide_trans (memSide_inc _ _ _ ?_) (memSide_passRead _ _ _)) (memSide_refl _)
      simp [memWord]
    · exact h _

theorem memSide_scrubTouch (s : State) (l : Nat) : MemSide s (scrubTouch s l) := by
  unfold scrubTouch
  exact memSide_ite _ _ _ _ (memSide_setMd _ _ _) (memSide_refl _)

theorem memSide_cacheMerge (s : State) (l : Nat) (c : CLine) (off : Nat) (bs : List Byte) (p : Bool) :
    MemSide s (cacheMerge s l c off bs p) := memSide_trans (memSide_countScan _ _ _ _ _) (memSide_cachePut _ _ _)

theorem memSide_dramMerge (s : State) (l off : Nat) (bs : List Byte) (p : Bool) : MemSide s (dramMerge s l off bs p) := by
  unfold dramMerge
  dsimp only
  refine memSide_trans (memSide_trans (memSide_trans (memSide_trans ?_ (memSide_beginWrite _ _ _))
    (memSide_dramPut _ _ _)) (memSide_dramFresh _ _ _)) (memSide_dramFlag _ _ _)
  split
  · exact memSide_refl _
  · exact memSide_dramRead _ _ _

theorem memSide_linePerform (s : State) (l off : Nat) (bs : List Byte) (p : Bool) (cls : Alloc) :
    MemSide s (linePerform s l off bs p cls) := by
  have w : ∀ (u : State) (f : Fld), f.page = .md → f.off < 65536 → MemSide u (inc u f (dpaMd (64 * l))) := fun u f hp ho =>
    memSide_inc u f _ (memWord_md f _ hp ho (dpaMd_lt _))
  have h := memSide_trans (memSide_twinWrite s (64 * l)) (memSide_scrubTouch _ l)
  unfold linePerform
  dsimp only
  split
  · refine memSide_trans h ?_
    have k := fun (u : State) (c : CLine) => memSide_trans (w u F.MD_CACHE_HIT_HIT_CNT rfl (by decide))
      (memSide_cacheMerge _ l c off bs p)
    split
    · exact memSide_trans (k _ _) (memSide_hitLine _ _ _ _)
    · exact k _ _
  · refine memSide_trans h ?_
    refine memSide_trans (w _ F.MD_CACHE_MISS_MISS_CNT rfl (by decide)) ?_
    refine memSide_ite _ _ _ _ (memSide_dramMerge _ _ _ _ _) (memSide_ite _ _ _ _ (memSide_allocate _ _ _ _) ?_)
    refine memSide_trans (memSide_dramRead _ l 0) ?_
    exact memSide_trans (memSide_allocate _ _ _ _) (memSide_cacheMerge _ _ _ _ _ _)

theorem memSide_lineWrite (s : State) (l off : Nat) (bs : List Byte) (p : Bool) (cls : Alloc) :
    MemSide s (lineWrite s l off bs p cls) := by
  unfold lineWrite
  exact memSide_ite _ _ _ _ (memSide_linePerform _ _ _ _ _ _) (memSide_holdReq _ _ _)

theorem memSide_linesWrite (s : State) (a : Nat) (bs : List Byte) (p : Bool) (cls : Alloc) :
    MemSide s (linesWrite s a bs p cls) :=
  memSide_foldl (fun s (x : Nat × Nat × List Byte) => lineWrite s x.1 x.2.1 x.2.2 p cls)
    (fun s x => memSide_lineWrite s x.1 x.2.1 x.2.2 p cls) _ s

theorem memSide_memWrite (s : State) (a : Nat) (bs : List Byte) (p : Bool) (cls : Alloc) : MemSide s (memWrite s a bs p cls) := by
  unfold memWrite
  split
  · exact memSide_range s
  · exact memSide_trans (memSide_askFirst _ _ _) (memSide_linesWrite _ _ _ _ _)

theorem memSide_portRead (s : State) (r : MemRead) : MemSide s (portRead s r).2.2 := by
  unfold portRead
  split
  · split
    · exact memSide_inc _ _ _ (memWord_md _ _ rfl (by decide) (dpaMd_lt _))
    · exact memSide_memRead _ _ _ _
  · exact memSide_memRead _ _ _ _

theorem memSide_portWrite (s : State) (w : MemWrite) : MemSide s (portWrite s w) := by
  unfold portWrite
  split
  · split
    · exact memSide_inc _ _ _ (memWord_md _ _ rfl (by decide) (dpaMd_lt _))
    · exact memSide_memWrite _ _ _ _ _
  · exact memSide_memWrite _ _ _ _ _

theorem memSide_devRead (s : State) (a n : Nat) : MemSide s (devRead s a n).2.2 := memSide_memRead _ _ _ _

theorem memSide_devWrite (s : State) (a : Nat) (bs : List Byte) : MemSide s (devWrite s a bs) := memSide_memWrite _ _ _ _ _

/-! ### Translated accesses -/

theorem memSide_walkFrom (va : Nat) : ∀ (level t : Nat) (s : State), MemSide s (walkFrom s va level t).2 := by
  intro level
  induction level with
  | zero =>
    intro t s
    have h := memSide_devRead s (t + 8 * walkIndex va 0) 8
    unfold walkFrom
    dsimp only
    split
    · exact h
    · split
      · exact h
      · split
        · exact h
        · exact h
  | succ n ih =>
    intro t s
    have h := memSide_devRead s (t + 8 * walkIndex va (n + 1)) 8
    unfold walkFrom
    dsimp only
    split
    · exact h
    · split
      · exact h
      · split
        · exact h
        · split
          · exact h
          · generalize (if n = 0 then 256 else 4096) = size
            split
            · exact h
            · exact memSide_trans h (ih _ _)

theorem memSide_walk (s : State) (root va : Nat) : MemSide s (walk s root va).2 := memSide_walkFrom va 3 root s

theorem memSide_walkAccess (s : State) (root va : Nat) (acc : Access) : MemSide s (walkAccess s root va acc).2 := by
  have h := memSide_walk s root va
  unfold walkAccess
  split
  · next e => rw [e] at h; dsimp only; split
              · exact h
              · split
                · exact h
                · exact h
  · exact h

theorem memSide_translate (s : State) (die k va : Nat) (acc : Access) : MemSide s (translate s die k va acc).2 := by
  unfold translate
  dsimp only
  split
  · exact memSide_refl _
  · have h := memSide_walkAccess s (ctxOf s k).ptRoot va acc
    split
    · next e => rw [e] at h; exact memSide_trans h (memSide_setXlt _ _ _)
    · next e => rw [e] at h; exact h

theorem memSide_translateRange (die k : Nat) (acc : Access) : ∀ (l : List (Nat × Nat)) (s : State),
    MemSide s (translateRange s die k acc l).2 := by
  intro l
  induction l with
  | nil => exact fun s => memSide_refl _
  | cons x t ih =>
    intro s
    have h := memSide_translate s die k x.1 acc
    unfold translateRange
    split
    · next e =>
      rw [e] at h
      split
      · next e2 =>
        have h2 := congrArg Prod.snd e2
        dsimp only at h2
        exact memSide_trans h (h2 ▸ ih _)
      · exact memSide_trans h (ih _)
    · next e => rw [e] at h; exact h

theorem memSide_readPieces (cg : Word32) (cls : Alloc) (ps : List (Nat × Nat)) (s : State) :
    MemSide s (readPieces s cg cls ps).2.2 := by
  have h : ∀ (ls : List (Nat × Nat)) (x : List Byte × Bool × State), MemSide x.2.2
      (ls.foldl (fun (x : List Byte × Bool × State) p =>
        let (b, q, s) := portRead x.2.2 ⟨BitVec.ofNat 40 p.1, p.2, some cg, cls⟩
        (x.1 ++ b, x.2.1 || q, s)) x).2.2 := by
    intro ls
    induction ls with
    | nil => exact fun x => memSide_refl _
    | cons l t ih => exact fun x => memSide_trans (memSide_portRead x.2.2 _) (ih _)
  exact h _ _

theorem memSide_writePieces (cg : Word32) (cls : Alloc) (p : Bool) : ∀ (ps : List (Nat × Nat)) (bs : List Byte) (s : State),
    MemSide s (writePieces s cg cls p ps bs) := by
  intro ps
  induction ps with
  | nil => exact fun _ s => memSide_refl _
  | cons x t ih => exact fun bs s => memSide_trans (memSide_portWrite s _) (ih _ _)

theorem memSide_dvaRead (s : State) (die k va n : Nat) (cls : Alloc) : MemSide s (dvaRead s die k va n cls).2 := by
  have h := memSide_translateRange die k .read (vaPieces (n + 1) va n) s
  unfold dvaRead
  split
  · next e => rw [e] at h; exact memSide_trans h (memSide_readPieces _ _ _ _)
  · next e => rw [e] at h; exact h

theorem memSide_dvaWrite (s : State) (die k va : Nat) (bs : List Byte) (p : Bool) (cls : Alloc) :
    MemSide s (dvaWrite s die k va bs p cls).2 := by
  have h := memSide_translateRange die k .write (vaPieces (bs.length + 1) va bs.length) s
  unfold dvaWrite
  split
  · next e => rw [e] at h; exact memSide_trans h (memSide_writePieces _ _ _ _ _ _)
  · next e => rw [e] at h; exact h

theorem memSide_ringRead (s : State) (d : List Byte) (a n : Nat) : MemSide s (ringRead s d a n).2.2 := by
  unfold ringRead
  split
  · exact memSide_devRead _ _ _
  · have h := memSide_dvaRead s iodDie (qCtx d) a n .normal
    split
    · next e => rw [e] at h; exact h
    · next e => rw [e] at h; exact h

theorem memSide_ringWrite (s : State) (d : List Byte) (a : Nat) (bs : List Byte) : MemSide s (ringWrite s d a bs) := by
  unfold ringWrite
  split
  · exact memSide_devWrite _ _ _
  · exact memSide_dvaWrite _ _ _ _ _ _ _

/-! ### The canonical form -/

theorem memWf_dramPut (s : State) (a : Nat) (bs : List Byte) (h : s.memWf = true) : (dramPut s a bs).memWf = true :=
  swf_ssetAll 0 _ _ h

end Sys2Proof.Machine
end

