-- ==== Sys2Proof/Laws/MemWf.lean ====
section
/-! SUPPORT. Laws/MemWf.lean: every operation on device memory keeps its canonical form. -/

namespace Sys2Proof.Machine

/-! ### Operations that leave the stored bytes -/

theorem dram_foldl {α : Type} (f : State → α → State) (h : ∀ s x, (f s x).dram = s.dram) (l : List α) :
    ∀ s, (l.foldl f s).dram = s.dram := by
  induction l with
  | nil => exact fun _ => rfl
  | cons x t ih => exact fun s => (ih _).trans (h s x)

theorem dram_setF (s : State) (f : Fld) (n v : Nat) : (setF s f n v).dram = s.dram := rfl

theorem dram_inc (s : State) (f : Fld) (n : Nat) : (inc s f n).dram = s.dram := rfl

theorem dram_dramFlag (s : State) (l : Nat) (f : Bool) : (dramFlag s l f).dram = s.dram := rfl

theorem dram_eccLog (s : State) (m typ src pair sym gran dpa : Nat) : (eccLog s m typ src pair sym gran dpa).dram = s.dram := by
  unfold eccLog
  split
  · rw [dram_setF]
  · simp only [dram_setF]

theorem dram_countCE (s : State) (l src sym gran : Nat) : (countCE s l src sym gran).dram = s.dram := dram_eccLog ..

theorem dram_countUE (s : State) (l src gran : Nat) : (countUE s l src gran).dram = s.dram := dram_eccLog ..

theorem dram_countScan (s : State) (l src : Nat) (r : LineScan) (marked : Bool) : (countScan s l src r marked).dram = s.dram := by
  have h := dram_foldl (fun s (x : Nat × Nat) => countCE s l src x.2 x.1) (fun s x => dram_countCE s l src x.2 x.1) r.fixes s
  unfold countScan
  dsimp only
  split
  · exact h
  · exact (dram_foldl (fun s g => countUE s l src g) (fun s g => dram_countUE s l src g) r.bads _).trans h

theorem dram_ite (s : State) (p : Prop) [Decidable p] (t u : State) (ht : t.dram = s.dram) (hu : u.dram = s.dram) :
    (if p then t else u).dram = s.dram := by
  split
  · exact ht
  · exact hu

theorem dram_metaWrite (s : State) (l src : Nat) : (metaWrite s l src).dram = s.dram :=
  dram_foldl _ (fun s k => dram_ite s _ _ _ ((dram_countCE ..).trans (dram_dramFlag s k _)) rfl) _ s

theorem dram_beginWrite (s : State) (l src : Nat) : (beginWrite s l src).dram = s.dram := by
  unfold beginWrite
  exact (setMd_dram ..).trans (dram_metaWrite ..)

theorem dram_dramRead (s : State) (l src : Nat) : (dramRead s l src).2.2.dram = s.dram := by
  unfold dramRead
  dsimp only
  have h := dram_countScan s l src (scanLine (dramLine s l) (dramDiff s l) allGranules) (voteFlag (sget 0 s.dramPoison l))
  have h3 : ∀ (p q : Prop) [Decidable p] [Decidable q] (u : State), u.dram = s.dram →
      (if q then dramFlag (metaWrite (if p then inc u F.MD_ECC_CNT1_POISON_RD_CNT (dpaMd (64 * l)) else u) l src) l true
        else (if p then inc u F.MD_ECC_CNT1_POISON_RD_CNT (dpaMd (64 * l)) else u)).dram = s.dram := fun p q _ _ u hu =>
    dram_ite _ _ _ _ ((dram_dramFlag ..).trans ((dram_metaWrite ..).trans (dram_ite _ _ _ _ ((dram_inc ..).trans hu) hu)))
      (dram_ite _ _ _ _ ((dram_inc ..).trans hu) hu)
  exact h3 _ _ _ h

theorem dram_scrubTouch (s : State) (l : Nat) : (scrubTouch s l).dram = s.dram := dram_ite s _ _ _ rfl rfl

theorem dram_cacheMerge (s : State) (l : Nat) (c : CLine) (off : Nat) (bs : List Byte) (p : Bool) :
    (cacheMerge s l c off bs p).dram = s.dram := dram_countScan ..

/-! ### Canonical form -/

/-- If memory is canonical in `s`, it is in `t`. -/
def KeepsWf (s t : State) : Prop := s.memWf = true → t.memWf = true

theorem keepsWf_of_dram {s t : State} (h : t.dram = s.dram) : KeepsWf s t := fun w => by
  unfold State.memWf at w ⊢
  rw [h]; exact w

theorem keepsWf_trans {s t u : State} (h : KeepsWf s t) (k : KeepsWf t u) : KeepsWf s u := fun w => k (h w)

theorem keepsWf_foldl {α : Type} (f : State → α → State) (h : ∀ s x, KeepsWf s (f s x)) (l : List α) :
    ∀ s, KeepsWf s (l.foldl f s) := by
  induction l with
  | nil => exact fun _ w => w
  | cons x t ih => exact fun s => keepsWf_trans (h s x) (ih _)

theorem keepsWf_refl (s : State) : KeepsWf s s := fun w => w

theorem keepsWf_ite (s : State) (p : Prop) [Decidable p] (t u : State) (ht : KeepsWf s t) (hu : KeepsWf s u) :
    KeepsWf s (if p then t else u) := by
  split
  · exact ht
  · exact hu

/-- Bytes put at an address, check words and flag. -/
theorem keepsWf_put (u : State) (a l : Nat) (b : List Byte) (g : List Nat) (f : Bool) :
    KeepsWf u (dramFlag (dramFresh (dramPut u a b) l g) l f) := memWf_dramPut u a b

theorem keepsWf_writeBack (s : State) (l : Nat) (c : CLine) (src : Nat) (all : Bool) : KeepsWf s (writeBack s l c src all) :=
  keepsWf_trans (keepsWf_of_dram ((dram_beginWrite ..).trans (dram_countScan ..))) (keepsWf_put _ _ _ _ _ _)

theorem keepsWf_evictLine (s : State) (l : Nat) : KeepsWf s (evictLine s l) := by
  unfold evictLine
  split
  · exact keepsWf_trans (keepsWf_ite _ _ _ _ (keepsWf_writeBack _ _ _ _ _) (keepsWf_refl _)) (keepsWf_of_dram rfl)
  · exact keepsWf_refl _

theorem keepsWf_allocate (s : State) (l : Nat) (c : CLine) (cls : Alloc) : KeepsWf s (allocate s l c cls) :=
  keepsWf_trans (keepsWf_foldl evictLine keepsWf_evictLine (victims s l cls) s) (keepsWf_of_dram rfl)

theorem dram_hitLine (s : State) (l : Nat) (c : CLine) (cls : Alloc) : (hitLine s l c cls).dram = s.dram :=
  dram_ite s _ _ _ rfl rfl

theorem keepsWf_hitLine (s : State) (l : Nat) (c : CLine) (cls : Alloc) : KeepsWf s (hitLine s l c cls) :=
  keepsWf_of_dram (dram_hitLine ..)

theorem keepsWf_inc (s : State) (f : Fld) (n : Nat) : KeepsWf s (inc s f n) := keepsWf_of_dram rfl

theorem keepsWf_cachePut (s : State) (l : Nat) (c : Option CLine) : KeepsWf s (cachePut s l c) := keepsWf_of_dram rfl

theorem keepsWf_dramFlag (s : State) (l : Nat) (f : Bool) : KeepsWf s (dramFlag s l f) := keepsWf_of_dram rfl

theorem keepsWf_metaWrite (s : State) (l src : Nat) : KeepsWf s (metaWrite s l src) := keepsWf_of_dram (dram_metaWrite ..)

theorem keepsWf_countScan (s : State) (l src : Nat) (r : LineScan) (marked : Bool) : KeepsWf s (countScan s l src r marked) :=
  keepsWf_of_dram (dram_countScan ..)

theorem keepsWf_dramRead (s : State) (l src : Nat) : KeepsWf s (dramRead s l src).2.2 := keepsWf_of_dram (dram_dramRead ..)

theorem keepsWf_lineServe (s : State) (l : Nat) (cls : Alloc) : KeepsWf s (lineServe s l cls).2.2 := by
  unfold lineServe
  dsimp only
  split
  · dsimp only
    refine keepsWf_trans ?_ (keepsWf_hitLine _ _ _ _)
    refine keepsWf_trans ?_ (keepsWf_ite _ _ _ _
      (keepsWf_trans (keepsWf_trans (keepsWf_metaWrite _ _ _) (keepsWf_dramFlag _ _ _)) (keepsWf_cachePut _ _ _)) (keepsWf_refl _))
    refine keepsWf_trans ?_ (keepsWf_ite _ _ _ _ (keepsWf_inc _ _ _) (keepsWf_refl _))
    exact keepsWf_trans (keepsWf_inc _ _ _) (keepsWf_countScan _ _ _ _ _)
  · have h := keepsWf_trans (keepsWf_inc s F.MD_CACHE_MISS_MISS_CNT (dpaMd (64 * l))) (keepsWf_dramRead _ l 0)
    exact keepsWf_trans h (keepsWf_ite _ _ _ _ (keepsWf_refl _) (keepsWf_allocate _ _ _ _))

theorem keepsWf_holdReq (s : State) (l : Nat) (r : MemReq) : KeepsWf s (holdReq s l r) := keepsWf_of_dram rfl

theorem keepsWf_lineRead (s : State) (l : Nat) (cls : Alloc) : KeepsWf s (lineRead s l cls).2.2 := by
  unfold lineRead
  split
  · exact keepsWf_lineServe _ _ _
  · exact keepsWf_holdReq _ _ _

theorem keepsWf_linesRead (s : State) (ls : List Nat) (cls : Alloc) : KeepsWf s (linesRead s ls cls).2.2 := by
  have h : ∀ (ls : List Nat) (x : List Byte × Bool × State), KeepsWf x.2.2 (ls.foldl (fun (x : List Byte × Bool × State) l =>
      let (d, p, s) := lineRead x.2.2 l cls
      (x.1 ++ d, x.2.1 || p, s)) x).2.2 := by
    intro ls
    induction ls with
    | nil => exact fun x => keepsWf_refl _
    | cons l t ih =>
      intro x w
      exact ih (_, _, _) (keepsWf_lineRead x.2.2 l cls w)
  exact h ls ([], false, s)

/-- A read of device memory keeps its canonical form. -/
theorem keepsWf_memRead (s : State) (a n : Nat) (cls : Alloc) : KeepsWf s (memRead s a n cls).2.2 := by
  unfold memRead
  split
  · exact keepsWf_of_dram rfl
  · exact keepsWf_trans (keepsWf_of_dram (t := askFirst s (linesOf a n) 0) rfl) (keepsWf_linesRead _ _ _)

theorem keepsWf_pageRead (s : State) (pg : Nat) : KeepsWf s (pageRead s pg).2 := by
  rw [pageRead, unmarked_snd]
  exact keepsWf_trans (keepsWf_of_dram (t := askFirst s _ 0) rfl) (keepsWf_linesRead _ _ .normal)

theorem keepsWf_passHolds (p : PassSt) (pg : Nat) (x : List Byte × State) : KeepsWf x.2 (passHolds p pg x) := keepsWf_of_dram rfl

theorem keepsWf_passRead (s : State) (p : PassSt) (pg : Nat) : KeepsWf s (passRead s p pg) :=
  keepsWf_trans (keepsWf_pageRead s pg) (keepsWf_passHolds p pg _)

theorem keepsWf_twinWrite (s : State) (a : Nat) : KeepsWf s (twinWrite s a) := by
  unfold twinWrite
  split
  · exact keepsWf_refl _
  · next pg _ =>
    have h : ∀ u : State, KeepsWf u { u with twin := { u.twin with w := sset 0 u.twin.w pg 3 } } := fun u => keepsWf_of_dram rfl
    have d : ∀ u : State, KeepsWf u (inc u F.TWN_CNT1_HOLD_CNT 0) := fun u => keepsWf_of_dram rfl
    dsimp only
    split
    · exact keepsWf_trans (keepsWf_ite _ _ _ _ (keepsWf_trans (d s) (keepsWf_passRead _ _ _)) (keepsWf_refl _)) (h _)
    · exact h _

theorem keepsWf_dramMerge (s : State) (l off : Nat) (bs : List Byte) (p : Bool) : KeepsWf s (dramMerge s l off bs p) := by
  unfold dramMerge
  dsimp only
  refine keepsWf_trans ?_ (keepsWf_put _ _ _ _ _ _)
  refine keepsWf_trans ?_ (keepsWf_of_dram (dram_beginWrite ..))
  split
  · exact keepsWf_refl _
  · exact keepsWf_of_dram (dram_dramRead ..)

theorem keepsWf_linePerform (s : State) (l off : Nat) (bs : List Byte) (p : Bool) (cls : Alloc) :
    KeepsWf s (linePerform s l off bs p cls) := by
  have h : KeepsWf s (scrubTouch (twinWrite s (64 * l)) l) :=
    keepsWf_trans (keepsWf_twinWrite _ _) (keepsWf_of_dram (dram_scrubTouch ..))
  have w : ∀ (u : State) (f : Fld) (n : Nat), KeepsWf u (inc u f n) := fun u f n => keepsWf_of_dram rfl
  unfold linePerform
  dsimp only
  split
  · refine keepsWf_trans h ?_
    have k := fun (u : State) (c : CLine) => keepsWf_trans (w u F.MD_CACHE_HIT_HIT_CNT (dpaMd (64 * l)))
      (keepsWf_of_dram (dram_cacheMerge _ l c off bs p))
    split
    · exact keepsWf_trans (k _ _) (keepsWf_of_dram (dram_hitLine ..))
    · exact k _ _
  · refine keepsWf_trans (keepsWf_trans h (w _ F.MD_CACHE_MISS_MISS_CNT (dpaMd (64 * l)))) ?_
    refine keepsWf_ite _ _ _ _ (keepsWf_dramMerge _ _ _ _ _) (keepsWf_ite _ _ _ _ (keepsWf_allocate _ _ _ _) ?_)
    exact keepsWf_trans (keepsWf_of_dram (dram_dramRead _ l 0)) (keepsWf_trans (keepsWf_allocate _ _ _ _)
      (keepsWf_of_dram (dram_cacheMerge ..)))

theorem keepsWf_lineWrite (s : State) (l off : Nat) (bs : List Byte) (p : Bool) (cls : Alloc) :
    KeepsWf s (lineWrite s l off bs p cls) := by
  unfold lineWrite
  exact keepsWf_ite _ _ _ _ (keepsWf_linePerform _ _ _ _ _ _) (keepsWf_holdReq _ _ _)

theorem keepsWf_linesWrite (s : State) (a : Nat) (bs : List Byte) (p : Bool) (cls : Alloc) : KeepsWf s (linesWrite s a bs p cls) :=
  keepsWf_foldl (fun s (x : Nat × Nat × List Byte) => lineWrite s x.1 x.2.1 x.2.2 p cls)
    (fun s x => keepsWf_lineWrite s x.1 x.2.1 x.2.2 p cls) _ s

/-- A write of device memory keeps its canonical form. -/
theorem keepsWf_memWrite (s : State) (a : Nat) (bs : List Byte) (p : Bool) (cls : Alloc) : KeepsWf s (memWrite s a bs p cls) := by
  unfold memWrite
  split
  · exact keepsWf_of_dram rfl
  · exact keepsWf_trans (keepsWf_of_dram (t := askFirst s (linesOf a bs.length) 1) rfl) (keepsWf_linesWrite _ _ _ _ _)

theorem keepsWf_portRead (s : State) (r : MemRead) : KeepsWf s (portRead s r).2.2 := by
  unfold portRead
  split
  · split
    · exact keepsWf_of_dram rfl
    · exact keepsWf_memRead _ _ _ _
  · exact keepsWf_memRead _ _ _ _

theorem keepsWf_portWrite (s : State) (w : MemWrite) : KeepsWf s (portWrite s w) := by
  unfold portWrite
  split
  · split
    · exact keepsWf_of_dram rfl
    · exact keepsWf_memWrite _ _ _ _ _
  · exact keepsWf_memWrite _ _ _ _ _

theorem keepsWf_devRead (s : State) (a n : Nat) : KeepsWf s (devRead s a n).2.2 := keepsWf_memRead _ _ _ _

theorem keepsWf_devWrite (s : State) (a : Nat) (bs : List Byte) : KeepsWf s (devWrite s a bs) := keepsWf_memWrite _ _ _ _ _

theorem keepsWf_setXlt (s : State) (d : Nat) (l : List XltEntry) : KeepsWf s (setXlt s d l) := keepsWf_of_dram rfl

/-! ### Translated accesses keep the form -/

theorem keepsWf_walkFrom (va : Nat) : ∀ (level t : Nat) (s : State), KeepsWf s (walkFrom s va level t).2 := by
  intro level
  induction level with
  | zero =>
    intro t s
    have h := keepsWf_devRead s (t + 8 * walkIndex va 0) 8
    unfold walkFrom
    dsimp only
    split
    · exact h
    · split
      · exact h
      · split
        · exact h
        · exact h
  | succ n ih =>
    intro t s
    have h := keepsWf_devRead s (t + 8 * walkIndex va (n + 1)) 8
    unfold walkFrom
    dsimp only
    split
    · exact h
    · split
      · exact h
      · split
        · exact h
        · split
          · exact h
          · generalize (if n = 0 then 256 else 4096) = size
            split
            · exact h
            · exact keepsWf_trans h (ih _ _)

theorem keepsWf_walk (s : State) (root va : Nat) : KeepsWf s (walk s root va).2 := keepsWf_walkFrom va 3 root s

theorem keepsWf_walkAccess (s : State) (root va : Nat) (acc : Access) : KeepsWf s (walkAccess s root va acc).2 := by
  have h := keepsWf_walk s root va
  unfold walkAccess
  split
  · next e => rw [e] at h; dsimp only; split
              · exact h
              · split
                · exact h
                · exact h
  · exact h

theorem keepsWf_translate (s : State) (die k va : Nat) (acc : Access) : KeepsWf s (translate s die k va acc).2 := by
  unfold translate
  dsimp only
  split
  · exact keepsWf_refl _
  · have h := keepsWf_walkAccess s (ctxOf s k).ptRoot va acc
    split
    · next e => rw [e] at h; exact keepsWf_trans h (keepsWf_setXlt _ _ _)
    · next e => rw [e] at h; exact h

theorem keepsWf_translateRange (die k : Nat) (acc : Access) : ∀ (l : List (Nat × Nat)) (s : State),
    KeepsWf s (translateRange s die k acc l).2 := by
  intro l
  induction l with
  | nil => exact fun s => keepsWf_refl _
  | cons x t ih =>
    intro s
    have h := keepsWf_translate s die k x.1 acc
    unfold translateRange
    split
    · next e =>
      rw [e] at h
      split
      · next e2 =>
        have h2 := congrArg Prod.snd e2
        dsimp only at h2
        exact keepsWf_trans h (h2 ▸ ih _)
      · exact keepsWf_trans h (ih _)
    · next e => rw [e] at h; exact h

theorem keepsWf_readPieces (cg : Word32) (cls : Alloc) (ps : List (Nat × Nat)) (s : State) :
    KeepsWf s (readPieces s cg cls ps).2.2 := by
  have h : ∀ (ls : List (Nat × Nat)) (x : List Byte × Bool × State), KeepsWf x.2.2
      (ls.foldl (fun (x : List Byte × Bool × State) p =>
        let (b, q, s) := portRead x.2.2 ⟨BitVec.ofNat 40 p.1, p.2, some cg, cls⟩
        (x.1 ++ b, x.2.1 || q, s)) x).2.2 := by
    intro ls
    induction ls with
    | nil => exact fun x => keepsWf_refl _
    | cons l t ih =>
      intro x w
      have h1 := keepsWf_portRead x.2.2 ⟨BitVec.ofNat 40 l.1, l.2, some cg, cls⟩ w
      exact ih (_, _, _) h1
  exact h ps ([], false, s)

theorem keepsWf_writePieces (cg : Word32) (cls : Alloc) (p : Bool) : ∀ (ps : List (Nat × Nat)) (bs : List Byte) (s : State),
    KeepsWf s (writePieces s cg cls p ps bs) := by
  intro ps
  induction ps with
  | nil => exact fun _ s => keepsWf_refl _
  | cons x t ih => exact fun bs s => keepsWf_trans (keepsWf_portWrite s _) (ih _ _)

theorem keepsWf_dvaRead (s : State) (die k va n : Nat) (cls : Alloc) : KeepsWf s (dvaRead s die k va n cls).2 := by
  have h := keepsWf_translateRange die k .read (vaPieces (n + 1) va n) s
  unfold dvaRead
  split
  · next e => rw [e] at h; exact keepsWf_trans h (keepsWf_readPieces _ _ _ _)
  · next e => rw [e] at h; exact h

theorem keepsWf_dvaWrite (s : State) (die k va : Nat) (bs : List Byte) (p : Bool) (cls : Alloc) :
    KeepsWf s (dvaWrite s die k va bs p cls).2 := by
  have h := keepsWf_translateRange die k .write (vaPieces (bs.length + 1) va bs.length) s
  unfold dvaWrite
  split
  · next e => rw [e] at h; exact keepsWf_trans h (keepsWf_writePieces _ _ _ _ _ _)
  · next e => rw [e] at h; exact h

theorem keepsWf_ringRead (s : State) (d : List Byte) (a n : Nat) : KeepsWf s (ringRead s d a n).2.2 := by
  unfold ringRead
  split
  · exact keepsWf_devRead _ _ _
  · have h := keepsWf_dvaRead s iodDie (qCtx d) a n .normal
    split
    · next e => rw [e] at h; exact h
    · next e => rw [e] at h; exact h

theorem keepsWf_ringWrite (s : State) (d : List Byte) (a : Nat) (bs : List Byte) : KeepsWf s (ringWrite s d a bs) := by
  unfold ringWrite
  split
  · exact keepsWf_devWrite _ _ _
  · exact keepsWf_dvaWrite _ _ _ _ _ _ _

theorem keepsWf_tryRelease (s : State) : KeepsWf s (tryRelease s) := by
  have h : (tryRelease s).dram = s.dram := by
    unfold tryRelease
    dsimp only
    split <;> split <;> rfl
  exact keepsWf_of_dram h

/-- A fill clears its unit and keeps the form. -/
theorem keepsWf_memoryFill (u : FillUnit) (s : State) : KeepsWf s (memoryFill u s) := by
  unfold memoryFill
  split
  · split
    · exact fun w => swf_filter 0 _ _ w
    · exact keepsWf_refl s
  · exact keepsWf_ite _ _ _ _ (keepsWf_refl s) (fun w => keepsWf_tryRelease _ w)
  · exact keepsWf_ite _ _ _ _ (keepsWf_refl s) (fun w => keepsWf_tryRelease _ w)

theorem keepsWf_resetMd (s : State) (m : Nat) : KeepsWf s (resetMd s m) := fun w => swf_filter 0 _ _ w

theorem keepsWf_injectLine (s : State) (a n : Nat) : KeepsWf s (injectLine s a n) := by
  unfold injectLine
  dsimp only
  split
  · exact keepsWf_refl s
  · exact fun w => swf_sset 0 _ _ _ w

theorem memWf_reset : State.reset.memWf = true := rfl

end Sys2Proof.Machine
end

