-- ==== Sys2Proof/Tests/Slice0.lean ====
section
/-! SUPPORT. Tests/Slice0.lean: the smoke test of well-formedness, and for each statement states and operands that meet the
hypotheses of its clauses. -/

namespace Sys2Proof.Tests

open Sys2Proof Sys2Proof.Machine

set_option Elab.async false

/-! ### Helpers -/

/-- Fields written on a state. -/
def with1 (s : State) (l : List (Fld × Nat × Nat)) : State := putFields s l

/-- Core 0 runs virtual core 0 of context 1, with registers and one segment of SPM. -/
def k0 : CoreSt :=
  { CoreSt.reset with
    bound := some ⟨1, 0, 0⟩
    partLen := 1
    g := [(1, 5), (2, 7), (3, 64), (4, 0xFFFFFFFFFFFFFFFF), (5, 3), (63, 0x40)]
    p := [(1, 0xFF), (2, 0xF0F0)]
    pc := 0x110
    hdr := 0x100 }

/-- The state after reset with every MD filled. -/
def filled : State := (List.range 8).foldl (fun s m => setF s F.MD_STS_FILL_DONE m 1) State.reset

/-- The state with core 0 as `k`, running. -/
def on0 (k : CoreSt) : State := setF (setCore filled 0 k) F.CORE_STS_STATE 0 1

def s0 : State := on0 k0

/-- Scalar syllable with p0, result 6, sources 1 and 2. -/
def y0 : SSyl := ⟨0, false, 6, 1, 2, false, 0⟩

/-- 512 bits of a descriptor in the SPM partition (Table 8.2): base, format, layout, sizes 0 and 1, stride or LM1, SCOFS. -/
def descOf (base fmt layout n m st sc : Nat) : BitVec 512 :=
  BitVec.ofNat 512 (base + fmt * 2 ^ 64 + 2 * 2 ^ 68 + layout * 2 ^ 74 + 2 * 2 ^ 76 + (n - 1) * 2 ^ 96 + (m - 1) * 2 ^ 120 +
    st * 2 ^ 240 + sc * 2 ^ 456)

/-- A valid descriptor register with these bits, of region 0. -/
def regOf (raw : BitVec 512) : DescReg := ⟨true, raw, true, true, 0, 0⟩

/-- FP32, 4 by 2 at 0x1000. -/
def dFp : BitVec 512 := descOf 0x1000 0 0 4 2 4 0

/-- INT32, `n` elements at `base`, rank 1. -/
def descIx (base n : Nat) : BitVec 512 :=
  BitVec.ofNat 512 (base + 0xB * 2 ^ 64 + 2 ^ 68 + 2 * 2 ^ 76 + (n - 1) * 2 ^ 96)

/-- A queue descriptor (Table 10.1): ring at 0x1_0000, completions at 0x1_1000, 16 entries, class, context 1, flags. -/
def qd (cls flags : Nat) : List Byte :=
  leBytes 8 0x10000 ++ leBytes 8 0x11000 ++ leBytes 1 4 ++ leBytes 1 cls ++ leBytes 2 1 ++ leBytes 2 3 ++ leBytes 1 flags ++
    leBytes 1 0 ++ leBytes 4 50 ++ leBytes 36 0

/-- An entry (Table 10.3): opcode, flags, NOTBEFORE, body. -/
def ent (op fl nb : Nat) (body : List Byte) : List Byte :=
  leBytes 1 op ++ leBytes 1 fl ++ leBytes 2 0 ++ leBytes 4 0xABCD ++ leBytes 8 nb ++ (body ++ leBytes 48 0).take 48

/-- An outstanding entry at a stage. -/
def eOf (raw : List Byte) (stage : Nat) : EntrySt :=
  { raw := raw, phase := true, stage := stage, slot := none, epoch := 0, adapter := none, poison := false, engNs := 0,
    poster := none, prog := 0 }

/-- A queue in a state with outstanding entries. -/
def qOf (st cls flags : Nat) (es : List (Nat × EntrySt)) : QueueSt :=
  { QueueSt.reset with
    state := st
    desc := qd cls flags
    head := es.length
    mtail := es.length
    entries := es.map (fun e => (e.1, some e.2))
    order := es.map (fun e => e.1) }

/-- Context 1 is ACTIVE with four virtual cores on CD 0, and pages 1 and 2 of its space are translated at CD 0 and the IOD. -/
def ctx1 : CtxSt := { CtxSt.reset with state := 1, ncore := 4, cdmask := 1, ptRoot := 0x100000 }

def mapped (s : State) : State :=
  let l : List XltEntry := [⟨1, 0, 1, false, 0x50000, true, true, true⟩, ⟨1, 0, 2, false, 0x60000, true, true, true⟩]
  { s with ctxs := [(1, ctx1)], xlt := [(0, l), (8, l)] }

/-- The page table of context 1 at 0x10_0000: pages 1 and 2 map to 0x5_0000 and 0x6_0000, readable, writable, pinned. -/
def tables (s : State) : State :=
  devWrite (devWrite (devWrite (devWrite s 0x100000 (leBytes 8 0x101001)) 0x101000 (leBytes 8 0x102001)) 0x102000
    (leBytes 8 0x103001)) 0x103008 (leBytes 8 (0x50000 + 23) ++ leBytes 8 (0x60000 + 23))


/-- The next state of an outcome. -/
def out (o : Host.Outcome State Fault Refusal) : State :=
  match o with
  | .next t => t
  | _ => State.reset

/-- The outcome is a next state. -/
def isNext (o : Host.Outcome State Fault Refusal) : Bool :=
  match o with
  | .next _ => true
  | _ => false

/-- A syllable of core 0 issues and acts. -/
def act0 (s : State) (y : Syl) : Bool := decide (Acts s 0 y)

/-- A unit operation without effects. -/
def noOp : UnitOp := ⟨[], [], [], none, none, true, false, 0, false⟩

/-- A transfer of core 0. -/
def oneXfer : Xfer := newXfer s0 0 k0 .cpy ⟨0, false, 0, 0, 0, 0, 3⟩

/-- The syllable is ready and acts, but is given a stop cause. -/
def ready0 (s : State) (y : Syl) : Bool := decide (Ready s 0 y) && sylActs (coreOf s 0) y && (coreOf s 0).reports == []

/-- Admitted of entry (7, 0) as a Bool. -/
def admittedB (s : State) (cls op : Nat) (e : EntrySt) : Bool :=
  entryOf s 7 0 == some e && e.stage == 3 && qClass (queueOf s 7).desc == cls && entOp e.raw == op

/-- A work item of entry (7, 0) on virtual core 0 of context 1. -/
def item0 : WorkItem := ⟨7, 0, 1, 0, 1, 0, 0, 0, 0, 0, []⟩

/-- What the statements about memory ask of a cached line, for a clean line free of errors. -/
def lineB (s : State) (l : Nat) (c : CLine) : Bool :=
  c.data.length == 64 && (c.dirty || ((scanLine c.data (cacheDiff c) allGranules).data == storedLine s l && !c.poison &&
    !voteFlag (sget 0 s.dramPoison l) &&
    allGranules.all (fun g => decodeDiff (cacheDiff c g) != .bad && decodeDiff (dramDiff s l g) != .bad)))

/-- Every cached line passes. -/
def cacheB (s : State) : Bool := s.cache.all (fun e => match e.2 with | some c => lineB s e.1 c | none => true)

/-- The check is the premise of the statements about memory. -/
theorem cacheOk_of_cacheB (s : State) (h : cacheB s = true) : CacheOk s := by
  intro l c hc
  have hb : lineB s l c = true := by
    unfold cacheGet at hc
    unfold cacheB at h
    revert h hc
    generalize s.cache = m
    induction m with
    | nil => intro _ hc; cases hc
    | cons e t ih =>
      intro h hc
      obtain ⟨a, v⟩ := e
      simp only [List.all_cons, Bool.and_eq_true] at h
      rw [sget_cons] at hc
      split at hc
      · subst hc; subst_vars; exact h.1
      · exact ih h.2 hc
  simp only [lineB, Bool.and_eq_true, Bool.or_eq_true, beq_iff_eq, Bool.not_eq_true', List.all_eq_true, bne_iff_ne] at hb
  refine ⟨hb.1, fun hd => ?_⟩
  rcases hb.2 with h1 | h1
  · rw [hd] at h1; cases h1
  · obtain ⟨⟨⟨h1, h2⟩, h3⟩, h4⟩ := h1
    have mem : ∀ g, g < 4 → g ∈ allGranules := by decide
    refine ⟨h1, ⟨fun h => ?_, fun h => ?_⟩⟩
    · rcases h with h | ⟨g, hg, h⟩
      · rw [h2] at h; cases h
      · exact absurd h (h4 g (mem g hg)).1
    · rcases h with h | ⟨g, hg, h⟩
      · rw [h3] at h; cases h
      · exact absurd h (h4 g (mem g hg)).2

/-- Context 1 ACTIVE, one virtual core on CD 0, an ember area of 73 units on 2 MiB pages from DVA 0x20_0000. -/
def ctxE : CtxSt :=
  { CtxSt.reset with
    state := 1
    ncore := 1
    share := 3
    cdmask := 1
    spmseg := 1
    tmpl := 0x4000
    emberBase := 0x200000
    emberSize := 73
    ptRoot := 0x100000 }

/-- Page tables with three pinned 2 MiB pages behind the pages of `tables`. -/
def bigTables (s : State) : State :=
  devWrite (tables s) 0x102008 (leBytes 8 (0x8000000 + 31) ++ leBytes 8 (0x8200000 + 31) ++ leBytes 8 (0x8400000 + 31))

/-- Fabric time is `n` ns. -/
def atFt (s : State) (n : Nat) : State := { s with ft := { s.ft with now := n * ftUnit } }

/-- Queue 7 of a class with one admitted entry, context 1 as `x`. -/
def sAdm (cls : Nat) (e : EntrySt) (x : CtxSt) : State :=
  let s := setF (bigTables (mapped s0)) F.QUE_TBL_BASE_LO_BASE_LO 0 0x40
  { s with
    queues := [(7, qOf 1 cls 0 [(0, e)])]
    ctxs := [(1, x)]
    msix := { s.msix with unmasked := [(3, true)] } }

def eAdm (op : Nat) (b : List Byte) : EntrySt := eOf (ent op 0 0 b) 3

/-- A group entry of `n` members (Table 12.1), this one of rank `rank`, of context 1: radix 2, members at 0x7_0000. -/
def grp (n rank : Nat) : List Byte :=
  leBytes 2 n ++ leBytes 2 rank ++ leBytes 1 2 ++ leBytes 3 0 ++ leBytes 2 1 ++ leBytes 2 0 ++ leBytes 4 100 ++ leBytes 8 0x70000 ++
    leBytes 8 0x80000 ++ leBytes 1 4 ++ leBytes 3 0 ++ leBytes 4 50 ++ leBytes 2 5 ++ leBytes 1 0 ++ leBytes 21 0

/-- A running command with these partners (rank, module) that has done nothing. -/
def run0 (c : CollCmd) (partners : List (Nat × Nat)) : GroupRun :=
  ⟨c, partners, [], [], [], [], [], [], 0, 0, 0, [], true, false, [], none, []⟩

/-- The collective queue 7 with one entry, and group 3 as `x`. -/
def withRun (s : State) (x : GroupSt) : State := { s with col := { s.col with groups := [(3, x)] } }

/-- Queue 7 of the collective class with an entry; group 3's entry in memory, its members modules 0, 10, 20, 30. -/
def sAdm2 (e : EntrySt) : State :=
  let s := setF (sAdm 2 e ctx1) F.COL_GRP_BASE_LO_BASE_LO 0 0x78
  devWrite (devWrite s (groupAddr s 3) (grp 1 0)) 0x70000 (leBytes 2 0 ++ leBytes 2 10 ++ leBytes 2 20 ++ leBytes 2 30)

/-! ### Scalar and control syllables -/

/-- ScalarResults, and the compares and predicate operations of PredicatesAndSpecialRegisters. -/
theorem test_scalar_acts :
    (aluTable.map (fun e => Syl.s e.2.1 y0) ++ compareTable.map (fun e => Syl.s e.2.1 y0) ++
      predicateTable.map (fun e => Syl.s e.2.1 y0) ++ [Syl.s .movhi y0, .s .pget y0, .s .popc y0, .s .clz y0, .s .pnot y0,
      .s .pmov y0, .s .nop y0]).all (act0 s0) = true := by decide +kernel

/-- The result register is the first and the last of the file, IM is set, and a compare writes p0. -/
theorem test_scalar_acts_at_bounds :
    (aluTable.map (fun e => Syl.s e.2.1 { y0 with rd := 63, im := true, imm := 0x80000000 }) ++
      compareTable.map (fun e => Syl.s e.2.1 { y0 with rd := 0 })).all (act0 s0) = true := by decide +kernel

/-- A second operand is sign-extended: 7 + (-1) (Table 2.5). -/
theorem test_add_immediate :
    getG (coreOf (out (execAdd 0 ⟨0, false, 6, 2, 0, true, 0xFFFFFFFF⟩ s0)) 0) 6 = 6 := by decide +kernel

/-- MULH of -1 and 7 keeps the upper half of -7 (Table 2.8). -/
theorem test_mulh_negative : getG (coreOf (out (execMulh 0 ⟨0, false, 6, 4, 2, false, 0⟩ s0)) 0) 6 = 0xFFFFFFFFFFFFFFFF := by
  decide +kernel

/-- A shift by 64 shifts by 0 (b mod 64, Table 2.8). -/
theorem test_shift_by_width : getG (coreOf (out (execShl 0 ⟨0, false, 6, 1, 3, false, 0⟩ s0)) 0) 6 = 5 := by decide +kernel

/-- CMPLT is signed and CMPLTU is not: -1 against 7. -/
theorem test_compare_signs :
    getP (coreOf (out (execCmplt 0 ⟨0, false, 3, 4, 2, false, 0⟩ s0)) 0) 3 = 0xFFFFFFFFFFFFFFFF ∧
      getP (coreOf (out (execCmpltu 0 ⟨0, false, 3, 4, 2, false, 0⟩ s0)) 0) 3 = 0 := by decide +kernel

/-- Loop levels on core 0. -/
def looped (l : List LoopLevel) : State := on0 { k0 with loops := l }

/-- RDSR of registers 0 to 6, 8 and of the free bits; WRSR of LC0 and LC1 with no, one and two levels open. -/
theorem test_special_registers_act :
    ([0, 1, 2, 3, 4, 5, 6, 7, 8].all (fun n => act0 s0 (.s .rdsr ⟨0, false, 6, 0, 0, false, n⟩)) &&
      [looped [], looped [⟨0x100, 0x180⟩], looped [⟨0x100, 0x180⟩, ⟨0x110, 0x118⟩]].all (fun s =>
        act0 s (.s .wrsr ⟨0, false, 0, 1, 0, false, 5⟩) && act0 s (.s .wrsr ⟨0, false, 0, 1, 0, false, 6⟩)) &&
      (coreOf s0 0).bound.isSome) = true := by decide +kernel

def cy : CSyl := ⟨0, false, 0, 4⟩

/-- ControlMovesProgramCounter: branches with no, one and two levels open, LOOP with counts -1, 0, 5 and 2^32. -/
theorem test_control_acts :
    ([looped [], looped [⟨0x100, 0x180⟩], looped [⟨0x200, 0x280⟩], looped [⟨0x100, 0x400⟩, ⟨0x110, 0x118⟩]].all (fun s =>
        act0 s (.c .br cy) && act0 s (.c .brr ⟨0, false, 3, 0⟩) && act0 s (.c .call cy) && act0 s (.c .ret cy)) &&
      [0, 1, 4].all (fun ra => act0 (looped []) (.c .loop ⟨0, false, ra, 4⟩) &&
        act0 (looped [⟨0x100, 0x180⟩]) (.c .loop ⟨0, false, ra, 4⟩)) &&
      act0 (on0 { k0 with g := [(1, 0x100000000)] }) (.c .loop ⟨0, false, 1, 4⟩)) = true := by decide +kernel

/-- A count of 2^32 leaves LC0 at 2^32 - 1 (R63). -/
theorem test_loop_longest :
    (coreOf (out (execLoop 0 ⟨0, false, 1, 4⟩ (on0 { k0 with g := [(1, 0x100000000)] }))) 0).lc0 = 0xFFFFFFFF := by decide +kernel

def item1 : WorkItem := ⟨3, 4, 1, 0, 2, 0, 0, 0, 0, 0, [1]⟩

def sHalt : State := { on0 { k0 with item := some (3, 4) } with items := [item1] }

def chlt : CSyl := ⟨0, false, 0, 0⟩

/-- HaltEndsOrWaits: a busy unit, a report, a transfer; and a core with nothing busy whose work item is known. -/
theorem test_halt_waits_and_ends :
    ([setUnitOps k0 0 [noOp], { k0 with reports := [⟨6, 0⟩] }, { k0 with xfers := [(0, some oneXfer)] }].all (fun k =>
        act0 (on0 k) (.c .halt chlt) && (!(allIdle k && (xferList k).isEmpty) || k.reports != [])) &&
      act0 sHalt (.c .halt chlt) && allIdle (coreOf sHalt 0) && xferList (coreOf sHalt 0) == [] &&
      (coreOf sHalt 0).reports == [] && (coreOf sHalt 0).bound == some ⟨1, 0, 0⟩ && (coreOf sHalt 0).item == some (3, 4) &&
      itemOf sHalt 3 4 == some item1) = true := by decide +kernel

/-- StopsAtIssue: STOP; WRSR of register 4; BRR to 5 and RET to 4; a third LOOP, one of 2^32 + 1, one past its outer level. -/
theorem test_stop_causes :
    (ready0 s0 (.c .stop ⟨0, false, 4, 0⟩) && !sylLegal (.s .wrsr ⟨0, false, 0, 1, 0, false, 4⟩) &&
      (coreOf s0 0).fetched.isNone && coreState s0 0 == 1 && !frozen s0 &&
      ready0 s0 (.c .brr ⟨0, false, 1, 0⟩) && (getG k0 1).toNat % 8 != 0 &&
      ready0 (on0 { k0 with g := [(63, 4)] }) (.c .ret cy) &&
      ready0 (looped [⟨0, 0⟩, ⟨0, 0⟩]) (.c .loop ⟨0, false, 1, 4⟩) &&
      ready0 (on0 { k0 with g := [(1, 0x100000001)] }) (.c .loop ⟨0, false, 1, 4⟩) &&
      ready0 (looped [⟨0x100, 0x118⟩]) (.c .loop ⟨0, false, 1, 4⟩) && decide (0x118 < (branchTarget k0 cy).toNat)) = true := by
  decide +kernel

/-- StopsAtIssue: an access that is misaligned or beyond the partition; at the last 8 bytes none is. -/
theorem test_spm_causes :
    ([(MOp.ld, 5, 1), (.lds, 1, 2), (.st, 4, 3), (.descLd, 1, 0), (.descSv, 1, 0)].all (fun e =>
        let m : MSyl := ⟨0, false, 6, e.2.1, e.2.2, 0, 0⟩
        ready0 s0 (.m e.1 m) && decide (partBytes k0 < loadAddr k0 m + mSize e.1 m ∨ loadAddr k0 m % min (mSize e.1 m) 8 ≠ 0)) &&
      act0 s0 (.m .ld ⟨0, false, 6, 0, 3, 0, 0xFFF8⟩)) = true := by decide +kernel

/-! ### Scalar memory and descriptors -/

def km : CoreSt :=
  spmWrite { k0 with
      g := [(1, 0x800), (2, 2), (9, 0xFEDCBA9876543210), (10, 0xFFFFFFFFFFFFFFFE), (11, 0x100000)]
      d := [(3, regOf dFp), (4, { DescReg.none with refusal := 5 })] }
    0x800 (leBytes 8 0x8182838485868788 ++ leBytes 8 1 ++ leBytes 0x70 0 ++ leBytes 64 dFp.toNat) false

def sm : State := on0 km

/-- LoadsAndStores: every size, a valid and an invalid descriptor register. -/
theorem test_memory_acts :
    ([0, 1, 2, 3].all (fun z => act0 sm (.m .ld ⟨0, false, 7, 1, z, 0, 0⟩) && act0 sm (.m .lds ⟨0, false, 7, 1, z, 0, 0⟩) &&
        act0 sm (.m .st ⟨0, false, 9, 1, z, 0, 0x10⟩)) &&
      act0 sm (.m .descSts ⟨0, false, 7, 3, 0, 0, 0⟩) && act0 sm (.m .descSts ⟨0, false, 7, 31, 0, 0, 0⟩) &&
      (getD km 3).valid && act0 sm (.m .descSv ⟨0, false, 3, 1, 0, 0, 0x40⟩) &&
      !(getD km 4).valid && act0 sm (.m .descSv ⟨0, false, 4, 1, 0, 0, 0x40⟩)) = true := by decide +kernel

/-- LDS of a byte with its top bit set is negative; LD of two bytes is little-endian (R53). -/
theorem test_load_values :
    getG (coreOf (out (execLds 0 ⟨0, false, 7, 1, 0, 0, 7⟩ sm)) 0) 7 = 0xFFFFFFFFFFFFFF81 ∧
      getG (coreOf (out (execLd 0 ⟨0, false, 7, 1, 1, 0, 0⟩ sm)) 0) 7 = 0x8788 := by decide +kernel

/-- DescriptorLoadAndAdvance: bytes that validate and bytes that do not; d3 advanced by 2, by -2 and by 2^20, and an invalid
register advanced. -/
theorem test_descriptor_acts :
    (act0 sm (.m .descLd ⟨0, false, 8, 1, 0, 5, 0x80⟩) &&
      (descValidate sm 0 (BitVec.ofNat 512 (leNat (spmRead km 0x880 64).1))).1 == 0 &&
      act0 sm (.m .descLd ⟨0, false, 8, 1, 0, 0, 0⟩) &&
      (descValidate sm 0 (BitVec.ofNat 512 (leNat (spmRead km 0x800 64).1))).1 != 0 &&
      act0 sm (.m .descAdv ⟨0, false, 3, 2, 0, 5, 0⟩) && (getD km 3).valid &&
      (match advRaw dFp.toNat 2 with | some w => (descValidate sm 0 (BitVec.ofNat 512 w)).1 == 0 | none => false) &&
      act0 sm (.m .descAdv ⟨0, false, 3, 11, 0, 0, 0⟩) &&
      (match advRaw dFp.toNat 0x100000 with | some w => (descValidate sm 0 (BitVec.ofNat 512 w)).1 != 0 | none => true) &&
      act0 sm (.m .descAdv ⟨0, false, 4, 2, 0, 5, 0⟩)) = true := by decide +kernel

/-- PredicatesHoldBack: ADD, ST and TOKW under p5, which is all zeros; a vector syllable with no lane under p5. -/
theorem test_predicates_hold_back :
    ([Syl.s .add { y0 with pred := 5 }, .m .st ⟨5, false, 9, 1, 0, 0, 0⟩, .y .tokw ⟨5, false, 0, 0, 0⟩,
        .c .halt ⟨0, true, 0, 0⟩].all (fun y => decide (Ready sm 0 y) && !sylActs km y) &&
      decide (Ready sm 0 (.v 1 .vadd ⟨5, false, 5, 1, 2, 3, 0, 0, 0, 0, 0, 0⟩)) &&
      (List.range 64).all (fun j => !laneOn km ⟨5, false, 5, 1, 2, 3, 0, 0, 0, 0, 0, 0⟩ j)) = true := by decide +kernel

/-! ### Vector engine, reductions, conversions and scales -/

def kv : CoreSt :=
  { setTile (setTile (setTile k0 1 [(64, 0x3F800000), (65, 0x40000000), (66, 0xFF800000), (67, 0x7FC00001)]) 2
      [(0, 0x40400000), (64, 0x40400000), (65, 0xC0000000)]) 3 [(0, 0x3F800000), (64, 0x41200000)] with
    g := [(7, 0x3F800000)]
    tags := [(5, 3)] }

def vy : VSyl := ⟨0, false, 5, 1, 2, 3, 1, 1, 0, 0, 0, 0⟩

/-- VectorResults: every operation, B from a tile, a register and a row, some lanes and all. -/
theorem test_vector_acts :
    ((vectorTable.map (fun e => e.2.1) ++ [VOp.vslope] ++ vectorCompareTable.map (fun e => e.2.1)).all (fun o =>
      [vy, { vy with pred := 1, pneg := true, bsrc := 1, gs := 7 }, { vy with bsrc := 2, row0 := 15, nrm1 := 0, pd := 4 }].all
        (fun y => act0 (on0 kv) (.v 0 o y))) && laneOn kv vy 63 && laneOn kv { vy with pred := 1, pneg := true } 8) = true := by
  decide +kernel

/-- VADD of 1.0 and 3.0 is 4.0, and of minus infinity is itself, in its own cell of VD. -/
theorem test_vadd_cells :
    (match unitOps (coreOf (out (execVadd 0 0 vy (on0 kv))) 0) 3 with
      | [o] => o.effs.any (fun f => match f with
        | .tile n c => n == 5 && c.contains (64, 0x40800000) && c.contains (66, 0xFF800000)
        | _ => false)
      | _ => false) = true := by decide +kernel

/-- BF16, 64 by 2 at 0x2000, and E4M3, 64 by 2 at 0x3000, their header at 0x400. -/
def dBf : BitVec 512 := descOf 0x2000 1 0 64 2 64 0x40

def dE4 (b : Nat) : BitVec 512 := descOf b 3 0 64 2 64 0x40

def kd : CoreSt :=
  let k := { setTile k0 1 [(0, 0x3F800000), (1, 0x40000000), (66, 0xC0400000)] with
    d := [(3, regOf dFp), (6, regOf dBf), (7, regOf (dE4 0x3000)), (8, regOf (descOf 0x4000 0xA 0 4 2 4 0))]
    g := [(1, 5), (7, 0x3F800000), (9, 0x1234)]
    tscale := [(6, 0x40000000), (7, 0x3F800000)]
    scaleBuf := ⟨true, 1, 6, 0, []⟩
    seeds := [(6, 3)]
    curVec := some 6 }
  let k := spmWrite k 0x1000 (leBytes 4 0x3F800000 ++ leBytes 4 0x40000000) false
  let k := spmWrite k 0x2000 (leBytes 2 0x3F80 ++ leBytes 2 0x4000) false
  spmWrite k 0x3000 (leBytes 2 0x3838) false

def sd : State := on0 kd

/-- The first granule of the tensor at 0x1000 cannot be corrected. -/
def kBad : CoreSt := { kd with spm := { kd.spm with chk := [(0x100, 0x1111)] } }

def vl : VSyl := ⟨0, false, 5, 1, 0, 0, 1, 2, 0, 0, 3, 0⟩

/-- VectorTransfersAndReductions: VLD of good and of bad data, VST, and every reduction on every axis. -/
theorem test_transfers_and_reductions_act :
    (act0 sd (.v 0 .vld vl) && !(vLoad kd vl).2 && act0 (on0 kBad) (.v 0 .vld vl) && (vLoad kBad vl).2 && act0 sd (.v 1 .vst vl) &&
      reduceTable.all (fun e => [(0, false), (1, false), (2, false), (2, true)].all (fun m =>
        act0 sd (.x e.2 ⟨0, false, 1, m.1, 4, 7, m.2, 0, 1⟩)))) = true := by decide +kernel

/-- XSUM of row 0 and 1 of the tile into g7: 1.0 + 2.0 - 3.0 is 0, zero-extended. -/
theorem test_xsum_rows :
    (match unitOps (coreOf (out (execXsum 0 ⟨0, false, 1, 2, 4, 7, false, 0, 1⟩ sd)) 0) 5 with
      | [o] => o.effs.contains (.gpr 7 0)
      | _ => false) = true := by decide +kernel

/-- XARGMAX finds the element 2.0 at index 1 of row 0. -/
theorem test_xargmax_index :
    (match unitOps (coreOf (out (execXargmax 0 ⟨0, false, 1, 2, 4, 7, false, 0, 1⟩ sd)) 0) 5 with
      | [o] => o.effs.contains (.gpr 7 1)
      | _ => false) = true := by decide +kernel

def kBeef : CoreSt := { spmWrite kd 0x404 (leBytes 2 0xBEEF) false with seeds := [(6, 0xBEEF)] }

/-- ConversionsAndScales: KCVT to BF16, stochastic, and gated in SKIP; KUNP of good data, of bad data, and with ROT. -/
theorem test_conversions_act :
    (act0 sd (.k .kcvt ⟨0, false, 1, 6, 1, 0, 0, false⟩) && !(kcvtOperate sd 0 kd ⟨0, false, 1, 6, 1, 0, 0, false⟩).2.2 &&
      !(gated ⟨0, false, 1, 6, 1, 0, 0, false⟩ && gateState sd 0 == 3) &&
      act0 (setF sd F.BWD_GATE_STS_STATE 0 3) (.k .kcvt ⟨0, false, 1, 8, 0xA, 0, 0, false⟩) &&
      (gated ⟨0, false, 1, 8, 0xA, 0, 0, false⟩ && gateState (setF sd F.BWD_GATE_STS_STATE 0 3) 0 == 3) &&
      act0 sd (.k .kunp ⟨0, false, 2, 3, 0, 0, 0, false⟩) && !(kunpOperate kd ⟨0, false, 2, 3, 0, 0, 0, false⟩).2 &&
      act0 (on0 kBad) (.k .kunp ⟨0, false, 2, 3, 0, 0, 0, false⟩) && (kunpOperate kBad ⟨0, false, 2, 3, 0, 0, 0, false⟩).2 &&
      act0 (on0 kBeef) (.k .kunp ⟨0, false, 2, 6, 1, 0, 0, true⟩) &&
      !(kunpOperate kBeef ⟨0, false, 2, 6, 1, 0, 0, true⟩).2) = true := by
  decide +kernel

/-- QAMAX of a register with a scale, and QSEED, QTSC and QROT of the buffer's register and of another. -/
theorem test_scale_unit_acts :
    (act0 sd (.q .qamax ⟨0, false, 1, 7, 9, 0⟩) && [6, 7].all (fun n => act0 sd (.q .qseed ⟨0, false, 1, n, 9, 0⟩) &&
      act0 sd (.q .qtsc ⟨0, false, 1, n, 9, 0⟩) && act0 sd (.q .qrot ⟨0, false, 1, n, 9, 0⟩))) = true := by decide +kernel

/-! ### Arrays -/

def ka : CoreSt :=
  let k := { setTile (setBank k0 1 [(5, 0x3F800000)]) 2 [(1, 0x40000000)] with
    d := [(3, regOf dFp), (6, regOf (dE4 0x2000)), (7, regOf (descOf 0x3000 3 0 256 2 256 0x40)),
      (8, regOf (descOf 0x3400 3 0 256 2 256 0x40))] }
  spmWrite (spmWrite k 0x2000 (leBytes 2 0x3840) false) 0x3000 (leBytes 2 0x3838) false

def sa : State := on0 ka

def ay : ASyl := ⟨0, false, 1, 6, 7, 3, 0, 0, true, false, 0⟩

/-- The operands of a syllable are accepted for every step. -/
def macGood (o : AOp) (y : ASyl) : Bool :=
  let n := aSteps ka y
  let p := aOperands ka 0 y n 0
  act0 sa (.a 0 o y) && macRefusal 0 0 ka o y p.1 p.2 == 0 &&
    (List.range (if y.dfl = 1 then 1 else n)).all (fun i => let p := aOperands ka 0 y n i; !p.1.bad && !p.2.bad)

/-- ArrayOperationsQueue: loads, each dataflow, one step and as many as the operands give, a refused format, and the drains. -/
theorem test_array_acts :
    (act0 sa (.a 0 .aload ay) && opndRefusal 0 (getD ka 6).tens == 0 && !sget false ka.injPar 0 &&
      !(loadStation ka (getD ka 6).tens (scaleOf ka 6) 0).2 &&
      [AOp.amm, .adist].all (fun o => macGood o ay && macGood o { ay with dfl := 1, da := 8, ksteps := 2 } &&
        macGood o { ay with dfl := 2, ksteps := 1 } && act0 sa (.a 0 o { ay with db := 3 }) &&
        (let p := aOperands ka 0 { ay with db := 3 } (aSteps ka { ay with db := 3 }) 0
         macRefusal 0 0 ka o { ay with db := 3 } p.1 p.2 != 0)) &&
      [AOp.adrain, .afill].all (fun o => act0 (on0 { ka with drainPar := [(0, true)] }) (.a 0 o ay)) && !sget false ka.drainPar 0 &&
      [AOp.adrain, .afill, .aclr].all (fun o => act0 sa (.a 0 o ay) && act0 sa (.a 2 o { ay with acc := 3 }))) = true := by
  decide +kernel

/-! ### DMA, waits, signals and posts -/

def d2 : BitVec 512 := descOf 0x2000 0 0 4 2 4 0

/-- Registers: 4 by 2 at 0x1000, at 0x2000 and at 0x1008; two indices at 0x3000; 2 by 4 at 0x2000 and at 0x1008. -/
def kx : CoreSt :=
  spmWrite { k0 with
      d := [(3, regOf dFp), (4, regOf d2), (5, regOf (descIx 0x3000 2)), (6, regOf (descOf 0x2000 0 0 2 4 2 0)),
        (7, regOf (descOf 0x1008 0 0 2 4 2 0)), (9, regOf (descOf 0x1008 0 0 4 2 4 0))]
      g := [(8, 0), (9, 0)] } 0x1000 (leBytes 8 0x1122334455667788) false

def sx : State := on0 kx

/-- The same with its virtual core entered as RESIDENT. -/
def sxr : State := { sx with vcs := [(128, { VcSt.reset with dir := 1, core := 0 })] }

/-- TransfersAndPortsIssue: source and destination apart, and meeting. -/
theorem test_dma_acts :
    (transferTable.all (fun e =>
        let ix : BitVec 5 := if e.2 == .gath || e.2 == .scat || e.2 == .scadd then 5 else 0
        let apart : DSyl := ⟨0, false, 3, if e.2 == .xp then 6 else 4, ix, 8, 3⟩
        let meet : DSyl := ⟨0, false, 3, if e.2 == .xp then 7 else 9, ix, 8, 3⟩
        let n (y : DSyl) := rangeBytes (meetRanges (newXfer sx 0 kx e.2 y).ds.tens (newXfer sx 0 kx e.2 y).dd.tens)
        act0 sx (.d e.2 apart) && n apart == 0 && act0 sx (.d e.2 meet) && decide (0 < n meet ∧ n meet ≤ 65536)) &&
      act0 sxr (.d .cpy ⟨0, false, 3, 9, 0, 8, 3⟩) && coreAt sxr 1 0 == some 0 && (coreOf sxr 0).bound == some ⟨1, 0, 0⟩ &&
      sxr.stgQ == [] &&
      stgUsed sxr == 0 && freeXfer kx == some 0 && xferList kx == [] && sx.stgQ == [] && stgUsed sx == 0 &&
      stgUsed { sx with stgHeld := [(⟨1, 0, 7⟩, List.range 512)] } == 512) = true := by decide +kernel

/-- A woodpile of two streams for core 0. -/
def woodpile : List (Fld × Nat × Nat) :=
  [(F.BWD_WP_BASE_LO_BASE_LO, 0, 0x10), (F.BWD_WP_CFG_SLICE, 0, 2), (F.BWD_WP_CFG_NSTRM1, 0, 1), (F.BWD_WP_SOFT_SOFT, 0, 1),
   (F.BWD_WP_WIN_SEG0, 0, 2), (F.BWD_WP_WIN_NSEG, 0, 2)]

def sWood (sp opt : Nat) : State :=
  putFields (on0 { kx with partLen := 8, g := [(8, BitVec.ofNat 64 opt)] }) (woodpile ++ [(spFld 0, 0, sp), (spFld 1, 0, sp)])

/-- PUSH of an entry, of a marker at the soft limit, and POP. -/
theorem test_ports_act :
    ([(0, 0), (65472, 0x20), (128, 1)].all (fun e => act0 (sWood e.1 e.2) (.d .push ⟨0, false, 3, 0, 0, 8, 3⟩)) &&
      (newXfer (sWood 65472 0x20) 0 (coreOf (sWood 65472 0x20) 0) .push ⟨0, false, 3, 0, 0, 8, 3⟩).marker &&
      act0 (sWood 128 1) (.d .pop ⟨0, false, 0, 4, 0, 8, 3⟩) && freeXfer (coreOf (sWood 128 1) 0) == some 0) = true := by
  decide +kernel

def yc : DSyl := ⟨0, false, 3, 4, 0, 8, 3⟩

/-- A copy within the partition, and one to a DVA without a translation. -/
def s1 : State := out (execDmaCpy 0 yc sx)

def dDev : BitVec 512 := BitVec.ofNat 512 (0x7000 + 2 * 2 ^ 48 + 2 * 2 ^ 68 + 3 * 2 ^ 96 + 1 * 2 ^ 120 + 4 * 2 ^ 240)

def s2 : State := out (execDmaCpy 0 yc (on0 { kx with d := [(3, regOf dFp), (4, regOf dDev)] }))

/-- A copy of E4M3 data whose header cannot be corrected. -/
def s1Bad : State :=
  let s := out (execDmaCpy 0 yc (on0 { kx with
    d := [(3, regOf (descOf 0x2000 3 0 64 2 64 0x40)), (4, regOf (descOf 0x3000 3 0 64 2 64 0x80))] }))
  let k := coreOf s 0
  setCore s 0 { k with spm := { k.spm with chk := [(0x40, 0x1111)] } }

/-- A chunk of the transfer in place 0 is due. -/
def chunkDue (s : State) : Bool :=
  match xferOf (coreOf s 0) 0 with
  | some x => x.state == 0 && decide (x.prog < xferChunks x) && (x.phase == .plain || x.phase == .w) && decide (x.opc ≤ 0x14)
  | none => false

def chunkEnd (s : State) : Nat :=
  match xferOf (coreOf s 0) 0 with
  | some x => match (plainChunk s 0 x).1 with
    | .ok => 0
    | .fault _ _ => 1
    | .uncorrectable => 2
    | _ => 3
  | none => 9

/-- A copy onto overlapping bytes that waits for staging, then with its staging. -/
def sWait : State :=
  out (execDmaCpy 0 { yc with dd := 9 } { sx with
    stgQ := [(⟨9, 5, 5⟩, 1)]
    vcs := [(128, { VcSt.reset with dir := 1, core := 0 })] })

def sHead : State := { sWait with stgQ := sWait.stgQ.tail }

def sPhase : State := out (execStagingGrant sHead)

/-- Place 0 holds a transfer for which `p` holds. -/
def xfer0 (s : State) (p : Xfer → Bool) : Bool := match xferOf (coreOf s 0) 0 with | some x => p x | none => false

/-- No MD's list of waiting slice requests names the transfer. -/
def noSliceWait (s : State) (x : Xfer) : Bool :=
  (List.range 8).all (fun m => !(mdOf (askSlices s 0 x) m).stgWait.any (fun h => h.1 == stgUser s 0 x))

/-- TransfersMoveTensors and TransfersAndMessagesComplete: chunks, completion, staging. -/
theorem test_transfers_move :
    (chunkDue s1 && chunkEnd s1 == 0 && chunkDue s2 && chunkEnd s2 == 1 && chunkDue s1Bad && chunkEnd s1Bad == 2 &&
      xfer0 s1 (fun x => x.phase == .plain && x.opc == 0x10 && x.ds.tens.space != 0 && x.dd.tens.space != 0 &&
        !fmtScaled x.ds.tens.fmt) &&
      xfer0 (out (execDmaChunk 0 0 s1)) (fun x => decide (xferChunks x ≤ x.prog) && x.state == 0 && x.idxflt == 0 && x.units == 0 &&
        !optSts x.opts.toNat && !(coreOf (out (execDmaChunk 0 0 s1)) 0).halting) &&
      xfer0 sHead (fun x => sHead.stgQ == [(stgUser sHead 0 x, 1)] && xferById (coreOf sHead 0) x.id == some (0, x) &&
        coreAt sHead 1 0 == some 0 && decide (stgUsed sHead + 1 ≤ 512) && x.ds.tens.space != 0) &&
      xfer0 sPhase (fun x => x.phase == .s && x.state == 0 && x.opc == 0x10 && x.ds.tens.space != 0 && x.dd.tens.space != 0 &&
        noSliceWait sPhase x)) = true := by decide +kernel

/-- The copy moved the bytes (R231): 8 of them at the destination. -/
theorem test_copy_bytes :
    (spmRead (coreOf (out (execDmaChunk 0 0 s1)) 0) 0x2000 8).1 = leBytes 8 0x1122334455667788 := by decide +kernel

/-- A spill waits on stream 0, and stream 1 has spilled two units of its window; the streams stand at DVA `b` * 64 KiB. -/
def sSpill (b : Nat) : State :=
  mapped (putFields (on0 { kx with partLen := 8, spills := [(0, [(0, 128), (128, 192)])], winLo := [(1, 8192)] })
    (woodpile ++ [(F.BWD_WP_BASE_LO_BASE_LO, 0, b), (spFld 0, 0, 192), (spFld 1, 0, 8192 + 128)]))

/-- The write of the oldest spill of stream 0, and the read of the refill of stream 1, come off. -/
def winWorks (s : State) : Bool × Bool :=
  ((match (commitWrites s 0 0 .normal (byteWrites (streamBase s 0 0 + 0) (winGet s 0 0 0 (128 - 0)))).1 with
    | .ok _ => true
    | .error _ => false),
   match (readBytes s 0 0 (streamBase s 0 1 + winLoOf s 0 1 - 4096) 4096).1 with
    | .ok _ => true
    | .error _ => false)

/-- TransfersMoveTensors and TransfersAndMessagesComplete: windows whose pages translate, and fault. -/
theorem test_windows_move :
    ([1, 16].all (fun b => let s := sSpill b
        spillsOf s 0 0 == [(0, 128), (128, 192)] && spillsOf s 0 1 == [] && !windowHeld s 0 0 && !windowHeld s 0 1 &&
        min 4096 (min (winLoOf s 0 1) (winSize s 0 - (spOf s 0 1 - winLoOf s 0 1))) == 4096 &&
        decide (spOf s 0 1 - winLoOf s 0 1 ≤ winSize s 0) && xferList (coreOf s 0) == []) &&
      winWorks (sSpill 1) == (true, true) && winWorks (sSpill 16) == (false, false)) = true := by
  decide +kernel

/-- The condition of a slot-Y wait as a Bool. -/
def condB (s : State) (k : CoreSt) (y : YSyl) : YOp → Bool
  | .wdma => (xferList k).all (fun x => x.tag != y.imm.toNat % 16)
  | .weng => (List.range 8).all (fun u => !bitAt y.imm.toNat u || unitIdle k u)
  | .twait => decide ((getG k y.ra.toNat).toNat ≤ ftNow s)
  | .fence => xferList k == []
  | .tokw => decide (0 < tokenOf k (y.imm.toNat % 32))
  | _ => true

/-- A core for which each wait is over, and one for which none is. -/
def kGo : CoreSt := { k0 with tokens := [(8, 2)] }

def kWait : CoreSt := setUnitOps { k0 with xfers := [(0, some { oneXfer with tag := 8 })] } 3 [noOp]

def yw (ra : BitVec 6) : YSyl := ⟨0, false, ra, 0, 8⟩

/-- WaitsAndSignals: each wait over, each wait not over, and each held and then over. -/
theorem test_waits :
    (waitTable.all (fun e =>
        decide (Ready (on0 kGo) 0 (.y e.2 (yw 0))) && sylActs kGo (.y e.2 (yw 0)) && condB (on0 kGo) kGo (yw 0) e.2 &&
        decide (Ready (on0 kWait) 0 (.y e.2 (yw 1))) && sylActs kWait (.y e.2 (yw 1)) && !condB (on0 kWait) kWait (yw 1) e.2 &&
        (let k : CoreSt := { kGo with fetched := some ⟨kGo.hdr, false, 0, 0, [.y e.2 (yw 0)]⟩ }
         let s := setF (on0 k) F.CORE_STS_STATE 0 2
         coreState s 0 == 2 && !frozen s && !k.halting && !mustWait s 0 k [.y e.2 (yw 0)] [.y e.2 (yw 0)] &&
           condB s k (yw 0) e.2))) = true := by decide +kernel

/-- A signal from core 0 to virtual core 3 on CD 3, and one beyond the context's cores. -/
def sSig (v : Nat) : State :=
  { on0 { k0 with g := [(1, BitVec.ofNat 64 v)] } with ctxs := [(1, { CtxSt.reset with state := 1, ncore := 4, cdmask := 0xC })] }

/-- Signals on their way to CD 0, of a context with one virtual core, whose counter 4 stands at `tok`. -/
def sArr (dir gen tgt tok : Nat) : State :=
  setCore { on0 k0 with
      ctxs := [(1, { CtxSt.reset with state := 1, ncore := 4, cdmask := 1 })]
      vcs := [(129, { VcSt.reset with dir := dir, core := 3 })]
      sigs := [(0, [⟨0, 1, gen, tgt, 4⟩, ⟨2, 1, 0, 0, 4⟩])] } 3 (setToken k0 4 tok)

theorem test_signals :
    (act0 (sSig 3) (.y .sig ⟨0, false, 1, 0, 37⟩) && act0 (sSig 4) (.y .sig ⟨0, false, 1, 0, 37⟩) &&
      decide ((ctxOf (sSig 4) 1).ncore ≤ 4) && sget [] (sArr 1 0 1 5).sigs 0 == [⟨0, 1, 0, 1, 4⟩, ⟨2, 1, 0, 0, 4⟩] &&
      (vcOf (sArr 1 0 1 65535) 1 1).dir == 1 && tokenOf (coreOf (sArr 1 0 1 65535) 3) 4 == 65535 &&
      (ctxOf (sArr 1 7 1 5) 1).gen != 7 && (vcOf (sArr 2 0 1 5) 1 1).dir == 2 && (ctxOf (sArr 2 0 1 5) 1).gen == 0) = true := by
  decide +kernel

/-- A full counter stays full: 65,535 (R66). -/
theorem test_signal_saturates : tokenOf (coreOf (out (execSigArrival 0 (sArr 1 0 1 65535))) 3) 4 = 65535 := by decide +kernel

/-- An entry at 0x2000 of the partition, for queue 7 of this class and these flags, with MTAIL at `mt`. -/
def sPost (cls flags st op mt : Nat) : State :=
  let k := { spmWrite k0 0x2000 (ent op 0 0 (leBytes 4 0x1234567 ++ leBytes 8 5)) false with
    g := [(1, 0x2000), (2, 7)]
    pzArmed := true
    pz := true }
  setF { mapped (on0 k) with queues := [(7, { qOf st cls flags [] with mtail := mt })] } F.QUE_TBL_BASE_LO_BASE_LO 0 0x40

/-- A post that its queue takes, as the host's head stands in the descriptor. -/
def takes (s : State) : Bool :=
  let x := queueOf s 7
  let r := devRead s (queDescAddr s 7 + 28) 2
  x.state == 1 && !x.disabling && qPostOk x.desc && decide (qClass x.desc < 3) && qCtx x.desc == 1 &&
    (x.mtail + 16 - leNat r.1 % 16) % 16 != 15 &&
    (match (translate r.2.2 iodDie 1 (qRing x.desc + 64 * x.mtail) .write).1 with
      | .ok d => d % 64 == 0 && decide (d + 64 ≤ dpaLimit)
      | .fault _ _ _ => false)

/-- PostsReachQueue: a work item, a gate contribution, a queue that takes no posts, a halted one, and a full one. -/
theorem test_posts :
    ([sPost 0 1 1 1 3, sPost 2 1 1 0x11 3, sPost 0 0 1 1 3, sPost 0 1 2 1 3, sPost 0 1 1 1 15].all (fun s =>
        act0 s (.y .qpost ⟨0, false, 1, 2, 0⟩)) && takes (sPost 0 1 1 1 3) && takes (sPost 2 1 1 0x11 3) &&
      !qPostOk (queueOf (sPost 0 0 1 1 3) 7).desc && (queueOf (sPost 0 1 2 1 3) 7).state == 2 &&
      (sPost 0 1 1 1 15).cache == [] &&
      leNat (devRead (sPost 0 1 1 1 15) (queDescAddr (sPost 0 1 1 1 15) 7 + 28) 2).1 == 0) = true := by decide +kernel

/-! ### Events of a core and queues -/

/-- An operation of unit 3 with this effect, and one behind it. -/
def sOp (e : Eff) : State := on0 (setUnitOps k0 3 [{ noOp with effs := [e] }, noOp])

/-- A step of array 0 that leaves bank 2, its check sums as they should not be. -/
def sTile : State :=
  let l : List AbftSum := List.replicate 64 ⟨0x40000000, 0x3F800000, 0x3F800000⟩
  on0 (setUnitOps k0 0 [{ noOp with effs := [.bank 2 [(3, 5)]], bank := some 2, abft := some ⟨l, l, 64, false, 0, 0, false, false⟩ }, noOp])

def notEscape (s : State) (u : Nat) : Bool :=
  match unitOps (coreOf s 0) u with
  | o :: _ => o.effs.all (fun e => match e with | .escape _ => false | _ => true)
  | [] => false

/-- UnitEvents: each kind of result, the end of a step, the release of its bank and its event. -/
theorem test_unit_events :
    ([Eff.gpr 3 9, .pred 2 7, .tile 1 [(3, 5)], .bank 2 [(3, 5)], .station 1 Station.reset].all (fun e =>
        notEscape (sOp e) 3 && !frozen (sOp e) && !(coreOf (sOp e) 0).halting) && notEscape sTile 0 && !frozen sTile &&
      arrayRuns (coreOf sTile 0) 0 && drainRuns (setUnitOps k0 8 [noOp]) 0 && arrayRuns (setUnitOps k0 0 [noOp]) 0 &&
      (unitOps (coreOf sTile 0) 0).map (fun o => o.bank) == [some 2, none] &&
      (match (coreOf (out (execTileEnd 0 0 sTile)) 0).events with
        | e :: _ => e.kind == 0
        | [] => false) && !restarting sTile 9 && restarting { sTile with aed := { sTile.aed with restarting := [9] } } 9 &&
      (schedOf sTile 0).notices == []) = true := by decide +kernel

/-- One ADD at 0x1_0010, in the instruction cache and in memory. -/
def lineAdd : List Byte :=
  leBytes 16 0 ++ leBytes 8 (encodeHeader [sylSlot (.s .add y0)] false 0).toNat ++ leBytes 8 (encodeSyl (.s .add y0)).toNat ++
    leBytes 32 0

def sFetch : State :=
  devWrite (mapped (on0 { k0 with pc := 0x10010, hdr := 0x9000, item := some (3, 4), icache := [(0x400, lineAdd)] })) 0x50000 lineAdd

def sReport (code st : Nat) : State := setF (mapped (on0 { k0 with reports := [⟨code, 0⟩] })) F.CORE_STS_STATE 0 st

/-- Context 1 has stopped: queue 7 holds a work item, an admitted entry and one not admitted. -/
def sStopped : State :=
  { setF (setCore (mapped (on0 k0)) 3 k0) F.CORE_STS_STATE 3 1 with
    ctxs := [(1, { ctx1 with stops := [0] })]
    queues := [(7, qOf 1 0 0 [(0, eOf (ent 1 0 0 []) 4), (1, eOf (ent 1 0 0 []) 3), (2, eOf (ent 1 0 0 []) 0)])]
    items := [⟨7, 0, 1, 0, 2, 0, 0, 0, 0, 0, []⟩]
    vcs := [(128, { VcSt.reset with dir := 1, core := 0, cur := some (7, 0), items := [(7, 1)] })] }

/-- FetchAndStops: a bundle of two words, a report of the first and the last code, of a running and of a waiting core, and of a
fault; and a stopped context. -/
theorem test_fetch_and_stops :
    ((match (fetchRead sFetch 0 1 0x10000).1 with | .ok (x, p) => x == lineAdd && !p | .error _ => false) &&
      lineAdd.length == 64 && coreState sFetch 0 == 1 && !frozen sFetch &&
      (headerSlots (leNat ((lineAdd.drop 16).take 8))).isSome &&
      bitsOf (leNat ((lineAdd.drop 16).take 8)) 29 26 == 1 &&
      (decodeBundle 0x10010 (wordsOf 2 ((lineAdd.drop 16).take 16))).isSome &&
      [(1, 1), (7, 2), (5, 1), (6, 3)].all (fun e => (coreOf (sReport e.1 e.2) 0).reports == [⟨e.1, 0⟩] &&
        coreState (sReport e.1 e.2) 0 == e.2) &&
      (ctxOf sStopped 1).stops == [0] && (queueOf sStopped 7).state == 1 && qClass (queueOf sStopped 7).desc == 0 &&
      qCtx (queueOf sStopped 7).desc == 1) = true := by decide +kernel

/-- The fetched bundle issues: g6 = g1 + g2 = 12. -/
theorem test_fetched_add : getG (coreOf (out (execBundleFetch 0 sFetch)) 0) 6 = 12 := by decide +kernel

/-- Queue 7 in a state, of a class, with flags; its descriptor in memory. -/
def sQue (st cls flags : Nat) : State :=
  let s := setF (tables (mapped s0)) F.QUE_TBL_BASE_LO_BASE_LO 0 0x40
  devWrite { s with queues := if st = 0 then [] else [(7, qOf st cls flags [])] } (queDescAddr s 7) (qd cls flags)

/-- The ring of queue 7 can be pinned. -/
def pins (s : State) : Bool :=
  let r := devRead s (queDescAddr s 7) 64
  match pinCheck r.2.2 1 (ctxOf s 1).ptRoot (ctxOf s 1).gen true (pagesOf (qRing r.1) (64 * qSize r.1) ++ pagesOf (qCpl r.1) (32 * qSize r.1)) with
  | (.ok l, u) => locksFit u iodDie l
  | _ => false

/-- QueueCommands: a doorbell taken and one ignored, BUSY, and ENABLE, DISABLE and RESUME in each state, of good and of bad
descriptors. -/
theorem test_queue_commands :
    (getF (setF (sQue 1 0 0) F.QUE_CMD_STS_BUSY 0 1) F.QUE_CMD_STS_BUSY 0 == 1 && getF (sQue 1 0 0) F.QUE_CMD_STS_BUSY 0 == 0 &&
      (queueOf (sQue 1 0 0) 7).state == 1 && !qPostOk (queueOf (sQue 1 0 0) 7).desc && qPostOk (queueOf (sQue 1 0 1) 7).desc &&
      (queueOf (sQue 2 0 0) 7).state == 2 && (queueOf (sQue 0 0 0) 7).state == 0 &&
      [sQue 0 0 0, sQue 0 3 0].all (fun s => descOk (devRead s (queDescAddr s 7) 64).1 && !(devRead s (queDescAddr s 7) 64).2.1) &&
      pins (sQue 0 0 0) && (ctxOf (sQue 0 0 0) 1).state == 1 &&
      !descOk (devRead (devWrite (sQue 0 0 0) (queDescAddr (sQue 0 0 0) 7) (leBytes 8 0x10008)) (queDescAddr (sQue 0 0 0) 7) 64).1 &&
      (devRead { sQue 0 0 0 with dramPoison := [(queDescAddr (sQue 0 0 0) 7 / 64, 7)], cache := [] }
        (queDescAddr (sQue 0 0 0) 7) 64).2.1 &&
      (QueueSt.reset).order == []) = true := by decide +kernel

/-- A doorbell takes TAIL modulo the ring's size of 16. -/
theorem test_doorbell : (queueOf (out (execQueDb 7 35 (sQue 1 0 0))) 7).mtail = 3 := by decide +kernel

/-! ### Admission and completion of entries -/

/-- Queue 7 of this class with these outstanding entries, enabled, HEAD at `h`; MSI-X vector 3 unmasked. -/
def sQ (cls flags : Nat) (es : List (Nat × EntrySt)) : State :=
  let s := setF (tables (mapped s0)) F.QUE_TBL_BASE_LO_BASE_LO 0 0x40
  { s with queues := [(7, qOf 1 cls flags es)], msix := { s.msix with unmasked := [(3, true)] } }

/-- One outstanding entry at index 0. -/
def sOne (cls flags : Nat) (e : EntrySt) : State := sQ cls flags [(0, e)]

/-- A wheel without a free entry. -/
def sFull (s : State) : State :=
  setWheel s iodDie { WheelSt.reset with entries := List.replicate 8192 ⟨5, 5, true, true, .flip⟩ }

def readyB (s : State) (e : EntrySt) (i : Nat) : Bool :=
  entryOf s 7 i == some e && (queueOf s 7).state == 1 && (e.stage == 0 || e.stage == 2) && inOrder (queueOf s 7) i &&
    admissible s (queueOf s 7).desc && armedAs s iodDie (.queueTimeout 7 i) == []

/-- LAUNCH of two virtual cores from 0 at 0x4000: model 2 where MODEL is set, adapter 5 where ADP is set. -/
def launchBody (mdl adp : Nat) : List Byte :=
  leBytes 8 0x4000 ++ leBytes 8 0x77 ++ leBytes 2 0 ++ leBytes 2 1 ++ leBytes 1 mdl ++ leBytes 1 0 ++ leBytes 2 adp

def eFresh (op fl nb : Nat) (b : List Byte) : EntrySt := eOf (ent op fl nb b) 0

/-- Slot 4 holds model 2 at epoch 9; adapter 5 has version 1 current for it. -/
def resident (s : State) : State :=
  { s with
    slots := [(4, { SlotSt.reset with state := 2, model := 2, epoch := 9, imgDva := 0x1000 })]
    models := [(2, ⟨some 4, 9⟩)]
    adapters := [(5, { AdpSt.reset with v1 := { AdpVer.reset with state := 2, model := 2, dva := 0x2000 }, cur := 1 })] }

def sFetchQ (h t : Nat) : State :=
  let s := sQ 0 0 []
  { s with queues := [(7, { qOf 1 0 0 [] with head := h, mtail := t })] }

def eNop : EntrySt := eFresh 0 0 0 []

def eLate : EntrySt := eFresh 0 1 1000 []

def eLaunch (mdl adp : Nat) : EntrySt := eFresh 1 1 0 (launchBody mdl adp)

def sBarrier : State := sQ 0 0 [(0, eOf (ent 0 0 0 []) 3), (1, eFresh 0 2 0 [])]

def good (s : State) (e : EntrySt) (i : Nat) : Bool := readyB s e i && entryBad s (queueOf s 7).desc e.raw == none

def bindErr (s : State) (e : EntrySt) (st d : Nat) : Bool :=
  match entryBinding s (queueOf s 7).desc e.raw with
  | .error x => x == (st, d)
  | .ok _ => false

def bindOk (s : State) (e : EntrySt) (v : Option Nat × Nat × Option (Nat × Nat)) : Bool :=
  match entryBinding s (queueOf s 7).desc e.raw with
  | .error _ => false
  | .ok x => x == v

/-- EntriesAreAdmitted: a fetch, and one at the ring's end; a reserved flag; NOTBEFORE ahead with and without a free entry of
the wheel; a barrier; a LAUNCH without its model, without its adapter, with another base epoch, and bound; a fired NOTBEFORE. -/
theorem test_entries_admitted :
    ([sFetchQ 3 5, sFetchQ 15 0].all (fun s => let x := queueOf s 7
        x.state == 1 && !x.disabling && x.head != x.mtail && decide (unstarted x < 8)) &&
      readyB (sOne 0 4 (eFresh 0 8 0 [])) (eFresh 0 8 0 []) 0 &&
      entryBad (sOne 0 4 (eFresh 0 8 0 [])) (qd 0 4) (eFresh 0 8 0 []).raw == some 1 &&
      entryBad (sOne 0 4 (eFresh 9 0 0 [])) (qd 0 4) (eFresh 9 0 0 []).raw == some 0 &&
      good (sOne 0 0 eLate) eLate 0 && decide (ftNow (sOne 0 0 eLate) < entNotBefore eLate.raw) &&
      (armSched (sFull (sOne 0 0 eLate)) iodDie 1000 (.notBefore 7 0)).isNone && good (sFull (sOne 0 0 eLate)) eLate 0 &&
      (armSched (sOne 0 0 eLate) iodDie 1000 (.notBefore 7 0)).isSome &&
      good sBarrier (eFresh 0 2 0 []) 1 && earlier (queueOf sBarrier 7) 1 == [0] &&
      good (sOne 0 0 (eLaunch 0x82 0)) (eLaunch 0x82 0) 0 && bindErr (sOne 0 0 (eLaunch 0x82 0)) (eLaunch 0x82 0) 7 0 &&
      bindErr (resident (sOne 0 0 (eLaunch 0x82 0x8006))) (eLaunch 0x82 0x8006) 7 0 &&
      good (resident (sOne 0 4 (eLaunch 0x82 0x8005))) (eLaunch 0x82 0x8005) 0 &&
      bindOk (resident (sOne 0 4 (eLaunch 0x82 0x8005))) (eLaunch 0x82 0x8005) (some 4, 9, some (5, 1)) &&
      qWdogEn (qd 0 4) && good (sOne 0 0 eNop) eNop 0 && bindOk (sOne 0 0 eNop) eNop (none, 0, none)) = true := by
  decide +kernel

/-- The NOTBEFORE of an entry has fired. -/
def sFired : State :=
  setWheel (sOne 0 0 { eLate with stage := 1 }) iodDie { WheelSt.reset with fired := [⟨1000, 1000, true, true, .notBefore 7 0⟩] }

theorem test_notbefore_fired :
    (hasFired sFired iodDie (.notBefore 7 0) && entryOf sFired 7 0 == some { eLate with stage := 1 }) = true := by decide +kernel

/-- MISMATCH says both epochs (R305). -/
theorem test_mismatch :
    bindErr { resident (sOne 0 0 (eLaunch 0x82 0x8005)) with
      adapters := [(5, { AdpSt.reset with v1 := { AdpVer.reset with state := 2, model := 2, base := 3 }, cur := 1 })] }
      (eLaunch 0x82 0x8005) 8 (9 + 3 * 2 ^ 32) = true := by decide +kernel

/-- A work item whose two virtual cores have halted, and one that has not been made. -/
def sItem : State :=
  { sOne 0 1 { eLaunch 0x82 0 with stage := 4 } with items := [⟨7, 0, 1, 0, 1, 0, 0, 0, 0, 0, [0]⟩] }

def sTimeout (cls : Nat) : State :=
  setWheel (sOne cls 4 { eNop with stage := 4 }) iodDie { WheelSt.reset with fired := [⟨50000, 50000, false, false, .queueTimeout 7 0⟩] }

/-- An admitted LAUNCH bound to slot 4, with virtual core 0 resident and idle on core 0, and with it away. -/
def eBound : EntrySt := { eLaunch 0x82 0x8005 with stage := 3, slot := some 4, epoch := 9, adapter := some (5, 1) }

def sLaunch (dir : Nat) : State :=
  { setF (resident (sOne 0 0 eBound)) F.CORE_STS_STATE 0 0 with vcs := [(128, { VcSt.reset with dir := dir, core := 0 })] }

/-- EntriesRunAndComplete. -/
theorem test_entries_run :
    (entryOf (sOne 3 2 { eNop with stage := 3 }) 7 0 == some { eNop with stage := 3 } && entOp eNop.raw == 0 &&
      itemOf sItem 7 0 == some ⟨7, 0, 1, 0, 1, 0, 0, 0, 0, 0, [0]⟩ && (entryOf sItem 7 0).isSome &&
      [0, 1].all (fun c => hasFired (sTimeout c) iodDie (.queueTimeout 7 0) && (entryOf (sTimeout c) 7 0).isSome) &&
      [0, 1].all (fun d => admittedB (sLaunch d) 0 1 eBound) && fieldLE eBound.raw 34 35 == 1 &&
      launchTurn (sLaunch 1) 1 7 0 && (vcOf (sLaunch 1) 1 0).cur == none && (vcOf (sLaunch 1) 1 0).dir == 1 &&
      (vcOf (sLaunch 1) 1 0).items == [] &&
      itemOf (sLaunch 1) 7 0 == none && (vcOf (sLaunch 0) 1 0).dir == 0) = true := by decide +kernel

/-! ### Copies, CTX_SET, the resident set -/

/-- MCOPY of `n` bytes from page 1 to `d` in page 2. -/
def eCopy (d n : Nat) : EntrySt := eAdm 1 (leBytes 8 0x10200 ++ leBytes 8 d ++ leBytes 8 n)

def sCopy (d n : Nat) : State := devWrite (sAdm 1 (eCopy d n) ctx1) 0x50200 (leBytes 8 0x1122334455667788)

/-- CTX_SET of context 1: SHARE 5, HIGH, this mask and count of cores. -/
def eSet (mask n : Nat) : EntrySt := eAdm 1 (leBytes 2 1 ++ leBytes 2 5 ++ leBytes 1 1 ++ leBytes 1 mask ++ leBytes 2 n)

def fieldsOf (e : EntrySt) : CtxFields :=
  ⟨fieldLE e.raw 22 23, fieldLE e.raw 18 19, fieldLE e.raw 20 20, fieldLE e.raw 21 21, 1, 0, 0x4000, 73⟩

/-- The ember area of context 1 is pinned and its translations fit on the added CDs. -/
def emberOk (s : State) (added : Nat) : Bool :=
  match pinCheck (templateBad 0x4000 1 s).2 1 0x100000 0 true (pagesOf 0x200000 (73 * 65536)) with
  | (.ok l, u) => emberFits u added l
  | _ => false

/-- CopyAndContextSet: copies of 8 bytes, to a line's end and of nothing mapped; CTX_SET of a context that is not ACTIVE, of bad
fields, with a work item running, and one that is done, with and without a change of cores. -/
theorem test_copy_and_ctx_set :
    ([(0x20000, 8), (0x20038, 8)].all (fun d => let s := sCopy d.1 d.2
        admittedB s 1 1 (eCopy d.1 d.2) && cacheB s && decide (d.1 % 64 + d.2 ≤ 64) && !staleDie s (cgOf s 1) &&
        (match dvaRead (setEntry s 7 0 (some { eCopy d.1 d.2 with stage := 4 })) iodDie 1 0x10200 d.2 .stream with
          | (.ok _, u) => (match (translate u iodDie 1 d.1 .write).1 with | .ok a => a % 64 == d.1 % 64 | _ => false)
          | _ => false)) &&
      admittedB (sCopy 0x900000 8) 1 1 (eCopy 0x900000 8) &&
      admittedB (sAdm 3 (eSet 1 1) { ctxE with state := 3 }) 3 1 (eSet 1 1) &&
      admittedB (sAdm 3 (eSet 1 2) ctxE) 3 1 (eSet 1 2) && fieldsBad (fieldsOf (eSet 1 2)) &&
      !fieldsBad (fieldsOf (eSet 3 1)) && !(templateBad 0x4000 1 (sAdm 3 (eSet 3 1) ctxE)).1 &&
      itemsRun { sAdm 3 (eSet 3 1) ctxE with items := [item0] } 1 && !itemsRun (sAdm 3 (eSet 3 1) ctxE) 1 &&
      emberOk (sAdm 3 (eSet 3 1) ctxE) 2 && emberOk (sAdm 3 (eSet 1 1) ctxE) 0 &&
      movedCores (sAdm 3 (eSet 3 1) ctxE) 1 3 1 == []) = true := by decide +kernel

/-- An admitted command of the resident set with this body. -/
def sRes (op : Nat) (b : List Byte) : State := sAdm 3 (eAdm op b) ctx1

def withSlots (s : State) (l : List (Nat × SlotSt)) (m : List (Nat × ModelSt)) : State := { s with slots := l, models := m }

def slotL : SlotSt := { SlotSt.reset with state := 1, model := 2 }

def slotC : SlotSt := { SlotSt.reset with state := 2, model := 2, epoch := 9 }

def bFlip : List Byte := leBytes 1 2 ++ leBytes 1 5

/-- A kiln queue with an admitted job that names slot 5. -/
def withKiln (s : State) : State :=
  { s with queues := s.queues ++ [(9, qOf 1 1 0 [(0, eOf (ent 0x10 0 0 (leBytes 8 0 ++ leBytes 1 0x85)) 4)])] }

/-- The resident-set statement for slots: each command in a state that it accepts and one that it does not. -/
theorem test_models :
    ([(0x10, leBytes 1 5 ++ leBytes 1 2), (0x11, bFlip), (0x12, leBytes 1 2), (0x13, leBytes 1 5)].all (fun e =>
        admittedB (sRes e.1 e.2) 3 e.1 (eAdm e.1 e.2)) &&
      (slotOf (sRes 0x10 (leBytes 1 5)) 5).state == 0 &&
      (slotOf (withSlots (sRes 0x10 (leBytes 1 5)) [(5, slotL)] []) 5).state == 1 &&
      (modelOf (sRes 0x11 bFlip) 2).slot == none &&
      (slotOf (withSlots (sRes 0x11 bFlip) [(5, slotL)] []) 5) == slotL &&
      kilnNames (withKiln (sRes 0x11 bFlip)) 5 && !kilnNames (sRes 0x11 bFlip) 5 &&
      (modelOf (withSlots (sRes 0x11 bFlip) [(5, slotL), (4, slotC)] [(2, ⟨some 4, 9⟩)]) 2).slot == some 4) = true := by
  decide +kernel

/-- Slot 4 is RETIRING with nothing in flight, and entry (7, 0) waits for it. -/
def sEmptying : State :=
  withSlots (sAdm 3 { eAdm 0x12 (leBytes 1 2) with stage := 4 } ctx1) [(4, { slotC with state := 3, waiter := some (7, 0, 0x77) })] []

def verC : AdpVer := { AdpVer.reset with state := 2, model := 2, dva := 0x2000 }

def verS : AdpVer := { AdpVer.reset with state := 1, model := 2, dva := 0x3000 }

def withAdp (s : State) (x : AdpSt) : State := { s with adapters := [(5, x)] }

def sVerEmptying : State :=
  withAdp (sAdm 3 { eAdm 0x21 (leBytes 2 5) with stage := 4 } ctx1)
    { AdpSt.reset with v0 := { verC with state := 3, waiter := some (7, 0, 0x77) }, v1 := verC, cur := 1 }

/-- Adapters, and what waits for a slot or a version to empty. -/
theorem test_adapters :
    ((slotOf sEmptying 4).state == 3 && (slotOf sEmptying 4).inflight == 0 && (slotOf sEmptying 4).waiter == some (7, 0, 0x77) &&
      (entryOf sEmptying 7 0).isSome && (entryOf sVerEmptying 7 0).isSome &&
      (adpVer (adpOf sVerEmptying 5) 0).waiter == some (7, 0, 0x77) && (adpVer (adpOf sVerEmptying 5) 0).inflight == 0 &&
      [0x20, 0x21, 0x22].all (fun op => admittedB (sRes op (leBytes 2 5)) 3 op (eAdm op (leBytes 2 5))) &&
      (adpVer (adpOf (withAdp (sRes 0x21 (leBytes 2 5)) { AdpSt.reset with v0 := verC, v1 := verS }) 5) 1).state == 1 &&
      AdpSt.reset.cur == 0 && (adpVer AdpSt.reset 1).state == 0 && (adpVer AdpSt.reset 0).state == 0) = true := by decide +kernel

/-! ### Scheduling and contexts -/

/-- Core 0 of context 1 (an ember area and live-range entries at 0x1_0000) holds a YIELD bundle, or none, in a state. -/
def sBank (yld : Bool) (st : Nat) : State :=
  let k := { k0 with fetched := if yld then some ⟨0x100, true, 0, 0, [.s .nop y0]⟩ else none }
  putFields { bigTables (mapped (on0 k)) with ctxs := [(1, ctxE)], vcs := [(128, { VcSt.reset with dir := 1, core := 0 })] }
    [(F.CORE_STS_STATE, 0, st), (F.CORE_STS_BANK_REQ, 0, 1), (F.CORE_LRM_BASE_LO_BASE_LO, 0, 0x10000 / 32),
      (F.CORE_LRM_CNT_COUNT, 0, 1)]

def sDue (s : State) (a : Nat) : State := setSched s 0 { schedOf s 0 with bankReq := [(0, some a)] }

/-- Contexts 1 (NORMAL, on core 0) and 2 (this PRIO, one virtual core with work) of CD 0; every other core is busy or free. -/
def sSch (prio : Nat) (busy : Bool) : State :=
  let s := bigTables (mapped s0)
  let s : State := { s with
    ctxs := [(1, ctxE), (2, { ctxE with prio := prio, tmpl := 0x4000 })]
    vcs := [(128, { VcSt.reset with dir := 1, core := 0 }), (256, { VcSt.reset with items := [(7, 0)] })] }
  if busy then putFields s ((List.range 16).map (fun i => (F.CORE_STS_STATE, i, 1))) else s

/-- Virtual core (2, 0) has waited for its affinity window since 0. -/
def sAff : State := atFt { sSch 0 false with vcs := [(256, { VcSt.reset with items := [(7, 0)], affSince := some 0 })] } 200000

/-- Virtual core (2, 0) is placed on core 5. -/
def sPlaced : State := { sSch 0 false with vcs := [(256, { VcSt.reset with items := [(7, 0)], placed := some 5 })] }

/-- The bundle that core 0 holds, tried: the core is at a cheap point for good, and its live-range entry can be read. -/
def cheapDue (s : State) : Bool :=
  match (coreOf s 0).fetched with
  | some u =>
    let t := tryIssue s 0 u
    u.yld && decide (u.lrm < getF s F.CORE_LRM_CNT_COUNT 0) && getF s F.CORE_STS_BANK_REQ 0 == 1 && !frozen s &&
      [1, 2, 3].contains (coreState s 0) && coreState t 0 == 3 &&
      !(emberRead t 0 1 (getPair s F.CORE_LRM_BASE_LO_BASE_LO F.CORE_LRM_BASE_HI_BASE_HI 0 + 32 * u.lrm) 32).1.isEmpty
  | none => false

/-- A unit of core 0 runs on. -/
def sBusy : State := let s := sBank true 1; setCore s 0 (setUnitOps (coreOf s 0) 3 [noOp])

/-- BankingAndPlacement: a cheap point, a suspended core, a wait that is over; a HIGH and a windowless context, an affinity window
that ends, and a placed virtual core. -/
theorem test_banking_and_placement :
    ((coreOf (sBank true 1) 0).bound == some ⟨1, 0, 0⟩ && allIdle (coreOf (sBank true 1) 0) && cheapDue (sBank true 1) &&
      cheapDue sBusy && !allIdle (coreOf sBusy 0) &&
      (coreOf (sBank true 1) 0).heldWr == [] && (coreOf (sBank true 1) 0).spills == [] && (coreOf (sBank true 1) 0).reports == [] &&
      placeTurn (sSch 1 false) 0 2 0 && placeTurn (setSched (sSch 0 false) 0 { SchedSt.reset with affWin := 0 }) 0 2 0 &&
      (vcOf (sSch 1 false) 2 0).affSince == none && !phaseWRuns (coreOf (sBank true 1) 0) &&
      coreState (sBank false 5) 0 == 5 && coreState (sBank false 1) 0 == 1 &&
      decide (0 ≤ ftNow (sDue (sBank false 1) 0)) && sget none (schedOf (sDue (sBank false 1) 0) 0).bankReq 0 == some 0 &&
      [sSch 1 false, setSched (sSch 0 false) 0 { SchedSt.reset with affWin := 0 }, sAff].all (fun s =>
        vcWaits s 2 0 && ((eligibleCores s 0 (cclassOf s 2 0)).find? (coreFree s)).isSome && homeCd s 2 0 == 0 &&
          !restarting s 9) && prioOf (sSch 1 false) 0 2 == 1 &&
      decide (0 + 1000 * (schedOf sAff 0).affWin ≤ ftNow sAff) && (vcOf sAff 2 0).affSince == some 0 &&
      (vcOf sPlaced 2 0).placed == some 5 && coreState sPlaced 5 == 0 && (ctxOf sPlaced 2).state == 1 &&
      !coveredOpen sPlaced (.bind 2 0) && (ctxOf sPlaced 2).dsmu == 0 &&
      (match pinCheck (templateOf sPlaced 2 0).2.2 2 0x100000 0 false (bindPages (templateOf sPlaced 2 0).1) with
        | (.ok l, u) => locksFit u 0 l
        | _ => false)) = true := by decide +kernel

/-- A period of 100 µs has passed; with and without a restart in it. -/
def sPeriod (spanned : Bool) : State :=
  let s := atFt (setF (sSch 0 false) F.MOD_STS_CORES_REL 0 1) 100000
  { s with aed := { s.aed with spanned := if spanned then [0] else [] } }

/-- Core 0 waits in its slot-Y wait, every core of CD 0 is busy, and context 2 has been kept waiting since 0. -/
def sDwell : State :=
  let s := setF (sSch 0 true) F.CORE_STS_STATE 0 2
  atFt (setSched s 0 { SchedSt.reset with dwellSince := some 0 }) 50000

/-- SchedulerPeriods: a period, one that a restart spans; a HIGH arrival; a dwell that ends. -/
theorem test_scheduler_periods :
    ([false, true].all (fun b => getF (sPeriod b) F.MOD_STS_CORES_REL 0 == 1 && !restarting (sPeriod b) 9 &&
        decide (1000 * (schedOf (sPeriod b) 0).period ≤ ftNow (sPeriod b))) &&
      eligibleCtxs (sPeriod false) 0 == [1, 2] &&
      highWaiters (sSch 1 true) 0 == [(2, 0)] && placeTarget (sSch 1 true) 2 0 false == none &&
      lowestBy (scoreOf (sSch 1 true) 0) ((residentCtxs (sSch 1 true) 0).filter (fun j =>
        prioOf (sSch 1 true) 0 j == 0 && !(bankable (sSch 1 true) 0 j).isEmpty)) == some 1 && bankable (sSch 1 true) 0 1 == [0] &&
      dwellWaiters sDwell 0 == [2] && dwellHolds sDwell 0 && decide (0 + 1000 * (schedOf sDwell 0).dwell ≤ ftNow sDwell) &&
      lowestBy (scoreOf sDwell 0) (sortBy (fun a b => decide (a ≤ b)) (residentCtxs sDwell 0)) == some 1) = true := by
  decide +kernel

/-- A context-table entry with this count of cores. -/
def ctxBytes (ncore : Nat) : List Byte :=
  leBytes 8 0 ++ leBytes 8 0x100000 ++ leBytes 8 0x200000 ++ leBytes 4 73 ++ leBytes 2 ncore ++ leBytes 2 0 ++ leBytes 2 3 ++
    leBytes 1 0 ++ leBytes 1 1 ++ leBytes 1 1 ++ leBytes 1 0 ++ leBytes 2 0 ++ leBytes 8 0x4000 ++ leBytes 16 0

/-- Context 1 FREE with a table entry. -/
def sFree (ncore : Nat) : State :=
  let s := bigTables (mapped s0)
  devWrite { s with ctxs := [] } (ctxEntryAddr s 1) (ctxBytes ncore)

/-- Context 1 in a state of its fence, its dies' generation, and fabric time. -/
def sCtx (st gen dieGen now : Nat) (m : List (Nat × Nat)) : State :=
  atFt { sSch 0 false with ctxs := [(1, { ctxE with state := st, gen := gen, dieGen := dieGen, markers := m, cmdBusy := true })] } now

/-- ContextLifecycle: BUSY, a context that is not FREE, a poisoned entry, a bad one, the manufacturing test, a good one; TEARDOWN of
a FREE and of an ACTIVE context; draining, also past its bound, and at the last generation. -/
theorem test_context_lifecycle :
    (getF (setF (sFree 1) F.CTX_CMD_STS_BUSY 0 1) F.CTX_CMD_STS_BUSY 0 == 1 && getF (sFree 1) F.CTX_CMD_STS_BUSY 0 == 0 &&
      getF (sFree 1) F.DBG_STS_MFG_TEST 0 == 0 && (ctxOf (sFree 1) 1).state == 0 && (ctxOf (sSch 0 false) 1).state == 1 &&
      (devRead { sFree 1 with dramPoison := [(1, 7)], cache := [] } 64 64).2.1 && ctxEntryAddr (sFree 1) 1 == 64 &&
      (let r := devRead (sFree 9) 64 64
       !r.2.1 && tableBad r.1) && getF (setF (sFree 1) F.DBG_STS_MFG_TEST 0 1) F.DBG_STS_MFG_TEST 0 == 1 &&
      (let r := devRead (sFree 1) 64 64
       let f := templateBad (fieldLE r.1 40 47) (fieldLE r.1 28 29) r.2.2
       !r.2.1 && !tableBad r.1 && !f.1 &&
         (match pinCheck f.2 1 (fieldLE r.1 8 15) 0 true (pagesOf (fieldLE r.1 16 23) (fieldLE r.1 24 27 * 65536)) with
           | (.ok l, u) => emberFits u (fieldLE r.1 35 35) l
           | _ => false)) &&
      (ctxOf (sCtx 3 0xFFFFF 0xFFFFF 500000 []) 1).state == 3 && ftNow (sCtx 3 0xFFFFF 0xFFFFF 500000 []) == 500000) = true := by
  decide +kernel

/-- A sweep marker or its echo on lane 2. -/
def marker (op : Nat) : Packet :=
  { dst := 0, src := 9, op := BitVec.ofNat 8 op, vl := 2, hops := 0, ctxgen := 0x5001, fepoch := 0, addr := 0,
    token := 0, body := [] }

/-- QuarantineSweep: an advanced generation, a lane's echo, a marker on a link that is down and on one that is UP, a link that
stays silent, and nothing left. -/
theorem test_quarantine_sweep :
    ((ctxOf (sCtx 3 6 5 0 []) 1).gen != (ctxOf (sCtx 3 6 5 0 []) 1).dieGen && (marker 9).op == 0x09 && (marker 8).op == 0x08 &&
      (marker 9).ctxgen.toNat % 4096 == 1 && (ctxOf (sCtx 4 5 5 0 [(0, 2)]) 1).state == 4 &&
      (ctxOf (sCtx 4 5 5 0 [(0, 2)]) 1).gen == (marker 9).ctxgen.toNat / 4096 &&
      (ctxOf (sCtx 4 6 5 0 []) 1).gen != (marker 9).ctxgen.toNat / 4096 && linkState (sCtx 4 5 5 0 []) 0 == 0 &&
      linkState (setF (sCtx 4 5 5 0 []) F.LNK_STS_STATE 0 3) 0 == 3 &&
      linkState (setF (sCtx 4 5 5 0 []) F.LNK_STS_STATE 0 2) 0 == 2 &&
      (ctxOf (sCtx 4 5 5 2000000 [(47, 3)]) 1).markers.any (fun m => m.1 == 47) &&
      ftNow (sCtx 4 5 5 2000000 [(47, 3)]) == 2000000 &&
      (ctxOf (sCtx 4 5 5 0 []) 1).markers == [] && !(ctxOf (sCtx 4 5 5 0 []) 1).flr) = true := by decide +kernel

/-! ### Translation, faults, device memory -/

/-- Translations of context 1: page 64 on CD 0 and the IOD, and a locked one of page 96 on CD 1. -/
def sXlt : State :=
  { mapped s0 with
    xlt := [(0, [⟨1, 0, 64, false, 0x50000, true, true, false⟩, ⟨2, 0, 64, false, 0x50000, true, true, false⟩]),
      (1, [⟨1, 0, 96, false, 0x60000, true, true, true⟩]), (8, [⟨1, 0, 64, false, 0x50000, true, true, false⟩])] }

/-- A locked translation of context `k` lies in the scope. -/
def lockedIn (s : State) (k sc va : Nat) : Bool :=
  (List.range 9).any (fun d => (xltOf s d).any (fun e => e.locked && xltInScope k sc va e))

def rec5 (cov : List Covered) : FaultRec := ⟨5, 1, 0, 0x10000, 1, 0, 0, 0, 0, 0, false, cov⟩

/-- A record waits; one is open; fabric time is 0; the ring has 16 slots and its head at `h`. -/
def sFlt (h : Nat) (w o b : List FaultRec) : State :=
  let s := setF (setF (mapped s0) F.FLT_HEAD_HEAD 0 h) F.FLT_RING_BASE_LO_BASE_LO 0 0x100
  { s with faults := ⟨w, b, o, 5, []⟩, vcs := [(128, { VcSt.reset with dir := 1, core := 0 })] }

def sFltCore : State := setF (sFlt 0 [] [rec5 [.core 1 0]] []) F.CORE_STS_STATE 0 5

def sFltDue : State :=
  setWheel (sFlt 0 [] [rec5 []] []) iodDie { WheelSt.reset with fired := [⟨9, 9, false, false, .faultService 5⟩] }

/-- TranslationAndFaults: each refusal of XLT_INVAL and one that drops; a walk that succeeds and one that faults; a record written
and a full ring; RETRY of a record that covers nothing and of one that covers a core; ABORT; the bound. -/
theorem test_translation_and_faults :
    (getF (setF sXlt F.XLT_INVAL_STS_BUSY 0 1) F.XLT_INVAL_STS_BUSY 0 == 1 && getF sXlt F.XLT_INVAL_STS_BUSY 0 == 0 &&
      (ctxOf sXlt 1).state == 1 && (ctxOf sXlt 2).state == 0 && 0x410000 / 65536 % 32 != 0 &&
      lockedIn sXlt 1 0 0x600000 && lockedIn sXlt 1 1 0x600000 && lockedIn sXlt 1 2 0 && !lockedIn sXlt 1 0 0x400000 &&
      !lockedIn sXlt 1 1 0x400000 && (coreOf s0 0).bound == some ⟨1, 0, 0⟩ &&
      (match (translate (tables (mapped s0)) 0 1 0x10000 .read).1 with | .ok d => d == 0x50000 | _ => false) &&
      (match (translate (tables { mapped s0 with xlt := [] }) 0 1 0x2FFFF .write).1 with | .ok d => d == 0x6FFFF | _ => false) &&
      (match (translate (mapped s0) 0 1 0x900000 .read).1 with | .fault _ _ _ => true | _ => false) &&
      fltRingSize (sFlt 15 [] [] []) == 16 && getF (sFlt 15 [rec5 []] [] []) F.FLT_TAIL_TAIL 0 == 0 &&
      (0 + 1) % 16 != getF (sFlt 15 [rec5 []] [] [rec5 []]) F.FLT_HEAD_HEAD 0 % 16 &&
      (sFlt 15 [rec5 []] [] [rec5 []]).faults.waiting == [rec5 []] && (sFlt 0 [] [] []).faults.opened == [] &&
      (sFlt 0 [] [rec5 []] []).faults.opened == [rec5 []] && (ctxOf (sFlt 0 [] [rec5 []] []) 1).gen == 0 &&
      (vcOf sFltCore 1 0).dir == 1 && coreState sFltCore (vcOf sFltCore 1 0).core == 5 &&
      !xferSuspended (coreOf sFltCore 0).xfers && (coreOf sFltCore 0).winFault == [] && !(coreOf sFltCore 0).halting &&
      !pinsInScope sXlt && hasFired sFltDue iodDie (.faultService 5)) = true := by decide +kernel

/-- A 2 MiB leaf translates every page in it (R258). -/
theorem test_big_page :
    (match (translate (bigTables (mapped s0)) 0 1 0x3ABCDE .read).1 with | .ok d => d | _ => 0) = 0x8000000 + 0x1ABCDE := by
  decide +kernel

/-- Line 2 cannot be corrected, line 3 has one wrong symbol and line 4 is flagged. -/
def sMem : State :=
  { s0 with
    dram := [(128, 0xAB), (192, 0xCD), (193, 0xEF)]
    dramChk := [(8, 0x1111), (12, diffOfSym 3 5)]
    dramPoison := [(4, 7)]
    ctxs := [(1, ctx1)]
    twin := { TwinSt.reset with windows := [(0, 1)] } }

def rd (a n : Nat) (cg : Option Word32) : MemRead := ⟨BitVec.ofNat 40 a, n, cg, .normal⟩

def wr (a : Nat) (d : List Byte) (p : Bool) (cg : Option Word32) : MemWrite := ⟨BitVec.ofNat 40 a, d, p, cg, .normal⟩

/-- Cached lines: 3 dirty with a wrong symbol, 5 dirty that cannot be corrected, 7 clean. -/
def sCached : State :=
  { sMem with
    cache := [(3, some ⟨List.replicate 64 2, (diffOfSym 3 5).setWidth 64, true, false, false⟩),
      (5, some ⟨List.replicate 64 3, 0x1111, true, false, false⟩), (7, some ⟨List.replicate 64 0, 0, false, false, false⟩)] }

/-- Line `l` cannot be corrected, as a Bool. -/
def badB (s : State) (l : Nat) : Bool :=
  allGranules.any (fun g => decodeDiff (match cacheGet s l with | some c => cacheDiff c g | none => dramDiff s l g) == Decoded.bad)

def sScrub : State := setF sMem F.MD_SCRUB_RATE_PERIOD 0 5

/-- What the scrubber found waits: one line since written, one not. -/
def sFix : State :=
  setMd sMem 0 { MdSt.reset with scrub := [⟨3, false, false⟩, ⟨4, false, true⟩] }

/-- A write of line 4 was sent twice again. -/
def sCrc : State := setMd sMem 0 { MdSt.reset with crc := some (4, true, 2) }

/-- MD 0 has not filled; it holds a read and a write, and the answer to the read waits for it. -/
def sHeld : State :=
  { setF (setMd s0 0 { MdSt.reset with filled := true, held := [.rd 0 .normal, .wr 0 8 [1, 2] false .normal] }) F.MD_STS_FILL_DONE 0 0 with
    answers := [⟨[0], List.replicate 64 0, false, 0⟩] }

/-- MemoryAccessAndScrub: a held request, a stale one, one beyond device memory, and good ones at both ends of memory; lines
that are not cached, clean and dirty; a scrubber at rest and at work. -/
theorem test_memory_access :
    (dpaMd 0 == 0 && unfilledMds sHeld 0 64 == [0] && unfilledMds sMem 0 64 == [] && cacheB sHeld &&
      getF sMem F.MD_STS_FILL_DONE 0 == 1 &&
      getF sMem F.MD_STS_FILL_DONE (dpaMd (dpaLimit - 64)) == 1 && staleDie sMem 0x5001 && !staleDie sMem 0x0001 &&
      cacheB sMem && cacheB sCached && swf none sCached.cache && cacheGet sCached 4 == none &&
      (match cacheGet sCached 7 with | some c => !c.dirty | none => false) &&
      (match cacheGet sCached 3 with | some c => c.dirty && !badB sCached 3 | none => false) &&
      (match cacheGet sCached 5 with | some c => c.dirty && badB sCached 5 | none => false) && badB sMem 2 &&
      (mdOf sCrc 0).crc == some (4, true, 2) && !badB sMem 3 &&
      dpaMd (64 * 3) == 0 && dpaMd (64 * 16) == 1 && getF sMem F.MD_SCRUB_RATE_PERIOD 0 != getF sScrub F.MD_SCRUB_RATE_PERIOD 0 &&
      (mdOf sScrub 0).scrub == [] && (mdOf sFix 0).scrub.map (fun f => f.line) == [3, 4] &&
      (scanLine (dramLine sScrub 2) (dramDiff sScrub 2) allGranules).bads != [] &&
      (scanLine (dramLine sScrub 3) (dramDiff sScrub 3) allGranules).fixes != []) = true := by decide +kernel

/-- MD 0 has its first five pairs trained. -/
def sTrain (tries : Nat) : State :=
  setF (setMd s0 0 { MdSt.reset with
    trained := [(0, true), (1, true), (2, true), (3, true), (4, true)]
    tries := [(5, tries)] }) F.MOD_STS_BOOTED 0 1

def sStage (ovl kiln : List Nat) : State :=
  setMd s0 0 { MdSt.reset with
    stgOvl := ovl.map (fun n => (⟨1, 1, 1⟩, n))
    stgKiln := kiln
    stgWait := [(⟨1, 2, 2⟩, false)] }

/-- What a held write may ask of its MD, as a Bool. -/
def heldB (m : Nat) (r : MemReq) : Bool :=
  match r with
  | .rd k _ => dpaMd (64 * k) == m
  | .wr k off bs _ _ => dpaMd (64 * k) == m && decide (off + bs.length ≤ 64)

/-- TrainingFillStaging: pairs to train, the last attempt of one among them; an MD, a DSM and an SPM to fill, the last of all;
a filled MD with held accesses; slices to yield and to grant, the last one among them. -/
theorem test_training_fill_staging :
    (getF (sTrain 2) F.MOD_STS_BOOTED 0 == 1 && !sget false (mdOf (sTrain 2) 0).trained 5 &&
      sget 0 (mdOf (sTrain 2) 0).tries 5 == 2 &&
      (List.range 5).all (fun p => sget false (mdOf (sTrain 2) 0).trained p) &&
      getF (setF sHeld F.MD_STS_TRAIN_DONE 0 1) F.MD_STS_TRAIN_DONE 0 == 1 && getF sHeld F.MD_STS_FILL_DONE 0 == 0 &&
      !sget false s0.sramFilled 0 && !sget false s0.sramFilled 8 &&
      (mdOf sHeld 0).filled && (mdOf sHeld 0).held.all (heldB 0) && sHeld.dram == [] && sHeld.dramChk == [] && sHeld.cache == [] &&
      freeSlices (mdOf (sStage [2, 3] [4, 5, 6, 7]) 0) == [] && (mdOf (sStage [2, 3] [4, 5, 6, 7]) 0).stgWait != [] &&
      freeSlices (mdOf (sStage [2, 3, 4, 6, 7] []) 0) == [5] &&
      (mdOf (sStage [2, 3, 4, 6, 7] []) 0).stgOvl.length == 5) = true := by
  decide +kernel

/-- A module whose MDs have filled, all SRAM but the last SPM zeroed. -/
def sLastFill : State :=
  { setF s0 F.MOD_STS_BOOTED 0 1 with
    sramFilled := (List.range 135).map (fun n => (n, true))
    mds := (List.range 8).map (fun m => (m, { MdSt.reset with filled := true })) }

/-- The last SPM fill releases the cores (R216). -/
theorem test_last_fill_releases :
    (allFilled { sLastFill with sramFilled := sset false sLastFill.sramFilled 135 true } && !sget false sLastFill.sramFilled 135 &&
      getF sLastFill F.MOD_STS_CORES_REL 0 == 0 &&
      getF (out (execMemoryFill (.spm 127) sLastFill)) F.MOD_STS_CORES_REL 0 == 1) = true := by
  decide +kernel

/-! ### Timers, timed events and gates -/

def sWheel (w : WheelSt) (die now : Nat) : State := atFt (setWheel s0 die w) now

/-- Entries due at 20, and in tick 10 a timeout and a scheduled event, this armed later and with a later deadline. -/
def wheel3 : List WheelEntry := [⟨20, 20, true, true, .flip⟩, ⟨5, 10, false, false, .inject⟩, ⟨10, 10, true, true, .tevent 3 5⟩]

/-- FirstToAct as a Bool. -/
def firstB (now : Nat) (l pre post : List WheelEntry) (e : WheelEntry) : Bool :=
  l == pre ++ e :: post && decide (e.due ≤ now) && pre.all (fun x => decide (now < x.due) || actsBefore e x) &&
    post.all (fun x => decide (now < x.due) || !actsBefore x e)

/-- TimersAndGates, wheels: the first to act among two of one tick, the last tick before it is due, an empty wheel. -/
theorem test_wheels :
    (firstB 10 wheel3 (wheel3.take 2) [] ⟨10, 10, true, true, .tevent 3 5⟩ &&
      firstB 20 [⟨20, 20, false, false, .inject⟩] [] [] ⟨20, 20, false, false, .inject⟩ &&
      (wheelOf (sWheel { WheelSt.reset with entries := wheel3 } 8 9) 8).entries.all (fun e => decide (9 < e.due)) &&
      ftNow (sWheel { WheelSt.reset with entries := wheel3 } 8 9) == 9 && (wheelOf s0 0).coarse == []) = true := by decide +kernel

/-- The scheduled event of a tick fires before its timeout (R27). -/
theorem test_wheel_order :
    (wheelOf (out (execWheelEntryFiring 8 (sWheel { WheelSt.reset with entries := wheel3 } 8 10))) 8).fired =
      [⟨10, 10, true, true, .tevent 3 5⟩] := by decide +kernel

/-- The TEVENT of kind 1 at T = 1000 for one arrival, CSEQ 5. -/
def eTevent : List Byte := ent 9 0 0 (leBytes 2 3 ++ leBytes 2 5 ++ leBytes 1 1 ++ leBytes 1 0 ++ leBytes 2 1 ++ leBytes 8 1000 ++ leBytes 8 0x55)

/-- The GATE of step 9 with this NLOCAL, CSEQ 5. -/
def eGate (n : Nat) : List Byte := ent 0x10 0 0 (leBytes 2 3 ++ leBytes 2 5 ++ leBytes 4 9 ++ leBytes 8 0 ++ leBytes 4 0 ++ leBytes 2 n)

def cmdOf (e : List Byte) : CollCmd := ⟨7, 0, 1, 0, e, grp 1 0⟩

def sRun (r : GroupRun) (arr : Sparse Nat) : State := withRun (sAdm2 (eOf r.cmd.ent 4)) { GroupSt.reset with run := some r, arrivals := arr }

def firedAs (s : State) (die : Nat) (a : WheelAct) : State :=
  setWheel s die { WheelSt.reset with fired := [⟨9, 9, true, true, a⟩] }

/-- The group's command runs `c`; its TEVENT is as `x`. -/
def tev (e : List Byte) : TevSt := ⟨cmdOf e, [], [], false, true, none, false, false⟩

def sTev (x : TevSt) (arr : Sparse Nat) : State :=
  withRun (sAdm2 (eOf x.cmd.ent 4)) { GroupSt.reset with run := some (run0 x.cmd []), tevs := [x], arrivals := arr }

/-- Armed everywhere, arrived, LOCKED; and one that never armed. -/
def sAtT : State := firedAs (setF (sTev (tev eTevent) [(5, 1)]) F.FT_STS_LSTATE 0 1) iodDie (.tevent 3 5)

def sDoubt : State := firedAs (sTev { tev eTevent with allArmed := false } []) iodDie (.tevent 3 5)

def sRelease (refused : Bool) (v : Option Nat) : State :=
  firedAs (sTev { tev eTevent with atT := true, refused := refused, vetoed := v } []) iodDie (.teventEnd 3 5)

/-- The TEVENT due at T as `f` says, as a Bool. -/
def tevB (s : State) (f : TevSt → Bool) : Bool :=
  match (groupOf s 3).tevs.find? (tevDue s 3) with
  | some x => tevOf s 3 5 == some x && f x
  | none => false

/-- Two contributions of virtual cores 1 and 0; virtual core 0 is resident on core 0, its step armed. -/
def con (v : Nat) (ssq : Word32) : Contrib := ⟨8, v, 1, 0, v, 9, ssq, 0, false, 4, 0x100 + 64 * v, false⟩

def armedCore (s : State) : State :=
  { setCore s 0 { k0 with gateStep := 9 } with vcs := [(128, { VcSt.reset with dir := 1, core := 0 })], ctxs := [(1, ctx1)] }

def sCombine : State := armedCore (sRun { run0 (cmdOf (eGate 2)) [] with contribs := [con 1 0x40000000, con 0 0x3F800000] } [])

def sVerdict (pz : Bool) : State :=
  armedCore (sRun { run0 (cmdOf (eGate 1)) [] with
    contribs := [con 0 0x40800000]
    lval := some ⟨0x40800000, 0, 1, pz, false⟩ } [])

def sDeadline : State := firedAs (armedCore (sRun { run0 (cmdOf (eGate 1)) [] with contribs := [con 0 0x40800000] } [])) iodDie (.gateDeadline 3)

def runB (s : State) (f : GroupRun → Bool) : Bool :=
  match (groupOf s 3).run with
  | some r => f r && entryOf s 7 0 == some (eOf r.cmd.ent 4)
  | none => false

/-- The statement's premises for a verdict: the engine has done all it can, the value is known. -/
def verdictB (s : State) : Bool :=
  let w := collGo s 3
  match (groupOf w 3).run with
  | some x => entOp x.cmd.ent == 0x10 && !x.susp && treeDone x && x.contribs == [con 0 0x40800000] && x.contribs.all (fun c => c.q != 7)
  | none => false

/-- TimersAndGates: TEVENT at T with and without doubt, each release, the local value, a verdict that applies and one that skips,
and a deadline. -/
theorem test_tevents_and_gates :
    (tevB sAtT (fun x => x.allArmed && !x.refused && decide (tNarrive x.cmd ≤ sget 0 (groupOf sAtT 3).arrivals 5)) &&
      getF sAtT F.FT_STS_LSTATE 0 == 1 && tevB sDoubt (fun x => !x.allArmed) &&
      [sRelease true none, sRelease false (some 9), sRelease false none].all (fun s => runB s (fun _ => true) &&
        (match tevOf s 3 5 with | some x => x.atT | none => false) && hasFired s iodDie (.teventEnd 3 5)) &&
      runB sCombine (fun r => r.lval.isNone && r.contribs.length == gNlocal r.cmd && entOp r.cmd.ent == 0x10) &&
      verdictB (sVerdict false) && verdictB (sVerdict true) && (coreOf (sVerdict true) 0).gateStep == 9 &&
      (vcOf (sVerdict true) 1 0).dir == 1 && (ctxOf (sVerdict true) 1).state == 1 &&
      hasFired sDeadline iodDie (.gateDeadline 3) && runB sDeadline (fun r => r.contribs.all (fun c => c.q != 7))) = true := by
  decide +kernel

/-- The local sum goes in the order of the virtual cores: 1.0 + 2.0 (R181). -/
theorem test_local_value : (localValue 9 [con 1 0x40000000, con 0 0x3F800000]).ssq = 0x40400000 := by decide +kernel

/-- A live claim whose sender has been silent for 100 µs. -/
def claim7 : ClaimSt := ⟨7, 3, 1, 0, 0x80000, 0x1234, 9, 64, 0, 0, 0x10000, 0, [], 0, 100, true⟩

def sClaim : State := let s := atFt (sAdm2 (eOf (ent 0 0 0 []) 3)) 100000
  { s with col := { s.col with claims := [claim7] } }

/-- A contribution held ahead of its GATE, its bound over. -/
def sHold : State :=
  firedAs (withRun (sAdm2 (eOf (ent 0x11 0 0 []) 4)) { GroupSt.reset with held := [{ con 0 0x3F800000 with q := 7 }] }) iodDie (.contribHold 7 0)

/-- A seal of step 9 at 0, its record at DVA 0x1_0000, its wheels fired; core 0 meets R188 or not. -/
def sSeal (step : Nat) : State :=
  let s := armedCore (sAdm2 (eOf (ent 0x12 0 0 (leBytes 4 9 ++ leBytes 2 0xFF ++ leBytes 2 0 ++ leBytes 8 0 ++ leBytes 8 0x10000)) 4))
  let s := setF (setCore s 0 { k0 with gateStep := BitVec.ofNat 32 step }) F.BWD_GATE_STS_STATE 0 2
  atFt (firedAs (firedAs s iodDie (.seal 7 0)) 0 (.seal 7 0)) 1000

/-- TimersAndGates, the rest: a claim at its bound, a held contribution, a seal that is taken and one that is missed. -/
theorem test_claims_holds_seals :
    (sClaim.col.claims.find? (fun c => c.num == 7 && c.gr == 3 && c.live) == some claim7 && decide (0 + 1000 * 100 ≤ ftNow sClaim) &&
      hasFired sHold iodDie (.contribHold 7 0) && sHold.col.groups.map (fun g => g.1) == [3] &&
      (groupOf sHold 3).held == [{ con 0 0x3F800000 with q := 7 }] && (entryOf sHold 7 0).isSome &&
      [(9, 0), (8, 1)].all (fun e => let s := sSeal e.1
        (match entryOf s 7 0 with | some x => x.stage == 4 && entOp x.raw == 0x12 && x.prog == 0 | none => false) &&
          !coveredOpen s (.coll 7 0) && sealFired s 7 0 && (bankedVcs s 1).isEmpty &&
          (ctxCores s 1).map (fun c => sealFails s c 9 0xFF) == [e.2] && ftNow s == 1000)) = true := by decide +kernel

/-! ### Kilns -/

/-- A plan: target, kind, destination format FP32, source, bytes, destination, scales, lanes, contraction, kiln. -/
def plan (tgt kind src len dst lanes clen kiln : Nat) : List Byte :=
  leBytes 2 tgt ++ leBytes 1 kind ++ leBytes 5 0 ++ leBytes 8 src ++ leBytes 8 len ++ leBytes 8 dst ++ leBytes 8 0 ++ leBytes 4 lanes ++
    leBytes 4 clen ++ leBytes 12 0 ++ leBytes 1 kiln ++ leBytes 67 0

/-- An admitted kiln entry of opcode `op`, its plan at DVA 0x1_0000, its slot byte `sl`. -/
def eKiln (op sl : Nat) : EntrySt := eAdm op (leBytes 8 0x10000 ++ leBytes 1 sl)

def sKiln (op sl : Nat) (p : List Byte) : State :=
  let s := devWrite (sAdm 1 (eKiln op sl) ctx1) 0x50000 p
  { s with
    slots := [(5, { SlotSt.reset with state := 1, imgDva := 0x20000, size := 0x1000 })]
    sto := { s.sto with targets := [(7, ⟨2, true, true, 8, 0, [], 0⟩)] } }

/-- The plan of the entry as its kiln reads it. -/
def planB (s : State) (f : List Byte → Bool → Bool) : Bool :=
  match entryOf s 7 0 with
  | some e => match dvaRead (setEntry s 7 0 (some { e with stage := 4 })) iodDie 1 (fieldLE e.raw 16 23) 128 .normal with
    | (.ok (p, b), _) => f p b
    | _ => false
  | none => false

/-- KilnTransfers, entries: a slot that is not LOADING, a plan that faults, is poisoned, is bad, leaves its slot's image, names a target that
is not UP, and good plans of each opcode; a plan without a byte. -/
theorem test_kiln_entries :
    ([(0x10, plan 0 2 0x18000 128 0x20000 1 32 255), (0x11, plan 0 2 0x18000 8 0x20000 0 0 3), (0x12, plan 7 0 0 8 0x20000 0 0 0),
        (0x11, plan 0 2 0x18000 0 0x20000 0 0 3)].all
        (fun e => let s := sKiln e.1 0x85 e.2
          admittedB s 1 e.1 (eKiln e.1 0x85) && (kilnOf s 7 0).isNone && !coveredOpen s (.kiln 7 0) &&
          planB s (fun p b => !b && planBad e.1 p == none && (jobRanges e.1 p).all (inImage s 5))) &&
      (slotOf (sKiln 0x10 0x84 []) 4).state == 0 && (slotOf (sKiln 0x10 0x85 []) 5).state == 1 &&
      (match (dvaRead { sKiln 0x10 0 [] with xlt := [], dram := [], cache := [] } iodDie 1 0x10000 128 .normal).1 with | .error _ => true | _ => false) &&
      planB { sKiln 0x10 0 (plan 0 2 0 0 0 0 0 0) with dramPoison := [(0x50000 / 64, 7)], cache := [] } (fun _ b => b) &&
      planB (sKiln 0x10 0 (plan 0 9 0 0 0 0 0 0)) (fun p b => !b && planBad 0x10 p == some 2) &&
      planB (sKiln 0x11 0x85 (plan 0 2 0x18000 8 0x21000 0 0 3)) (fun p _ => !(jobRanges 0x11 p).all (inImage (sKiln 0x11 0x85 []) 5)) &&
      planB (sKiln 0x12 0 (plan 8 0 0 8 0x20000 0 0 0)) (fun p _ => (tgtOf (sKiln 0x12 0 []) (kTgt p)).state != 2) &&
      (tgtOf (sKiln 0x12 0 []) 7).state == 2) = true := by decide +kernel

/-- A job of entry (7, 0) on kiln 3. -/
def jobOf (op : Nat) (p : List Byte) : KilnJob := ⟨7, 0, 1, 0, op, p, none, 0, 0, [], 0, false, none⟩

def sJob (j : KilnJob) : State :=
  let s := devWrite (sAdm 1 { eKiln j.op 0 with stage := 4 } ctx1) 0x58000 (leBytes 8 0x4000000040000000)
  setMd { s with sto := { s.sto with targets := [(7, ⟨2, true, true, 8, 0, [], 0⟩)] } } 3 { MdSt.reset with kilnJobs := [j] }

def loadJob : KilnJob := jobOf 0x10 (plan 7 0 0 256 0x20000 2 32 3)

/-- The same job with its stored bytes come. -/
def haveJob : KilnJob := { loadJob with got := [(0, List.replicate 256 0x3F)] }

/-- The job is of kiln 3 alone. -/
def kilnB (j : KilnJob) : Bool :=
  currentJob (sJob j) 3 == some j && kilnOf (sJob j) 7 0 == some 3 && (kilnJobs (sJob j) 3).length == 1

/-- KilnTransfers, blocks: jobs with a source of their own (a KILN_READ, a KILN_WRITE, one that faults, one that is poisoned) and
jobs that wait for stored bytes or have them all; an ended job. -/
theorem test_kiln_blocks :
    (currentJob s0 3 == none &&
      [jobOf 0x11 (plan 0 2 0x18000 8 0x20000 0 0 3), jobOf 0x12 (plan 7 0 5 8 0x18000 0 0 3), loadJob, haveJob,
        jobOf 0x11 (plan 0 2 0x900000 8 0x20000 0 0 3)].all kilnB &&
      kKind loadJob.plan != 2 && kCodec loadJob.plan == 0 && kSlen loadJob.plan == loadBytes loadJob.plan && loadBytes loadJob.plan == 256 &&
      (sJob loadJob).sto.cmds == [] && (storedFrom loadJob 1 0).length == 0 && (storedFrom haveJob 1 0).length == 256 &&
      (match (dvaRead (sJob loadJob) iodDie 1 0x18000 8 .stream).1 with | .ok (d, p) => d == leBytes 8 0x4000000040000000 && !p | _ => false) &&
      (match (dvaRead (sJob loadJob) iodDie 1 0x900000 8 .stream).1 with | .error _ => true | _ => false) &&
      (match (dvaRead { sJob loadJob with dramPoison := [(0x58000 / 64, 7)], cache := [] } iodDie 1 0x18000 8 .stream).1 with
        | .ok (_, p) => p
        | _ => false) &&
      (match (dvaWrite (sJob loadJob) iodDie 1 0x20000 (List.replicate 256 0x3F) false .normal).1 with | .ok () => true | _ => false) &&
      (match kilnCommit (sJob haveJob) 1 (loadWrites haveJob.plan 0 (storedFrom haveJob 1 0)).1 with | (.ok (), _) => true | _ => false) &&
      (kilnJobs (sJob { loadJob with ended := some (0x46, 2) }) 3).find? (fun j => j.ended.isSome &&
        !(j.op == 0x12 && jobCmds (sJob { loadJob with ended := some (0x46, 2) }) j.q j.i)) == some { loadJob with ended := some (0x46, 2) } &&
      (entryOf (sJob loadJob) 7 0).isSome) = true := by decide +kernel

/-! ### Links, routing and fabric time -/

/-- Link 0 as `x`, in a link state. -/
def sLink (st : Nat) (x : LinkSt) : State := setF { s0 with links := [(0, x)] } F.LNK_STS_STATE 0 st

/-- A flit as its sender encodes it, expecting sequence number 5: type, lane, ends, length, number, payload. -/
def flit (ft vl : Nat) (eop : Bool) (seq : BitVec 12) (pl : List Byte) : RxFlit :=
  ⟨encodeFlit ⟨ft, vl, true, eop, pl.length, seq, 9, [0, 3, 0, 0xFFF]⟩ (padTo 240 pl)⟩

/-- Two symbols of granule 0 or of a payload granule are wrong. -/
def hurt (f : RxFlit) (g : Nat) : RxFlit := ⟨f.cw.modify g (fun w => w ^^^ 0x11)⟩

def dfl (n : Nat) (eop : Bool) (own : Option Packet) : DFlit := ⟨0, true, eop, leBytes n 77, own⟩

/-- A WRITE of four bytes from module 3 to this one. -/
def pkt0 : Packet := ⟨0, 0, 3, 1, 0, 1, 0, 0x10000, 0, [1, 2, 3, 4]⟩

/-- Expects number 5; has sent 8, 9 and 10. -/
def lk0 : LinkSt :=
  { LinkSt.reset with
    expSeq := 5
    txSeq := 11
    replay := [(8, dfl 40 true none), (9, dfl 40 true (some pkt0)), (10, dfl 8 false none)]
    credits := [(0, 2)]
    lastCred := [(1, 1), (3, 0xFFE)] }

/-- TRAIN payload: module 7, link 0, role, EXPSEQ 11, FREE 200. -/
def trainPl (role : Nat) : List Byte :=
  leBytes 2 7 ++ leBytes 1 0 ++ leBytes 1 role ++ leBytes 2 11 ++ leBytes 2 200 ++ leBytes 2 200 ++ leBytes 2 200 ++ leBytes 2 200

def timePl (t3 t1 t2 : Nat) : List Byte := leBytes 8 t3 ++ leBytes 8 t1 ++ leBytes 8 t2

/-- FlitsOfLinks: flits that decode with each type, the expected number and another, a payload and a header that do not decode;
numbers in and out of the replay buffer; the last RETRY_REQ but one and the last. -/
theorem test_flits :
    (linkState (sLink 2 lk0) 0 == 2 &&
      [(flit 1 0 true 5 (packetBytes pkt0)), (flit 1 2 false 5 [1]), (flit 1 0 true 6 [1])].all
        (fun f => let d := decodeFlit f; d.hdrOk && d.bodyOk && d.hdr.ftype == 1) &&
      (decodeFlit (flit 1 0 true 5 [1])).hdr.seq == lk0.expSeq && (decodeFlit (flit 1 0 true 6 [1])).hdr.seq != lk0.expSeq &&
      (let d := decodeFlit (hurt (flit 1 0 true 5 [1]) 3); d.hdrOk && !d.bodyOk) &&
      !(decodeFlit (hurt (flit 1 0 true 5 [1]) 0)).hdrOk &&
      (let d := decodeFlit (flit 2 0 false 0 (leBytes 2 9)); d.hdrOk && d.bodyOk && d.hdr.ftype == 2) && lk0.injFlits == 0 &&
      (let d := decodeFlit (flit 0 0 false 0 []); d.hdrOk && d.hdr.ftype == 0 && d.hdr.ack == 9) && lk0.txWait == [] &&
      (let d := decodeFlit (flit 3 0 false 0 (timePl 320 64 96)); d.hdrOk && d.bodyOk && d.hdr.ftype == 3) &&
      (let d := decodeFlit (flit 4 0 false 0 (trainPl 2)); d.hdrOk && d.bodyOk && d.hdr.ftype == 4 && fieldLE d.payload 3 3 == 2) &&
      getF (sLink 1 lk0) F.LNK_CFG_ROLE 0 == 0 && [1, 3].all (fun st => linkState (sLink st lk0) 0 == st) &&
      getF (sLink 2 lk0) F.FT_CFG_ROOT 0 == 0) = true := by decide +kernel

/-- A link that is DISABLED, DOWN and FAILED; a flip that is armed, pending, refused, and that has fired. -/
def sFlip (n : Nat) (fired : Bool) (pend : Nat) : State :=
  setF (atFt (setWheel s0 iodDie { WheelSt.reset with
    entries := List.replicate n ⟨10, 10, true, true, .inject⟩
    fired := if fired then [⟨9, 9, true, true, .flip⟩] else [] }) 5) F.RTE_STS_PENDING 0 pend

/-- LinkStatesAndFlips. -/
theorem test_link_states :
    (!restarting s0 0 && [0, 1, 2, 3, 4, 5].all (fun st => linkState (sLink st lk0) 0 == st) && (sLink 3 lk0).lost == [] &&
      lk0.fails == 0 &&
      (List.range 48).all (fun l => linkState s0 l != 2) && getF (sFlip 0 true 1) F.RTE_STS_PENDING 0 == 1 &&
      hasFired (sFlip 0 true 1) iodDie .flip && !hasFired (sFlip 0 false 0) iodDie .flip &&
      getF (sFlip 0 true 0) F.RTE_STS_PENDING 0 == 0 &&
      (armSched (sFlip 0 false 0) iodDie (getPair (sFlip 0 false 0) F.RTE_FLIP_LO_FTIME_LO F.RTE_FLIP_HI_FTIME_HI 0) .flip).isSome &&
      (armSched (sFlip 8192 false 0) iodDie (getPair (sFlip 0 false 0) F.RTE_FLIP_LO_FTIME_LO F.RTE_FLIP_HI_FTIME_HI 0) .flip).isNone)
      = true := by decide +kernel

/-- Retries of a retraining link: the second failure and the third. -/
def sFails (n : Nat) : State := sLink 3 { lk0 with fails := n }

theorem test_retrain_limits :
    (linkState (out (execRetrainTimeout 0 (sFails 1))) 0 == 3 &&
      linkState (out (execRetrainTimeout 0 (sFails 2))) 0 == 4) = true := by
  decide +kernel

/-- A packet at the routing stage; module 7 is behind link 0 on every lane, module 8 behind link 5 that is DOWN. -/
def sRoute (from_ : Option Nat) (p : Packet) (route : Option Route := none) (whole : Bool := true) : State :=
  { sLink 2 lk0 with
    routeQ := [⟨from_, 1, p, whole, route⟩]
    rte := [(7, 0), (8, 5 + 5 * 2 ^ 6 + 5 * 2 ^ 12 + 5 * 2 ^ 18)] }

def to7 : Packet := { pkt0 with dst := 7 }

/-- Module 9 is behind link 2, the ingress link. -/
def sRoute2 (p : Packet) : State := { sRoute (some 2) p with rte := [(9, 2)] }

/-- What waits first at the routing stage, as a Bool. -/
def itemB (s : State) (f : RouteItem → Bool) : Bool :=
  match s.routeQ with
  | r :: _ => f r
  | [] => false

/-- PacketsAreRouted: own packets and others, on HOPS 14 and 15, back onto the ingress link, without a link, from a causeway link,
and WRITEs for this module of both epochs; one whose route was taken to a link that is UP and to one that is not; one of which only
the first flit came. -/
theorem test_routes :
    (s0.routeQ == [] && rteLink (sRoute none to7) 7 0 == some 0 && getF s0 F.RTE_MODID_MOD_ID 0 == 0 && to7.op == 1 &&
      getF (setF (sRoute (some 3) to7) F.LNK_CFG_ROLE 3 1) F.LNK_CFG_ROLE 3 == 1 &&
      getF (sRoute (some 3) to7) F.LNK_CFG_ROLE 3 == 0 &&
      rteLink (sRoute2 { pkt0 with dst := 9 }) 9 0 == some 2 && rteLink (sRoute2 { pkt0 with dst := 0xFFFF }) 0xFFFF 0 == none &&
      linkState (sRoute none to7) 0 == 2 && linkState (sRoute none to7) 5 == 0 &&
      itemB (sRoute (some 3) to7) (fun r => r.whole && r.route.isNone) &&
      itemB (sRoute (some 3) to7 (some (.out 0))) (fun r => r.route == some (.out 0)) &&
      itemB (sRoute (some 3) to7 (some (.out 5))) (fun r => r.whole) &&
      itemB (sRoute (some 3) to7 none false) (fun r => !r.whole) &&
      (fenceOf (sRoute none pkt0) 1).fepoch == 0 &&
      (fenceOf { sRoute none pkt0 with fence := [(1, { FenceEnt.reset with fepoch := 1 })] } 1).fepoch == 1) = true := by
  decide +kernel

/-- A WRITE to page 1 of context 1. -/
def sWrite : State := { mapped (sRoute none pkt0) with ctxs := [(1, { ctx1 with gen := 0 })] }

theorem test_write_packet :
    (cacheB sWrite &&
      (match (translate { sWrite with routeQ := [] } iodDie 1 0x10000 .write).1 with | .ok d => d == 0x50000 | _ => false) &&
      !staleDie sWrite 1 && decide (0x10000 % 65536 + pkt0.body.length ≤ 65536) &&
      getF sWrite F.RTE_MODID_MOD_ID 0 == 0) = true := by
  decide +kernel

/-- Fabric time: a root or not, its lock state, its last edge. -/
def sFt (root st now : Nat) (last : Option Nat) : State :=
  let s := atFt (with1 s0 [(F.FT_CFG_ROOT, 0, root), (F.FT_STS_LSTATE, 0, st), (F.FT_CFG_SYNC_EN, 0, root)]) now
  { s with ft := { s.ft with lastSync := last } }

/-- FabricTimeCommands: roots in NEVER and LOCKED, a LOCKED module whose parent link is down, HOLDOVER at its last ns and after,
edges just within and at 0.5 s, first ones and later ones with small and large errors. -/
theorem test_fabric_time :
    (getF (sFt 1 0 0 none) F.FT_CFG_ROOT 0 == 1 && getF (sFt 1 0 0 none) F.FT_STS_LSTATE 0 == 0 &&
      getF (sFt 0 1 0 none) F.FT_STS_LSTATE 0 == 1 &&
      linkState (sFt 0 1 0 none) (getF (sFt 0 1 0 none) F.FT_CFG_PARENT 0) != 2 && getF (sFt 1 1 5 none) F.FT_CFG_SYNC_EN 0 == 1 &&
      decide ((sFt 0 2 2000000 none).ft.holdSince + 1000 * max 1 (getF (sFt 0 2 2000000 none) F.FT_CFG_HOLD_US 0) ≤ ftNow (sFt 0 2 2000000 none)) &&
      decide (ftNow (sFt 0 2 1999999 none) < 2000000) && getF s0 F.DBG_STS_MFG_TEST 0 == 0 &&
      (sFt 1 1 500000009 (some 10)).ft.lastSync == some 10 && ftNow (sFt 1 1 500000009 (some 10)) == 500000009 &&
      (syncError 1000100000).natAbs == 100000 && (syncError 999899999).natAbs == 100001 && (syncError 999900000).natAbs == 100000 &&
      (syncError 500000000).natAbs == 500000000 && s0.pending == [] && getF s0 F.MOD_STS_CORES_REL 0 == 0) = true := by
  decide +kernel

/-! ### Collectives -/

/-- A command's common body: group 3, CSEQ, DT, RED, ALG, SRC, DST, COUNT, ROOT. -/
def cmdBody (op seq dt alg count root : Nat) : List Byte :=
  ent op 0 0 (leBytes 2 3 ++ leBytes 2 seq ++ leBytes 1 dt ++ leBytes 1 0 ++ leBytes 1 alg ++ leBytes 1 0 ++ leBytes 8 0x10000 ++
    leBytes 8 0x20000 ++ leBytes 8 count ++ leBytes 2 root)

/-- The same group, of four members. -/
def sAdm4 (e : EntrySt) : State := devWrite (sAdm2 e) (groupAddr (sAdm2 e) 3) (grp 4 0)

def collOps : List Nat := [1, 2, 3, 4, 5, 6, 9, 0x10]

/-- The group check of an admitted command. -/
def groupB (s : State) (op : Nat) (e : EntrySt) (bad : Bool) : Bool :=
  let r := readGroup s (cGroup op e.raw)
  (groupBad r.2.2 (qCtx (queueOf s 7).desc) op e.raw r.1 r.2.1).1 == bad

def eColl (op count root : Nat) : EntrySt := eOf (cmdBody op 0 0 1 count root) 3

/-- The group BROKEN (byte 42), or with a reserved byte that is not 0. -/
def poke (s : State) (off : Nat) (b : Byte) : State := devWrite s (groupAddr s 3 + off) [b]

/-- CollectiveCommands: every command with a good group, with a bad one and, for the ring, with COUNT 6 and 8 of four members. -/
theorem test_collective_commands :
    (collOps.all (fun op => let e := eColl op 8 0
        admittedB (sAdm4 e) 2 op e && groupB (sAdm4 e) op e false && groupB (poke (sAdm4 e) 5 1) op e true &&
          !countBad (collCmdOf (sAdm4 e) 7 0 e.raw (readGroup (sAdm4 e) 3).1)) &&
      groupB (sAdm4 (eColl 4 8 4)) 4 (eColl 4 8 4) true && groupB (sAdm4 (eColl 4 8 3)) 4 (eColl 4 8 3) false &&
      [1, 2, 3].all (fun op => countBad (collCmdOf (sAdm4 (eColl op 6 0)) 7 0 (eColl op 6 0).raw (readGroup (sAdm4 (eColl op 6 0)) 3).1)))
      = true := by decide +kernel

/-- WAIT_TOKEN, PUT: token 0x1234 of slot 4; destination rank `rank`. -/
def eTok (op rank : Nat) : EntrySt :=
  eOf (ent op 0 0 (leBytes 2 3 ++ leBytes 2 rank ++ leBytes 4 0x1234 ++ leBytes 8 0x10000 ++ leBytes 8 0x20000 ++ leBytes 4 64 ++
    leBytes 2 1 ++ leBytes 1 2)) 3

/-- The token's slot in a state, held by token `tok` of module 10. -/
def slotAs (s : State) (tok st : Nat) : State :=
  devWrite s 0x80040 (leBytes 4 tok ++ leBytes 1 st ++ leBytes 1 0 ++ leBytes 2 10 ++ leBytes 8 0)

def tokB (s : State) (tok st : Nat) : Bool :=
  let r := readGroup s 3
  let x := (readTok r.2.2 (slotDpa r.1 0x1234)).1
  x.1 == tok && x.2.1 == st

/-- GATE_CONTRIB of group 3 with one posting virtual core, a SEAL at 5 µs. -/
def eContrib (poster : Option Nat) : EntrySt :=
  { eOf (ent 0x11 0 0 (leBytes 4 9 ++ leBytes 4 0x3F800000 ++ leBytes 24 0 ++ leBytes 2 3)) 3 with poster := poster }

def eSeal : EntrySt := eOf (ent 0x12 0 0 (leBytes 4 9 ++ leBytes 2 0xFF ++ leBytes 2 0 ++ leBytes 8 5000 ++ leBytes 8 0x10000)) 3

def gate2 : List Byte := ent 0x10 0 0 (leBytes 2 3 ++ leBytes 2 0 ++ leBytes 4 9 ++ leBytes 8 0 ++ leBytes 4 0 ++ leBytes 2 2)

def cmd4 (e : List Byte) : CollCmd := ⟨7, 0, 1, 0, e, grp 4 0⟩

def sContrib (p : Option Nat) : State :=
  withRun (sAdm4 (eContrib p)) { GroupSt.reset with run := some (run0 (cmd4 gate2) []) }

def fullWheel (s : State) (die : Nat) : State :=
  setWheel s die { WheelSt.reset with entries := List.replicate 8192 ⟨5, 5, true, true, .flip⟩ }

/-- CollectiveCommands, the others: ARRIVE; TEVENT on a BROKEN group, after T and before it; WAIT_TOKEN on a DONE slot of its
token, another's and a PENDING one; PUT without a
token table, to the first rank out of range, and to the last in it; GATE_CONTRIB posted and not; SEAL armed and refused. -/
theorem test_other_collectives :
    ([poke (sAdm4 (eColl 9 0 0)) 42 2, atFt (sAdm4 (eColl 9 0 0)) 0x10000, sAdm4 (eColl 9 0 0)].all (fun s =>
        admittedB s 2 9 (eColl 9 0 0) && groupB s 9 (eColl 9 0 0) false && tT (cmd4 (eColl 9 0 0).raw) == 0x10000 &&
        (groupOf s 3).run.isNone) &&
      admittedB (sAdm4 (eColl 0x0A 0 0)) 2 0x0A (eColl 0x0A 0 0) && groupB (sAdm4 (eColl 0x0A 0 0)) 0x0A (eColl 0x0A 0 0) false &&
      [(0x1234, 2), (0x1235, 2), (0x1234, 1)].all (fun p => let s := slotAs (sAdm4 (eTok 8 0)) p.1 p.2
        admittedB s 2 8 (eTok 8 0) && groupB s 8 (eTok 8 0) false && tokB s p.1 p.2 && s.col.waits == []) &&
      [3, 4].all (fun r => let s := sAdm4 (eTok 7 r)
        admittedB s 2 7 (eTok 7 r) && groupB s 7 (eTok 7 r) false && gTokLog (readGroup s 3).1 == 4 &&
        cDstRank (eTok 7 r).raw == r &&
          s.col.puts == []) &&
      gTokLog (readGroup (poke (sAdm4 (eTok 7 3)) 32 0) 3).1 == 0 && groupB (poke (sAdm4 (eTok 7 3)) 32 0) 7 (eTok 7 3) false &&
      (memberId (sAdm4 (eTok 7 3)) (grp 4 0) 3).1 == 30 && !(memberId (sAdm4 (eTok 7 3)) (grp 4 0) 3).2.1 &&
      [none, some 0].all (fun p => admittedB (sContrib p) 2 0x11 (eContrib p) && groupB (sContrib p) 0x11 (eContrib p) false &&
        (match (groupOf (sContrib p) (cGroup 0x11 (eContrib p).raw)).run with | some r => gateOpen r | none => false)) &&
      admittedB (sAdm4 eSeal) 2 0x12 eSeal && (armSeal (sAdm4 eSeal) 5000 7 0 (sealDies (sAdm4 eSeal) 1)).isSome &&
      (armSeal (fullWheel (sAdm4 eSeal) 0) 5000 7 0 (sealDies (sAdm4 eSeal) 1)).isNone) = true := by decide +kernel

/-- A BARRIER whose CSEQ, 5, is the group's NEXTSEQ. -/
def cmdW : List Byte := cmdBody 5 5 0 0 0 0

/-- Commands that wait: one of CSEQ 5 on a group that is IDLE or BROKEN. -/
def sWaiting : State :=
  withRun (sAdm4 { eOf cmdW 3 with stage := 4 }) { GroupSt.reset with waiting := [cmd4 cmdW] }

theorem test_waiting :
    ((groupOf sWaiting 3).run == none && gState (readGroup sWaiting 3).1 == 0 && gState (readGroup (poke sWaiting 42 2) 3).1 == 2 &&
      (groupOf sWaiting 3).waiting.find? (fun c => cSeqOf c.ent == gNextSeq (readGroup sWaiting 3).1) == some (cmd4 cmdW) &&
      (entryOf sWaiting 7 0).isSome && cacheB sWaiting && decide (groupAddr sWaiting 3 + 43 ≤ dpaLimit) &&
      (groupOf (sContrib none) 3).run.isSome) = true := by decide +kernel

/-- A packet of message `msg` for group 3 of CSEQ 0 from module 10: offset, body. -/
def msgP (msg off hi token : Nat) (body : List Byte) : Packet :=
  ⟨0, 0, 10, 1, 0, 5, 0, BitVec.ofNat 64 (off + msg * 2 ^ 44 + hi * 2 ^ 48), BitVec.ofNat 32 token, body⟩

/-- A running command of the group; its partner of rank 1 is module 10, of rank 2 module 20. -/
def runOf (e : List Byte) : GroupRun := run0 (cmd4 e) [(1, 10), (2, 20)]

def sRun4 (r : GroupRun) : State := withRun (sAdm4 (eOf r.cmd.ent 4)) { GroupSt.reset with run := some r }

/-- ForRun as a Bool. -/
def forB (s : State) (p : Packet) (r : GroupRun) (rank : Nat) : Bool :=
  let x := ctxOf s (p.ctxgen.toNat % 4096)
  p.fepoch.toNat == (fenceOf s (p.ctxgen.toNat % 4096)).fepoch && x.state != 0 && x.state != 4 && x.gen == p.ctxgen.toNat / 4096 &&
    gState (readGroup s (pGroup p)).1 != 2 && (groupOf s (pGroup p)).run == some r && (tevOf s (pGroup p) (pHi p)).isNone &&
      pHi p == cSeqOf r.cmd.ent && !listPending r &&
    partnerOf r p == some rank && (s.col.claims.find? (fun c => c.num == pHi p && c.token == p.token.toNat &&
      c.src == p.src.toNat)).isNone

def barrier4 : GroupRun := runOf (eColl 5 0 0).raw

def all4 : GroupRun := runOf (cmdBody 1 0 0 0 8 0)

def tev4 : TevSt :=
  ⟨cmd4 (ent 9 0 0 (leBytes 2 3 ++ leBytes 2 0 ++ leBytes 1 0 ++ leBytes 1 0 ++ leBytes 2 0 ++ leBytes 8 1000 ++ leBytes 8 0)),
    [(1, 10), (2, 20)], [], false, false, none, false, false⟩

def sTev4 (x : TevSt) : State := withRun (sAdm4 (eOf x.cmd.ent 4)) { GroupSt.reset with tevs := [x] }

/-- PacketCurrent as a Bool. -/
def currentB (s : State) (p : Packet) : Bool :=
  let x := ctxOf s (p.ctxgen.toNat % 4096)
  p.fepoch.toNat == (fenceOf s (p.ctxgen.toNat % 4096)).fepoch && x.state != 0 && x.state != 4 && x.gen == p.ctxgen.toNat / 4096

/-- ForTevent of the partner of rank 1, as a Bool. -/
def tevFor (x : TevSt) (p : Packet) : Bool :=
  let s := sTev4 x
  currentB s p && gState (readGroup s (pGroup p)).1 != 2 && tevOf s (pGroup p) (pHi p) == some x &&
    x.partners.find? (fun m => m.2 == p.src.toNat) == some (1, 10)

/-- CollectiveMessages, TransfersAndMessagesComplete: packets of each kind with a stale fence, a stale generation and current ones;
READY that agrees and not, and while suspended; DATA while suspended; ARMED first, last and refused; ALLARMED; VETO. -/
theorem test_group_messages :
    ((List.range 10).all (fun m => isMsg (msgP m 0 0 3 []) m && (fenceOf (sRun4 all4) 1).fepoch == 0 &&
        (fenceOf { sRun4 all4 with fence := [(1, { FenceEnt.reset with fepoch := 1 })] } 1).fepoch == 1) &&
      (ctxOf { sRun4 all4 with ctxs := [(1, { ctx1 with gen := 1 })] } 1).gen == 1 &&
      forB (sRun4 all4) (msgP 1 4096 0 3 (readyBody all4)) all4 1 && (readyBody all4 != []) && entOp all4.cmd.ent == 1 &&
      (entryOf (sRun4 all4) 7 0).isSome &&
      forB (sRun4 { all4 with susp := true }) (msgP 0 0 0 3 [1]) { all4 with susp := true } 1 &&
      forB (sRun4 { all4 with susp := true }) (msgP 1 4096 0 3 (readyBody all4)) { all4 with susp := true } 1 &&
      [2, 3, 4].all (fun m => tevFor tev4 (msgP m 0 0 3 [])) && treeChildren tev4.cmd == [1, 2] &&
      tevFor { tev4 with armed := [2] } (msgP 2 0 0 3 []) && tevFor { tev4 with refused := true } (msgP 2 0 0 3 [])) = true := by
  decide +kernel

/-- ABORT of the running command. -/
def abort0 : Packet := { msgP 0 0 0 3 [] with op := 6 }

/-- CLAIM of group 3, 64 bytes. -/
def claimP : Packet := msgP 5 0 0 0x1234 (claimBody (eTok 7 0).raw)

/-- A PUT that waits for its GRANT, or sends under claim number 9. -/
def put0 (phase num : Nat) : PutSt := ⟨cmd4 (eTok 7 1).raw, 10, phase, num, 0, false⟩

def sPut (x : PutSt) : State := let s := sAdm4 { eTok 7 1 with stage := 4 }
  { s with col := { s.col with puts := [x] } }

/-- A claim of token 0x1234 by module 10, live or not. -/
def claimOf (live : Bool) : ClaimSt := ⟨7, 3, 1, 0, 0x80040, 0x1234, 10, 64, 0, 0, 0x10000, 0, [], 0, 100, live⟩

def sData (live : Bool) : State :=
  let s := slotAs (sAdm4 (eColl 5 0 0)) 0x1234 1
  { s with col := { s.col with claims := [claimOf live] } }

def dataP : Packet := msgP 0 0 7 0x1234 [1, 2]

/-- DATA of a claim: a live one with its slot PENDING, whose buffer is writable, and one that is not live. -/
theorem test_claim_data :
    ([true, false].all (fun b => isMsg dataP 0 && currentB (sData b) dataP && !forRun (sData b) dataP &&
        (sData b).col.claims.find? (fun c => c.num == pHi dataP && c.token == dataP.token.toNat && c.src == dataP.src.toNat) ==
          some (claimOf b)) &&
      (let r := readTok (sData true) 0x80040;
        r.1 == (0x1234, 1, 10) &&
        (match (dvaWrite (modClaim r.2 7 (fun c => { c with held := c.held ++ [(0, [1, 2])], last := ftNow r.2 })) iodDie 1 0x10000
          [1, 2] false .normal).1 with | .ok () => true | _ => false))) = true := by decide +kernel

/-- CollectiveMessages, TransfersAndMessagesComplete, the rest: ABORT of a running and of a waiting command; CLAIM of a free
slot, of
a held token and of a slot of another; answers to a PUT. -/
theorem test_put_messages :
    (forB (sRun4 all4) abort0 all4 1 && abort0.op == 6 && (sRun4 all4).col.claims == [] && isMsg claimP 5 &&
      currentB sWaiting { abort0 with addr := BitVec.ofNat 64 (5 * 2 ^ 48) } &&
      pHi { abort0 with addr := BitVec.ofNat 64 (5 * 2 ^ 48) } == 5 &&
      gNextSeq (readGroup sWaiting 3).1 == 5 &&
      (groupOf sWaiting 3).waiting.find? (fun c => cSeqOf c.ent == 5) == some (cmd4 cmdW) &&
      [(0, 0), (0x1234, 1), (0x1234, 2), (0x1235, 1)].all (fun p => let s := slotAs (sAdm4 (eColl 5 0 0)) p.1 p.2
        fieldLE claimP.body 0 1 % 4096 == 3 && tokB s p.1 p.2 && gTokLog (readGroup s 3).1 == 4 && cacheB s &&
        s.col.claims == []) &&
      slotDpa (grp 4 0) 0x1234 == 0x80040 && putFor (sPut (put0 1 0)) (msgP 6 0 9 0x1234 []) 1 == some (put0 1 0) &&
      putFor (sPut (put0 1 0)) (msgP 7 0 0 0x1234 (leBytes 2 5)) 1 == some (put0 1 0) &&
      putFor (sPut (put0 2 9)) (msgP 7 0 9 0x1234 (leBytes 2 5)) 2 == some (put0 2 9) &&
      putFor (sPut (put0 2 9)) (msgP 8 0 9 0x1234 []) 2 == some (put0 2 9) &&
      putFor (sPut (put0 1 0)) (msgP 9 0 0 0x1234 []) 1 == some (put0 1 0) &&
      (entryOf (sPut (put0 1 0)) 7 0).isSome && (sPut (put0 2 9)).col.puts.all (fun y => y.phase != 0)) = true := by decide +kernel

/-! ### Twins -/

/-- Pair state `st`; twin 7 behind causeway link 1 that is UP; a table of one window of two pages at page 16; a store of 5 pages at
0x40_0000. -/
def sTwin (st : Nat) : State :=
  let s := with1 s0 [(F.TWN_STS_STATE, 0, st), (F.TWN_CFG_TWIN_ID, 0, 7), (F.LNK_CFG_ROLE, 1, 1), (F.LNK_STS_STATE, 1, 2),
    (F.LNK_STS_PEER_MOD, 1, 7), (F.TWN_WIN_HI_COUNT, 0, 1), (F.TWN_BANK0_SEAL, 0, 0xFFFFFFFF), (F.TWN_BANK1_SEAL, 0, 3)]
  let s := devWrite s (getPair s F.TWN_WIN_LO_BASE_LO F.TWN_WIN_HI_BASE_HI 0) (leBytes 8 0x100000 ++ leBytes 4 2 ++ leBytes 1 1 ++ leBytes 19 0)
  atFt { s with twin := { s.twin with
    storeBase := 0x400000
    storeLen := 0x50000
    peerPages := 2
    windows := [(16, 2)]
    attachAt := 5 } } 20000000

/-- The same at a time. -/
def twinAt (st now : Nat) : State := atFt (sTwin st) now

/-- A twin message from module `src`: pass number, address, body. -/
def tw (src msg num addr : Nat) (body : List Byte) : Packet :=
  ⟨0, 0, BitVec.ofNat 16 src, 0, 0, 4, 0, BitVec.ofNat 64 addr, BitVec.ofNat 32 (msg + num * 65536), body⟩

/-- The window table with an entry of no pages. -/
def badTable (s : State) : State :=
  devWrite s (getPair s F.TWN_WIN_LO_BASE_LO F.TWN_WIN_HI_BASE_HI 0) (leBytes 8 0x100000 ++ leBytes 4 0 ++ leBytes 1 1 ++ leBytes 19 0)

/-- No causeway is UP. -/
def cut (s : State) : State := setF s F.LNK_STS_STATE 1 0

/-- TwinPairAndPasses: busy and idle, each pair state, good and bad tables, with the causeway and without, a store that just holds
the twin's pages and one that does not, timers at their last ns and before. -/
theorem test_twins :
    ([0, 1, 2, 3, 4, 5].all (fun st => pairState (sTwin st) == st && getF (sTwin st) F.TWN_STS_BUSY 0 == 0) &&
      getF (setF (sTwin 2) F.TWN_STS_BUSY 0 1) F.TWN_STS_BUSY 0 == 1 && !(readTable (sTwin 0)).2.1 && (readTable (badTable (sTwin 0))).2.1 &&
      (causeways (sTwin 0)).any (fun l => getF (sTwin 0) F.LNK_STS_PEER_MOD l == twinId (sTwin 0)) && causeways (cut (sTwin 0)) == [] &&
      (sTwin 0).twin.peerAtt == none && twinId (sTwin 0) == 7 && (List.range 9).all (fun m => isTwin (tw 7 m 3 0 []) m) &&
      decide (65536 + 131072 * 2 = (sTwin 0).twin.storeLen) && decide ((twinAt 1 10000005).twin.attachAt + 10000000 ≤ ftNow (twinAt 1 10000005)) &&
      decide (ftNow (twinAt 1 10000004) < 5 + 10000000) && decide ((sTwin 2).twin.beaconHold ≤ ftNow (sTwin 2)) &&
      decide ((twinAt 2 1000000).twin.lastBeacon + 1000000 ≤ ftNow (twinAt 2 1000000)) && decide (ftNow (twinAt 2 999999) < 1000000) &&
      cacheB (sTwin 2) && decide (0x400000 + 0x50000 ≤ dpaLimit) && (sTwin 2).mds.all (fun e => e.2.held == []) &&
      !(sTwin 2).twin.matched) = true := by decide +kernel

/-- A pass of bank 1, number 3, with these pages to go. -/
def sPass (l : List Nat) (done : Bool) : State := let s := sTwin 2
  { s with twin := { s.twin with pass := some ⟨1, 3, l, [], 0, done⟩ } }

/-- Bank 0 of the store: its word, and bytes received. -/
def sTbank (st n state got : Nat) : State := let s := devWrite (sTwin st) 0x400800 (leBytes 4 n ++ leBytes 1 state)
  { s with twin := { s.twin with rxBytes := [(0, got)] } }

def commitBody (n b bytes : Nat) : List Byte := leBytes 4 n ++ leBytes 4 b ++ leBytes 8 bytes

/-- TwinPairAndPasses, passes: pages to send with a causeway and without, COMMITs of a complete, an EMPTY and a short bank, and the
COMMIT_ACK of the pass; PAGEs at the store's ends. -/
theorem test_passes :
    ((match (sPass [16, 17] false).twin.pass with | some x => x.readPages == [] && x.pend == [16, 17] && !x.committed | none => false) &&
      causeways (sPass [16] false) != [] && causeways (cut (sPass [16] false)) == [] &&
      [(3, 1, 64), (0, 0, 64), (3, 1, 60)].all (fun c => let b := bankState (sTbank 2 c.1 c.2.1 c.2.2) 0
        b.1 == c.1 && b.2.1 == c.2.1 && sget 0 (sTbank 2 c.1 c.2.1 c.2.2).twin.rxBytes 0 == c.2.2) &&
      fieldLE (commitBody 3 0 64) 4 4 == 0 && fieldLE (commitBody 3 0 64) 8 15 == 64 && fieldLE (commitBody 3 1 0) 0 3 == 3 &&
      fieldLE (commitBody 3 1 0) 4 4 == 1 && (tw 7 0 3 65535 [1]).addr.toNat == 65535 &&
      decide ((tw 7 0 3 0x4FFFF [1]).addr.toNat + 1 = 0x50000)) = true := by decide +kernel

/-- An image on its way from module 9, or from the twin in a PULL: every page of the first `n` windows received. -/
def sRecv (st n : Nat) (isPull stalled : Bool) : State := let s := sTwin st
  { s with twin := { s.twin with
      recv := some ⟨if isPull then 7 else 9, isPull, (List.range n).map (fun i => (16 + i, 0xFFFF)), 5, stalled, none, none⟩ } }

def recvB (s : State) (f : RecvSt → Bool) : Bool := match s.twin.recv with | some r => f r | none => false

/-- A TEVENT of kind 1 of group 3 has released OK, ARG naming target `tgt`, LBA 2; that target is UP or not. -/
def sTdue (tgt st : Nat) : State := let s := sTwin 2
  { s with
    col := { s.col with due := [(3, 1, tgt + 2 * 65536, 1000)] }
    sto := { s.sto with targets := [(tgt, ⟨st, true, true, 8, 0, [], 0⟩)] } }

def withSnap (s : State) : State := { s with twin := { s.twin with snap := some ⟨1000, none⟩ } }

/-- ImagesMoveBetweenModules. -/
theorem test_images :
    ((latestBank (sTwin 3)).1 == none && (latestBank (sTbank 3 3 2 0)).1 == some (0, 3) && pairState (sTbank 3 3 2 0) == 3 &&
      [0, 2].all (fun n => recvB (sRecv 5 n false false) (fun r => r.src == 9 && r.fin == none && r.isPull == false && r.stalled == false &&
        unreceived (sRecv 5 n false false) r == (if n = 2 then [] else [16, 17]))) &&
      windowPage (sRecv 5 0 false false) 0x100000 == some 16 && windowPage (sRecv 5 0 false false) 0x11F000 == some 17 &&
      windowPage (sRecv 5 0 false false) 0x120000 == none && (tw 9 6 3 0x11F000 (leBytes 4096 77)).body.length == 4096 &&
      recvB (sRecv 5 0 false false) (fun r => decide (r.last + 2000000 ≤ ftNow (sRecv 5 0 false false))) &&
      recvB (sRecv 5 0 false true) (fun r => r.stalled) && decide (65536 * 18 ≤ dpaLimit) &&
      getPair (sTwin 5) F.TWN_LOSS_LO_BASE_LO F.TWN_LOSS_HI_BASE_HI 0 == 0 && getF (setF (sTwin 2) F.TWN_CFG_HOLD 0 1) F.TWN_CFG_HOLD 0 == 1 &&
      getF (sTwin 2) F.TWN_BANK0_SEAL 0 == 0xFFFFFFFF && getF (sTwin 2) F.TWN_BANK1_SEAL 0 != 0xFFFFFFFF && (sTwin 2).twin.pass == none &&
      (sTwin 2).twin.recv == none && (bankState (sTbank 2 3 2 0) 0).2.1 == 2 && (bankState (sTbank 2 3 1 0) 0).2.1 == 1 &&
      (sTwin 2).twin.storeLen != 0) = true := by decide +kernel

theorem test_snapshots :
    ([(255, 2), (255, 1), (256, 2)].all (fun c => let s := sTdue c.1 c.2
        s.col.due.find? (fun d => d.1 == 3 && d.2.1 == 1) == some (3, 1, c.1 + 2 * 65536, 1000) && s.twin.snap == none &&
          (c.1 + 2 * 65536) % 65536 == c.1 && (tgtOf s c.1).state == c.2 && s.sto.cmds == []) &&
      (withSnap (sTdue 255 2)).twin.snap.isSome) = true := by decide +kernel

/-! ### Resilience -/

/-- Core 16, of CD 1, is unbound and idle; core 0 runs. -/
def sKt (en : Nat) : State := setF (setF s0 F.RAS_KT_CFG_KT_EN 0 en) F.MOD_STS_CORES_REL 0 1

/-- Signatures of seed 5 from three cores, and one of another seed. -/
def sGauge (a b : Word64) (c : Option Word64) : State :=
  { s0 with ras := { s0.ras with kt := [⟨5, 3, a⟩, ⟨6, 4, 1⟩, ⟨5, 19, b⟩] ++ (match c with | some v => [⟨5, 127, v⟩] | none => []) } }

/-- Core 0 bound, `issued` bundles so far; heartbeat with `idle` samples. -/
def sBeat (issued idle : Nat) (raised : Bool) : State :=
  let s := setF (setF (setCore State.reset 0 { k0 with issued := issued }) F.CORE_STS_STATE 0 1) F.RAS_HB_CFG_HB_LIMIT 0 3
  { s with ras := { s.ras with hb := [(0, ⟨10, idle, raised⟩)] } }

/-- Session 2 has an FM grant, session 3 a JTAG and an INJECT grant, session 7 none; a health record is held. -/
def sSess : State :=
  { s0 with aed := { s0.aed with
      sessions := [(2, some ⟨.smbus, 0, [(3, 1000)]⟩), (3, some ⟨.pcieVdm, 0, [(0, 1000), (1, 1000)]⟩), (7, some ⟨.smbus, 0, []⟩)]
      health := [(4, leBytes 32 4), (5, leBytes 32 5)]
      healthSeq := 6 } }

/-- Contexts 1 and 2 belong to job 9, epochs 0xFFFF and 5. -/
def sFence : State := { mapped s0 with fence := [(1, ⟨9, 0xFFFF⟩), (2, ⟨9, 5⟩)] }

/-- HealthAndVerdicts. -/
theorem test_health :
    ((coreOf (sKt 1) 16).bound.isNone && coreState (sKt 1) 16 == 0 && !restarting (sKt 1) 10 && testTurn (sKt 1) 16 &&
      (coreOf (sKt 1) 16).injCell == [] && (coreOf (sKt 1) 16).injPar == [] && getF (sKt 1) F.MOD_STS_CORES_REL 0 == 1 &&
      getF (sKt 1) F.RAS_KT_CFG_KT_EN 0 == 1 &&
      getF (sKt 0) F.RAS_KT_CFG_KT_EN 0 == 0 && (coreOf (sKt 1) 0).bound.isSome && openSeed (sGauge 1 2 none) 2 == some 5 &&
      openSeed (sGauge 1 2 none) 1 == some 6 &&
      (openSeed (sKt 1) 0).isNone &&
      [((1, 1, none) : Word64 × Word64 × Option Word64), (1, 2, none), (1, 1, some 2), (1, 2, some 1), (2, 1, some 1), (1, 2, some 3)].all (fun c =>
        let l := (sGauge c.1 c.2.1 c.2.2).ras.kt.filter (fun x => x.seed == 5)
        l == [⟨5, 3, c.1⟩, ⟨5, 19, c.2.1⟩] ++ (match c.2.2 with | some v => [⟨5, 127, v⟩] | none => [])) &&
      (coresOf 0).contains 0 && (coresOf 0).all (fun d => d == 0 || (coreOf (sBeat 11 2 false) d).bound.isNone) &&
      (coreOf (sBeat 11 2 false) 0).bound.isSome && (coreOf (sBeat 11 2 false) 0).beatHold == 0 &&
      coreState (sBeat 10 2 false) 0 == 1 &&
      (coreOf (sBeat 10 2 false) 0).issued == 10 && (sget HbSt.reset (sBeat 10 2 false).ras.hb 0) == ⟨10, 2, false⟩ &&
      getF (sBeat 10 2 false) F.RAS_HB_CFG_HB_LIMIT 0 == 3 && !restarting (sBeat 10 2 false) 9 && !restarting sSess 17 &&
      fmSessions sSess == [2]) = true := by decide +kernel

/-- Epochs one and 32,767 later count, the same and 32,768 later do not (R390); context 1 is ACTIVE. -/
theorem test_verdicts :
    (verdictCtxs sFence 9 0 == [1] && verdictCtxs sFence 9 0x7FFE == [1, 2] && verdictCtxs sFence 9 0x7FFF == [2] &&
      verdictCtxs sFence 9 5 == [1] &&
      verdictCtxs sFence 9 0xFFFF == [] && verdictCtxs sFence 8 0 == [] && (ctxOf sFence 1).state == 1) = true := by decide +kernel

/-- A reset under way. -/
def sRst (domain unit : Nat) (waits : Bool) : State := { s0 with ras := { s0.ras with rst := some ⟨domain, unit, 0, false,
waits⟩ } }

/-- ResetDomains: a reset that runs, units that exist up to the last and those that do not, conditions met and not. -/
theorem test_resets :
    (s0.col.due == [] && s0.ras.rst == none && s0.ras.dump == none && unitExists 5 7 && !unitExists 5 3 && unitExists 1 127 &&
      resetAllowed s0 1 127 && !resetAllowed s0 1 0 && (coreOf s0 127).bound.isNone && coreState s0 127 == 0 &&
      resetAllowed s0 2 7 &&
      !resetAllowed (mapped s0) 2 0 && resetAllowed (mapped s0) 2 1 &&
      (mapped s0).ctxs.all (fun e => e.2.state == 0 || !bitAt e.2.cdmask 1) &&
      resetAllowed s0 3 7 && !resetAllowed (mapped s0) 3 7 && resetAllowed s0 4 47 && resetAllowed s0 5 7 &&
      pairState s0 == 0 && s0.ctxs == [] &&
      resetAllowed (mapped s0) 5 2 && !resetAllowed (mapped s0) 5 7 && unitExists 6 9 &&
      getF (setF s0 F.MD_STS_FILL_DONE 3 0) F.MD_STS_FILL_DONE 3 == 0 && getF s0 F.MD_STS_TRAIN_FAIL 3 == 0 &&
      getF s0 F.MD_STS_FILL_DONE 3 == 1 && s0.col.groups == [] && s0.col.puts == [] && s0.col.waits == [] &&
      (sRst 3 3 false).ras.rst == some ⟨3, 3, 0, false, false⟩) = true := by
  decide +kernel

/-- A dump with `n` codes. -/
def sDump (n : Nat) : State := { s0 with ras := { s0.ras with dump := some ⟨0, 0, 100, List.replicate n 0xFFFFFFFF⟩ } }

/-- An injection of a class, armed and fired. -/
def sInj (cls : Nat) : State :=
  setWheel { s0 with ras := { s0.ras with inj := some ⟨cls, 3, 5, 1, 0x1234⟩ } } iodDie { WheelSt.reset with fired := [⟨9, 9, true, true, .inject⟩] }

/-- INJ_CTL names a class. -/
def sArm (cls : Nat) : State := setF sSess F.INJ_CTL_CLASS 0 cls

/-- A log ring at 0x90_0000, a record that waits, and the head at its last place. -/
def sLog (n : Nat) : State :=
  setF { s0 with aed := { s0.aed with log := { s0.aed.log with ring := some 0x900000, fifo := List.replicate n (0, leBytes 32 7) } } } F.AED_LOG_HEAD_HEAD 0 30719

def rd0 : JtagTxn := ⟨false, 0, 0⟩

/-- DumpsInjectionsAndLog. -/
theorem test_dumps_and_log :
    (s0.ras.dump == none && (sDump 200).ras.dump == some ⟨0, 0, 100, List.replicate 200 0xFFFFFFFF⟩ &&
      !pageHeld (sDump 200) (dumpPage 200).1 (dumpPage 200).2 &&
      (List.range 201).any (fun n => pageHeld (sDump n) (dumpPage n).1 (dumpPage n).2) && !restarting (sDump 201) 17 &&
      (sDump 201).ras.rst == none &&
      !grantOpen s0 0 && grantOpen sSess 0 && !grantOpen s0 1 && grantOpen sSess 1 && sSess.ras.dump == none &&
      rd0.addr.toNat % 4 == 0 &&
      [1, 10].all (fun c => getF (sArm c) F.INJ_CTL_CLASS 0 == c && unrsvFree (disarm (sArm c) iodDie .inject) iodDie) &&
      !hasFired s0 iodDie .inject && [1, 7, 8, 9, 10].all (fun c => hasFired (sInj c) iodDie .inject &&
      (sInj c).ras.inj == some ⟨c, 3, 5, 1, 0x1234⟩) &&
      decide (0x1234 < dpaLimit) && (sLog 1).aed.log.ring == some 0x900000 && (sLog 1).aed.log.dumps == [] &&
      (sLog 1).aed.log.fifo == [(0, leBytes 32 7)] &&
      getF (sLog 1) F.AED_LOG_HEAD_HEAD 0 == 30719 && decide (0x900000 + 32 * 30719 + 32 ≤ dpaLimit) && cacheB s0 &&
      traceOn s0 0x500 0x41 && (sLog 127).aed.log.drops == 0 && decide ((sLog 127).aed.log.fifo.length < traceRoom) &&
      decide (traceRoom ≤ (sLog 128).aed.log.fifo.length) &&
      !traceOn { s0 with aed := { s0.aed with log := { s0.aed.log with mask := [(82, 0)] } } } 0x500 0x41) = true := by
  decide +kernel

/-! ### Host link, storage and Ethernet -/

/-- The host link is up in CXL mode or PCIe mode; a window of 256 MiB at 1 GiB; the decoder's base. -/
def sHost (mode : Nat) (hdm : Option Nat) : State :=
  let s := with1 s0 [(F.HOST_STS_MODE, 0, mode), (F.HOST_STS_WIDTH, 0, 0), (F.HOST_WIN_HI_BASE, 0, 4), (F.HOST_WIN_HI_SIZE, 0, 1)]
  { s with
    pwr := { s.pwr with perstN := true }
    host := { s.host with
      hdm := hdm
      devBias := [(4095, true)]
      ide := [(5, 1)] }
    aed := { s.aed with sessions := [(2, some ⟨.smbus, 0, []⟩)] } }

/-- PERST_N is low. -/
def perstLow (s : State) : State := { s with pwr := { s.pwr with perstN := false } }


def acc (wr : Bool) (addr : Nat) (n : Nat) : HostAccess := ⟨BitVec.ofNat 64 addr, n, wr, leBytes n 0x55, true⟩

/-- HostLinkCommands, the window: its first and its last bytes, one byte beyond it and one below the decoder's base, in both
modes. -/
theorem test_window :
    ([true, false].all (fun w => winOffset (sHost 0 none) (acc w 0x0FFFFFF8 8).addr.toNat 8 == some 0x0FFFFFF8 &&
        winOffset (sHost 0 none) (acc w 0x0FFFFFF9 8).addr.toNat 8 == none &&
        winOffset (sHost 1 (some 0x1000)) (acc w 0x1000 8).addr.toNat 8 == some 0 &&
        winOffset (sHost 1 (some 0x1000)) (acc w 0xFFF 8).addr.toNat 8 == none &&
        winOffset (sHost 1 none) (acc w 0x1000 8).addr.toNat 8 == none) &&
      hostUp (sHost 0 none) && !cxlMode (sHost 0 none) && cxlMode (sHost 1 none) && winBase (sHost 0 none) == 0x40000000 &&
      (sHost 0 none).mds == [] && unfilledMds (sHost 0 none) 0x40000000 8 == [] &&
      unfilledMds (setF (sHost 0 none) F.MD_STS_FILL_DONE 0 0) 0x40000000 8 == [0] && cacheB (sHost 0 none) &&
      decide (0x40000000 + 0x0FFFFFF8 + 8 ≤ dpaLimit) && (acc true 0 8).write && !(acc false 0 8).write &&
      (acc true 0 8).data.length == 8) = true := by
  decide +kernel

/-- HostLinkCommands, the rest: PERST_N high and low, decoders, windows that fit, that are too large and that lie beyond, pages in
both biases and the last range that fits, sessions, IDE streams, a context to end, a message that is pending. -/
theorem test_host :
    ((sHost 0 none).pwr.perstN && !(perstLow (sHost 0 none)).pwr.perstN && (sHost 1 (some 5)).host.hdm.isSome &&
      (sHost 0 none).host.hdm == none &&
      decide (256 < (257 * 4096) / 4096 % 512) && decide (dpaLimit < ((dpaLimit / 2 ^ 28) + 1) * 2 ^ 28) &&
      biasPage (sHost 1 none) 0x40000000 == some 0 && biasPage (sHost 1 none) 0x4FFFFFFF == some 4095 &&
      biasPage (sHost 1 none) 0x50000000 == none &&
      !sget false (sHost 1 none).host.devBias 0 && sget false (sHost 1 none).host.devBias 4095 &&
      getF (sHost 1 none) F.BIAS_STS_BUSY 0 == 0 &&
      getF (setF (sHost 1 none) F.BIAS_STS_BUSY 0 1) F.BIAS_STS_BUSY 0 == 1 &&
      decide (winBytes (sHost 1 none) = 65536 * (4095 + 0 + 1)) &&
      (sget none (sHost 1 none).aed.sessions 2).isSome && !restarting (sHost 1 none) 17 &&
      sget 0 (sHost 1 none).host.ide 5 == 1 && memStream != 5 && sget 0 (sHost 1 none).host.ide memStream == 0 &&
      sget 0 (sHost 1 none).host.ide 6 == 0 && (ctxOf (mapped (sHost 1 none)) 1).state == 1 && !(sHost 1 none).host.perstSeen &&
      ({ sHost 1 none with msix := ⟨[], [], [(2047, true)]⟩ } : State).msix.pend == [(2047, true)]) = true := by decide +kernel

/-- The storage-target entry of `n` as the table has it: keep-alive time, queue depth; both ports' links up or down. -/
def sSto (kato qd link : Nat) : State :=
  let s := with1 s0 [(F.ETH_STS_LINK, 0, link), (F.ETH_STS_LINK, 1, link)]
  devWrite s (tgtAddr s 3) (leBytes 16 1 ++ leBytes 16 1 ++ leBytes 6 0 ++ leBytes 2 kato ++ leBytes 2 qd)

def ok0 : TargetReply := ⟨true, true, 4096, false⟩

/-- Target 3 is UP on both ports, with one command out on port 0. -/
def sNvme (tries now link : Nat) : State := let s := atFt (sSto 8 16 link) now
  { s with sto := { s.sto with
      targets := [(3, ⟨2, true, true, 16, 8, [], 0⟩)]
      cmds := [⟨9, 3, some 0, true, 2, 1, [1], tries, 5, .kiln 7 0 0⟩]
      next := 10 } }

/-- The job of that command. -/
def sNvmeJob : State := setMd (sNvme 1 5 1) 3 { MdSt.reset with kilnJobs := [⟨7, 0, 1, 0, 0x12, leBytes 128 0, none, 1, 0, [],
0, false, none⟩] }

/-- StorageAndEthernet: entries at the bounds of KATO and queue depth and beyond, targets UP and not, commands at their last ns and
before, with the other port up and down. -/
theorem test_storage :
    (!restarting s0 0 && getF (sSto 1 16 1) F.STO_STS_BUSY 0 == 0 &&
      getF (setF (sSto 1 16 1) F.STO_STS_BUSY 0 1) F.STO_STS_BUSY 0 == 1 &&
      [(1, 16), (3600, 1024), (0, 16), (3601, 16), (1, 15), (1, 1025)].all (fun c => let e := devRead (sSto c.1 c.2 1) (tgtAddr (sSto c.1 c.2 1) 3) 256
        fieldLE e.1 38 39 == c.1 && fieldLE e.1 40 41 == c.2 && !e.2.1) &&
      (tgtOf (sSto 1 16 1) 3).state == 0 && (tgtOf (sNvme 1 5 1) 3).state == 2 && ethUp (sSto 1 16 1) 0 && !ethUp (sSto 1 16 0) 0 &&
      !ethUp (sSto 1 16 0) 1 && ok0.lbaSize == 4096 &&
      (sNvme 1 5 1).sto.cmds.find? (fun c => c.id == 9) == some ⟨9, 3, some 0, true, 2, 1, [1], 1, 5, .kiln 7 0 0⟩ &&
      kilnOf sNvmeJob 7 0 == some 3 && (livePorts (sNvme 1 5 1) 3).contains 1 && getF (sNvme 1 5 1) F.STO_CFG_IO_TO_MS 0 != 0 &&
      (let d := 5 + 1000000 * getF (sNvme 1 5 1) F.STO_CFG_IO_TO_MS 0
       ftNow (sNvme 1 d 1) == d && decide (ftNow (sNvme 1 (d - 1) 1) < d)) && pairsOn (sSto 1 16 1) 0 == 0 &&
       (sSto 1 16 1).sto.ports == [] &&
      (tgtOf (sNvme 1 5 1) 3).kept + 1000000000 * (tgtOf (sNvme 1 5 1) 3).kato == 8000000000 &&
      getF s0 F.ETH_STS_PRIO 0 != 7 && s0.sto.cmds == []) = true := by
  decide +kernel

/-! ### Management path -/

/-- An image, the recovery image, the ROM alone or nothing runs (AED_BOOT.SRC, BOOTED, RECOVERY). -/
def sMgmt (src booted recov : Nat) : State :=
  let s := with1 s0 [(F.AED_BOOT_SRC, 0, src), (F.MOD_STS_BOOTED, 0, booted), (F.MOD_STS_RECOVERY, 0, recov)]
  { s with aed := { s.aed with
      sessions := [(2, some ⟨.smbus, 0, [(2, 50), (3, 1000), (4, 1000)]⟩), (3, some ⟨.pcieVdm, 0, []⟩)]
      nonces := [7, 9]
      store := [⟨4, { StoreCfg.reset with owner := leBytes 32 1 }, []⟩] } }

/-- Firmware processor `p` restarts. -/
def during (s : State) (p : Nat) : State := { s with aed := { s.aed with restarting := [p] } }

/-- A message by SMBus in session `n`, or in none. -/
def org (n : Option (Fin 8)) : Origin := ⟨.smbus, n⟩

def outside : Origin := ⟨.pcieVdm, none⟩

/-- ManagementBusyOrSilent: Aedord restarts, no firmware runs, the ROM runs alone. -/
theorem test_busy_or_silent :
    (restarting (during (sMgmt 0 1 0) 17) 17 && !restarting (sMgmt 0 1 0) 17 && !firmwareRuns (sMgmt 3 0 0) && firmwareRuns (sMgmt 2 0 1) &&
      firmwareRuns (sMgmt 0 1 0) && !firmwareRuns (sMgmt 3 0 1) && getF (sMgmt 3 0 1) F.MOD_STS_RECOVERY 0 == 1 &&
      getF (sMgmt 3 0 1) F.AED_BOOT_SRC 0 == 3 && getF (sMgmt 3 0 0) F.MOD_STS_RECOVERY 0 == 0 && outside.binding != .smbus) = true := by
  decide +kernel

/-- Signature indices: a reserved one waits, a reservation is on its way, the key has just one block left, or none. -/
def sKey (lo hi : Nat) (cs : List Commit) (next : Nat) (sigs : List SigReq) : State := let s := sMgmt 0 1 0
  { s with aed := { s.aed with
      reserved := (lo, hi)
      commits := cs
      sigs := sigs
      store := [⟨4, { StoreCfg.reset with nextIdx := next }, []⟩] } }

def keyB (s : State) : Bool :=
  decide (s.aed.reserved.1 < s.aed.reserved.2) || s.aed.commits.contains .reserve || decide ((storeCfg s).nextIdx + 256 ≤ 2 ^ 40)

/-- `n` sessions are open. -/
def sOpen (n : Nat) : State := let s := sMgmt 0 1 0
  { s with aed := { s.aed with sessions := (List.range n).map (fun i => (i, some ⟨.smbus, 0, []⟩)) } }

def req (k : Nat) : SigReq := ⟨k, .smbus, some 2, [1]⟩

/-- The grant of 86,400 s for session 2 and nonce 9, for this module. -/
def grant0 (secs : Nat) : GrantMsg := ⟨.fm, Config.serial, leBytes 8 9, secs, [1]⟩

theorem test_grant_serial : (grant0 1).serial = Config.serial := rfl

/-- SessionsAndGrants: keys that last and one that is spent; seven and eight sessions; messages in a session and outside; grants of
each scope there and not; images at and below the fused counter; sessions at 60 s and before. What a signature shows is open, so the
clauses on it have no witness. -/
theorem test_sessions :
    (!restarting (sMgmt 0 1 0) 17 && [sKey 5 6 [] (2 ^ 40) [], sKey 6 6 [.reserve] (2 ^ 40) [], sKey 6 6 [] (2 ^ 40 - 256) []].all keyB &&
      !keyB (sKey 6 6 [] (2 ^ 40 - 255) []) && sessionsTaken (sOpen 8) == 8 && sessionsTaken (sOpen 7) == 7 &&
      (inSession (heard (sMgmt 0 1 0) (org (some 2))) (org (some 2))).isSome && (inSession (sMgmt 0 1 0) (org none)).isNone &&
      (inSession (heard (sMgmt 0 1 0) (org (some 5))) (org (some 5))).isNone && (sMgmt 0 1 0).aed.nonces == [7, 9] &&
      (grant0 86400).nonce == leBytes 8 9 && (storeCfg (sMgmt 0 1 0)).owner != [] && (storeCfg (sKey 0 0 [] 0 [])).owner == [] &&
      [2, 3, 4].all (fun sc => granted (heard (sMgmt 0 1 0) (org (some 2))) (org (some 2)) sc &&
        !granted (heard (sMgmt 0 1 0) (org (some 3))) (org (some 3)) sc) &&
      decide ((sMgmt 0 1 0).aed.svn ≤ getF (sMgmt 0 1 0) F.AED_BOOT_SVN_IMG 0) &&
      decide (getF (sMgmt 0 1 0) F.AED_BOOT_SVN_IMG 0 < ({ sMgmt 0 1 0 with aed := { (sMgmt 0 1 0).aed with svn := 1 } } : State).aed.svn) &&
      (sMgmt 0 1 0).ras.dump == none && (sessOf (atFt (sMgmt 0 1 0) 60000000000) 2).isSome && (sessOf (sMgmt 0 1 0) 1).isNone &&
      ftNow (atFt (sMgmt 0 1 0) 59999999999) == 59999999999 && (sKey 5 6 [] 0 [req 0]).aed.sigs == [req 0] && signatureDue (sKey 5 6 [] 0 [req 0]) &&
      !signatureDue { sMgmt 0 1 0 with aed := { (sMgmt 0 1 0).aed with released := List.replicate 64 0 } } &&
      (sKey 5 7 [] 0 [req 1, req 0]).aed.sigs == [req 1, req 0] && (sKey 6 6 [] 0 [req 0]).aed.reserved == (6, 6)) = true := by
  decide +kernel

/-- Changes and log entries that wait; the last commit of entries at 1 s. -/
def sStore (cs : List Commit) (logs : List LogEnt) (trip : Option Nat) (now : Nat) : State := let s := atFt (sMgmt 0 1 0) now
  { s with
    aed := { s.aed with
      commits := cs
      logWait := logs
      lastCommit := some 1000000000
      store := [⟨3, StoreCfg.reset, []⟩, ⟨4, { StoreCfg.reset with nextIdx := 512 }, []⟩] }
    pwr := { s.pwr with trip := trip, good := true } }

/-- StoreKeepsState: each kind of change, entries after one second and before, and a trip's entry. -/
theorem test_store :
    ([Commit.reserve, .owner (leBytes 32 9), .overlay [], .activate 1, .attempt, .healthy, .logs].all (fun c =>
        (sStore [c, .logs] [] none 5).aed.commits == [c, .logs] && (sStore [c] [] none 5).pwr.trip == none) &&
      (sStore [] [⟨0, []⟩] none 2000000000).aed.logWait != [] && (sStore [] [⟨0, []⟩] none 2000000000).aed.lastCommit == some 1000000000 &&
      decide (1000000000 + 1000000000 ≤ ftNow (sStore [] [⟨0, []⟩] none 2000000000)) && decide (ftNow (sStore [] [⟨0, []⟩] none 1999999999) < 2000000000) &&
      (sStore [] [⟨6, []⟩] (some 5) 2000000000).pwr.trip.isSome && ((sStore [] [⟨6, []⟩] (some 5) 2000000000).aed.logWait.take 31).any (fun e => e.kind == 6) &&
      firmwareRuns (sStore [] [] none 5) && storeSeq (sStore [] [] none 5) == 4) = true := by decide +kernel

/-- An update of slot 1 that has verified or not; PENDING set and its attempt flag. -/
def sUpd (src booted recov : Nat) (up : Option (Nat × Bool)) (pend : Option Nat) (att : Bool) : State := let s := sMgmt src booted recov
  { s with aed := { s.aed with
      update := up
      store := [⟨4, { StoreCfg.reset with pending := pend, attempt := att }, []⟩] } }

/-- A trip holds. -/
def tripped (s : State) : State := { s with pwr := { s.pwr with trip := some 5 } }

/-- PldmAndSensors: sensors 1, 64, 65, 160, 161, 0 and 162, in the image and in the recovery image; pieces that just fit and do not;
updates refused and not; a reading of 120 °C in a trip. -/
theorem test_pldm :
    (getF (sMgmt 2 0 1) F.MOD_STS_RECOVERY 0 == 1 && getF (sMgmt 0 1 0) F.MOD_STS_RECOVERY 0 == 0 &&
      !updateRefused (sUpd 0 1 0 none none false) && !updateRefused (sUpd 0 1 0 none (some 1) true) && updateRefused (sUpd 0 1 0 none (some 1) false) &&
      updateSlot (sUpd 0 1 0 none none false) == 1 && updateSlot (sUpd 3 0 1 none none false) == 0 && decide (0xFFFC00 + 1024 ≤ 0x1000000) &&
      (sUpd 0 1 0 (some (1, true)) none false).aed.update == some (1, true) && (sUpd 3 0 1 (some (0, false)) none false).aed.update == some (0, false) &&
      signedOf 12 (BitVec.ofNat 12 960).toNat == 960 && (tripped (sMgmt 0 1 0)).pwr.trip.isSome && (sMgmt 0 1 0).pwr.trip == none &&
      !firmwareRuns (sUpd 3 0 1 (some (0, true)) none false)) = true := by decide +kernel

/-- Before ROM_BOOT: rails and clock on; a PENDING image and its attempt flag. -/
def sBoot (pend : Option Nat) (att : Bool) : State := let s := sUpd 0 0 0 none pend att
  { s with pwr := { s.pwr with good := true, resetN := true, refclk := true } }

/-- A booted PENDING image with its cores released. -/
def sHealthy : State := with1 (sUpd 0 1 0 none (some 1) true) [(F.AED_BOOT_PENDING_TRY, 0, 1), (F.MOD_STS_CORES_REL, 0, 1)]

/-- BootAndRestarts: processors that run and do not; the module before ROM_BOOT with its rails and clock on; a booted PENDING image
whose cores are released. Which images verify is open, so each clause on it has no witness of its own. -/
theorem test_boot :
    (procRuns (sMgmt 0 1 0) 16 && !procRuns (sMgmt 2 0 1) 16 && procRuns (sMgmt 2 0 1) 17 && !restarting (sMgmt 0 1 0) 16 &&
      restarting (during (sMgmt 0 1 0) 16) 16 && (sMgmt 0 1 0).ras.dump == none && getAt (sMgmt 0 1 0) ((procPage 16).1 + 0x014) 0 0 == 0 &&
      getF (sBoot none false) F.MOD_STS_BOOTED 0 == 0 && getF (sBoot none false) F.MOD_STS_RECOVERY 0 == 0 && (sBoot none false).pwr.good &&
      (sBoot none false).pwr.resetN && (sBoot none false).pwr.refclk && (sBoot (some 1) false).pwr.trip == none &&
      (storeCfg (sBoot (some 1) false)).active == 0 && (storeCfg (sBoot (some 1) false)).pending == some 1 && getF sHealthy F.AED_BOOT_PENDING_TRY 0 == 1 &&
      getF sHealthy F.MOD_STS_CORES_REL 0 == 1 && !restarting sHealthy 17 && (List.range 8).all (fun d => !restarting sHealthy (9 + d)) &&
      !sHealthy.aed.commits.contains .healthy && (storeCfg sHealthy).pending.isSome) = true := by decide +kernel

/-! ### Power, pins and registers -/

/-- Pins: PWR_EN, PWR_GOOD, RESET_N. -/
def sPin (en good rst : Bool) : State := { s0 with pwr := { s0.pwr with pwrEn := en, good := good, resetN := rst } }

/-- Rails on; ceiling cut `c` since 5 ns; die cuts; raw temperatures; a trip; the time. -/
def sPwr (c : Nat) (cut : List (Nat × Nat)) (temps : List (Nat × Nat)) (trip : Option Nat) (now : Nat) : State := let s := atFt s0 now
  { s with
    pwr := { s.pwr with
      good := true
      pwrEn := true
      capCut := c
      capSince := 5
      cut := cut
      cutSince := cut.map (fun e => (e.1, 5))
      trip := trip }
    aed := { s.aed with temps := temps } }

/-- PowerAndTrip: ceiling cuts 0, 14 and 15, at the last ns before a step up and at it; sensors at 105 °C, just below, at 100 °C and just
above; at 115 °C and just below; a trip's hold at its end and before. -/
theorem test_power :
    ([0, 1, 14, 15].all (fun c => (sPwr c [] [] none 100005).pwr.capCut == c && (sPwr c [] [] none 100005).pwr.good &&
        decide ((sPwr c [] [] none 100005).pwr.capSince + 100000 ≤ ftNow (sPwr c [] [] none 100005)) &&
        decide (ftNow (sPwr c [] [] none 100004) < 5 + 100000)) &&
      (governing 7).contains 31 && (governing 7).contains 59 && !(governing 7).contains 27 && governing 15 == [46, 47] &&
      tempOf (sPwr 0 [] [(59, 840)] none 0) 59 == 840 && (governing 7).any (fun n => decide (840 ≤ tempOf (sPwr 0 [] [(59, 840)] none 0) n)) &&
      (governing 7).all (fun n => decide (tempOf (sPwr 0 [(7, 3)] [(59, 800)] none 100005) n ≤ 800)) &&
      !(governing 7).all (fun n => decide (tempOf (sPwr 0 [(7, 3)] [(59, 801)] none 100005) n ≤ 800)) &&
      !(governing 7).any (fun n => decide (840 ≤ tempOf (sPwr 0 [] [(59, 839)] none 0) n)) && sget 0 (sPwr 0 [(7, 15)] [] none 0).pwr.cut 7 == 15 &&
      decide (920 ≤ tempOf (sPwr 0 [] [(0, 920)] none 0) 0) && (List.range 60).all (fun n => decide (tempOf (sPwr 0 [] [(0, 919)] none 0) n < 920)) &&
      (sPwr 0 [] [] (some 5) 500000005).pwr.trip == some 5 && ftNow (sPwr 0 [] [] (some 5) 500000004) == 500000004 && !(sPin false false true).pwr.good &&
      (sPwr 0 [] [] none 0).pwr.pwrEn && !(sPin false false true).pwr.pwrEn) = true := by decide +kernel

/-- PinsAndColdReset. The code of a TAP instruction is open, so each clause on it has no witness of its own. -/
theorem test_pins :
    ([true, false].all (fun b => (sPin b true true).pwr.pwrEn == b && (sPin true b true).pwr.good == b && (sPin true true b).pwr.resetN == b) &&
      (sPin true true false).pwr.testFuse == s0.pwr.testFuse && (sPin true true false).pwr.refclk == s0.pwr.refclk) = true := by decide +kernel

/-- The module has booted and its cores are released, so its pages answer. -/
def sReg : State := with1 (sPin true true true) [(F.MOD_STS_BOOTED, 0, 1), (F.MOD_STS_CORES_REL, 0, 1)]

/-- Page `p`, `n` with its state. -/
def withPage (s : State) (p : Page) (n : Nat) (x : PageSt) : State := { s with pages := [(pageBase p n, x)] }

/-- No write waits, as a Bool. -/
def quietB (s : State) : Bool := s.pages.all (fun e => e.2.fifo == [] && e.2.posted == none)

/-- RegisterWrites: modules on and off; pages that exist, that do not, that are under reset; fast and slow pages; words that are defined
and not; slow pages that are free, busy and in indirect mode; a posted write. -/
theorem test_register_writes :
    (moduleAlive sReg && !moduleAlive (sPin true false true) && pageAt (pageBase .kln 3) == some (.kln, 3) && pageAt (pageBase .tmr 8 + 0x104) == some (.tmr, 8) &&
      pageAt 0x3FFFFFC == none && pageHeld (withPage sReg .kln 3 { PageSt.reset with inReset := true }) .kln 3 && !pageHeld sReg .kln 3 && !pageHeld sReg .tmr 8 &&
      wordDefined .tmr 0x100 && !wordDefined .tmr 0xFFC && slowPage .kln && !slowPage .tmr && quietB sReg && wordDefined .kln 0x100 &&
      (pageOf sReg (pageBase .kln 3)).accPend == none && !accMode sReg (pageBase .kln 3) && !pageBusy sReg (pageBase .kln 3) &&
      pageBusy (withPage sReg .kln 3 { PageSt.reset with posted := some (0x100, 5) }) (pageBase .kln 3) &&
      accMode (setAt sReg (pageBase .kln 3 + 0x010) 0 0 1) (pageBase .kln 3) &&
      (pageFields .kln).any (fun f => f.off == 0x100)) = true := by decide +kernel

/-- `n` writes of the RAS or RTE page wait, the oldest at `a`. -/
def sFifo (p : Page) (n a : Nat) : State := withPage sReg p 0 { PageSt.reset with
  fifo := (a, 0x12345678) :: List.replicate (n - 1) (0, 0)
  indBar := 0x801FFFFC }

/-- A session with an FM grant, in a booted module. -/
def sFm : State := let s := setF sReg F.MOD_STS_BOOTED 0 1
  { s with aed := { s.aed with sessions := [(2, some ⟨.smbus, 0, [(3, 1000)]⟩)] } }

/-- IndirectAndReads: fifteen and sixteen entries, addresses at the ends of the arrays, the active bank and the other, copies that differ
and agree, pages that the management path reaches and does not. -/
theorem test_indirect :
    ((pageOf (sFifo .rte 15 0x7FFFC) (pageBase .rte 0)).fifo.length == 15 && (pageOf (sFifo .rte 16 0) (pageBase .rte 0)).fifo.length == 16 &&
      !mgmtPage .core && mgmtPage .ras && pageAt (pageBase .rte 0) == some (.rte, 0) && pageAt (pageBase .ras 0) == some (.ras, 0) &&
      (ctxOf (sFifo .ras 1 0x3FFC) 4095).state == 0 && getF sReg F.RTE_CTL_ACTIVE 0 == 0 && slowPage .rte == slowPage .rte &&
      pageBusy (sFifo .kln 1 0) (pageBase .kln 0) && !pageBusy sReg (pageBase .kln 0) && !(rwvFields .ft).isEmpty &&
      !pageHeld sReg .num 127 && !pageHeld sReg .ft 0 && !restarting sFm 17 && firmwareRuns sFm && granted (heard sFm ⟨.smbus, some 2⟩) ⟨.smbus, some 2⟩ 3 &&
      !granted (heard sFm ⟨.smbus, none⟩) ⟨.smbus, none⟩ 3 && mgmtReaches (pageBase .ras 0 + 0x100) && !mgmtReaches (pageBase .core 0 + 0x100) &&
      !mgmtReaches (pageBase .ras 0 + 0x101)) = true := by decide +kernel

/-! ### Well-formedness: for each check a command that passes and one that it refuses -/

def okFlit : RxFlit := ⟨List.replicate 16 0⟩
def badFlit : RxFlit := ⟨List.replicate 15 0⟩
def okPkt : Packet := ⟨0, 0, 0, 0, 0, 0, 0, 0, 0, [1]⟩
def badPkt : Packet := ⟨0, 0, 0, 0, 0, 0, 0, 0, 0, List.replicate 4097 0⟩

/-- The check separates two commands. -/
def checks (good bad : Instr) : Bool := good.wf && !bad.wf

theorem test_wf_dataFlitReceive : checks (.dataFlitReceive 0 okFlit) (.dataFlitReceive 0 badFlit) = true := by decide +kernel
theorem test_wf_retryReq : checks (.retryReq 0 okFlit) (.retryReq 0 badFlit) = true := by decide +kernel
theorem test_wf_idleFlit : checks (.idleFlit 0 okFlit) (.idleFlit 0 badFlit) = true := by decide +kernel
theorem test_wf_timeFlit : checks (.timeFlit 0 okFlit) (.timeFlit 0 badFlit) = true := by decide +kernel
theorem test_wf_trainFlit : checks (.trainFlit 0 okFlit) (.trainFlit 0 badFlit) = true := by decide +kernel
theorem test_wf_sweepMarker : checks (.sweepMarker 0 0 okPkt) (.sweepMarker 0 0 badPkt) = true := by decide +kernel
theorem test_wf_ready : checks (.ready okPkt) (.ready badPkt) = true := by decide +kernel
theorem test_wf_collData : checks (.collData okPkt) (.collData badPkt) = true := by decide +kernel
theorem test_wf_armed : checks (.armed okPkt) (.armed badPkt) = true := by decide +kernel
theorem test_wf_allarmed : checks (.allarmed okPkt) (.allarmed badPkt) = true := by decide +kernel
theorem test_wf_veto : checks (.veto okPkt) (.veto badPkt) = true := by decide +kernel
theorem test_wf_claim : checks (.claim okPkt) (.claim badPkt) = true := by decide +kernel
theorem test_wf_grant : checks (.grant okPkt) (.grant badPkt) = true := by decide +kernel
theorem test_wf_dup : checks (.dup okPkt) (.dup badPkt) = true := by decide +kernel
theorem test_wf_done : checks (.done okPkt) (.done badPkt) = true := by decide +kernel
theorem test_wf_busy : checks (.busy okPkt) (.busy badPkt) = true := by decide +kernel
theorem test_wf_abort : checks (.abort okPkt) (.abort badPkt) = true := by decide +kernel
theorem test_wf_beacon : checks (.beacon okPkt) (.beacon badPkt) = true := by decide +kernel
theorem test_wf_attachMessage : checks (.attachMessage okPkt) (.attachMessage badPkt) = true := by decide +kernel
theorem test_wf_detachMessage : checks (.detachMessage okPkt) (.detachMessage badPkt) = true := by decide +kernel
theorem test_wf_page : checks (.page okPkt) (.page badPkt) = true := by decide +kernel
theorem test_wf_commit : checks (.commit okPkt) (.commit badPkt) = true := by decide +kernel
theorem test_wf_commitAck : checks (.commitAck okPkt) (.commitAck badPkt) = true := by decide +kernel
theorem test_wf_xfer : checks (.xfer okPkt) (.xfer badPkt) = true := by decide +kernel
theorem test_wf_xferEnd : checks (.xferEnd okPkt) (.xferEnd badPkt) = true := by decide +kernel
theorem test_wf_pullReq : checks (.pullReq okPkt) (.pullReq badPkt) = true := by decide +kernel
theorem test_wf_deviceMemoryRead : checks (.deviceMemoryRead ⟨0, 1, none, .normal⟩) (.deviceMemoryRead ⟨0, 0, none, .normal⟩) = true := by
  decide +kernel
theorem test_wf_deviceMemoryWrite : checks (.deviceMemoryWrite ⟨0, [1], false, none, .normal⟩)
    (.deviceMemoryWrite ⟨0, [], false, none, .normal⟩) = true := by decide +kernel
theorem test_wf_tracePoint : checks (.tracePoint 0 0 (List.replicate 20 0)) (.tracePoint 0 0 (List.replicate 21 0)) = true := by
  decide +kernel
theorem test_wf_getMeasurements : checks (.getMeasurements (⟨.smbus, none⟩) (List.replicate 32 0)) (.getMeasurements (⟨.smbus, none⟩) []) = true := by
  decide +kernel
theorem test_wf_sessionOpen : checks (.sessionOpen (⟨.smbus, none⟩) (List.replicate 32 0) []) (.sessionOpen (⟨.smbus, none⟩) [0] []) = true := by
  decide +kernel
theorem test_wf_sensorSample : checks (.sensorSample (List.replicate 64 0)) (.sensorSample (List.replicate 63 0)) = true := by
  decide +kernel
theorem test_wf_pmbusPoll : checks (.pmbusPoll (List.replicate 24 ⟨true, 0, 0, 0, 0⟩)) (.pmbusPoll []) = true := by decide +kernel
theorem test_wf_calSet : checks (.calSet (⟨.smbus, none⟩) (List.replicate 128 ⟨0, 0⟩)) (.calSet (⟨.smbus, none⟩) (List.replicate 129 ⟨0, 0⟩)) = true := by
  decide +kernel
theorem test_wf_requestFirmwareData : checks (.requestFirmwareData (⟨.smbus, none⟩) 0 (List.replicate 1024 0))
    (.requestFirmwareData (⟨.smbus, none⟩) 0 (List.replicate 1025 0)) = true := by decide +kernel
theorem test_wf_cxlMemAccess : checks (.cxlMemAccess ⟨0, 2, true, [1, 2], false⟩) (.cxlMemAccess ⟨0, 2, true, [1], false⟩) = true := by
  decide +kernel
theorem test_wf_cxlMemAccess_empty : checks (.cxlMemAccess ⟨0, 2, false, [], false⟩) (.cxlMemAccess ⟨0, 0, false, [], false⟩) = true := by
  decide +kernel

/-! ### Syllable words (Tables 2.4 to 2.8), written field by field, bit 63 first -/

theorem test_word_cmpltu : decodeSyl 1
    (0b11111111111111111111111111111110#32 ++ 0b1#1 ++ 0b000101#6 ++ 0b001001#6 ++ 0b000100#6 ++ 0b1#1 ++ 0b0011#4 ++ 0b00010011#8)
    = some (.s .cmpltu ⟨3, true, 4, 9, 5, true, 0xFFFFFFFE⟩) := by decide +kernel
theorem test_word_movhi : decodeSyl 0
    (0b00010010001101000101011001111000#32 ++ 0b0#1 ++ 0b000001#6 ++ 0b000010#6 ++ 0b100001#6 ++ 0b0#1 ++ 0b0000#4 ++ 0b00001110#8)
    = some (.s .movhi ⟨0, false, 33, 2, 1, false, 0x12345678⟩) := by decide +kernel
theorem test_word_brr : decodeSyl 2
    (0b00000000000000000000000000010000#32 ++ 0b0000000000000#13 ++ 0b000111#6 ++ 0b0#1 ++ 0b0001#4 ++ 0b00000010#8)
    = some (.c .brr ⟨1, false, 7, 0x10⟩) := by decide +kernel
theorem test_word_st : decodeSyl 4
    (0b11111111111111111111111111111000#32 ++ 0b1001#4 ++ 0b010#3 ++ 0b100010#6 ++ 0b001100#6 ++ 0b0#1 ++ 0b0000#4 ++ 0b00000011#8)
    = some (.m .st ⟨0, false, 12, 34, 2, 9, 0xFFFFFFF8⟩) := by decide +kernel
theorem test_word_scat : decodeSyl 3
    (0b00000000000000000000000000#26 ++ 0b1011#4 ++ 0b101000#6 ++ 0b00101#5 ++ 0b11110#5 ++ 0b00001#5 ++ 0b0#1 ++ 0b0000#4 ++ 0b00010011#8)
    = some (.d .scat ⟨0, false, 1, 30, 5, 40, 11⟩) := by decide +kernel
theorem test_word_amm : decodeSyl 6
    (0b0000000100000010#16 ++ 0b000000000000#12 ++ 0b0#1 ++ 0b1#1 ++ 0b100#3 ++ 0b001#3 ++ 0b101#3 ++ 0b10001#5 ++ 0b00011#5 ++ 0b10#2 ++ 0b0#1 ++ 0b0010#4 ++ 0b00000010#8)
    = some (.a 1 .amm ⟨2, false, 2, 3, 17, 5, 1, 4, true, false, 0x0102⟩) := by decide +kernel
theorem test_word_vfma : decodeSyl 9
    (0b0000000000#10 ++ 0b0110#4 ++ 0b10010#5 ++ 0b110010#6 ++ 0b01#2 ++ 0b010100#6 ++ 0b100001#6 ++ 0b100#3 ++ 0b011#3 ++ 0b010#3 ++ 0b001#3 ++ 0b0#1 ++ 0b0000#4 ++ 0b00000100#8)
    = some (.v 1 .vfma ⟨0, false, 1, 2, 3, 4, 33, 20, 1, 50, 18, 6⟩) := by decide +kernel
theorem test_word_xargmax : decodeSyl 10
    (0b000000000000000000000000#24 ++ 0b100011#6 ++ 0b000111#6 ++ 0b1#1 ++ 0b101001#6 ++ 0b011#3 ++ 0b10#2 ++ 0b101#3 ++ 0b0#1 ++ 0b0000#4 ++ 0b00000110#8)
    = some (.x .xargmax ⟨0, false, 5, 2, 3, 41, true, 7, 35⟩) := by decide +kernel
theorem test_word_twait : decodeSyl 11
    (0b00000000000000000010000000000000#32 ++ 0b0000000#7 ++ 0b010001#6 ++ 0b001000#6 ++ 0b1#1 ++ 0b0000#4 ++ 0b00000101#8)
    = some (.y .twait ⟨0, true, 8, 17, 0x2000⟩) := by decide +kernel
theorem test_word_kcvt : decodeSyl 12
    (0b000000000000000000000000000000000#33 ++ 0b1#1 ++ 0b101#3 ++ 0b10#2 ++ 0b0011#4 ++ 0b10011#5 ++ 0b110#3 ++ 0b0#1 ++ 0b0000#4 ++ 0b00000001#8)
    = some (.k .kcvt ⟨0, false, 6, 19, 3, 2, 5, true⟩) := by decide +kernel
theorem test_word_qrot : decodeSyl 13
    (0b0000000000000000000000000000000000#34 ++ 0b010#3 ++ 0b101100#6 ++ 0b01001#5 ++ 0b011#3 ++ 0b0#1 ++ 0b0000#4 ++ 0b00000011#8)
    = some (.q .qrot ⟨0, false, 3, 9, 44, 2⟩) := by decide +kernel

/-- Opcodes 0x0F of the scalar slots, 0x08 of C, 0x08 of M and 0x05 of Q are absent from Table 2.8; slot 14 is reserved. -/
theorem test_reserved_opcodes : decodeSyl 0 0x0F = none ∧ decodeSyl 2 0x08 = none ∧ decodeSyl 3 0x08 = none ∧
    decodeSyl 13 0x05 = none ∧ decodeSyl 14 0x01 = none := by decide +kernel

/-! ### Whole machine -/

/-- State.reset meets the premise of the invariant that every step keeps. -/
theorem test_reset_memWf : State.reset.memWf = true := by decide +kernel

/-- A command with a next state, which leaves a queue of one waiting command alone. -/
theorem test_queue_kept : isNext (exec (.tracePoint 0 0 []) { State.reset with pending := [.flipGo] }) = true ∧
    (out (exec (.tracePoint 0 0 []) { State.reset with pending := [.flipGo] })).pending = [.flipGo] := by decide +kernel

/-- The front command is taken. -/
theorem test_front_taken : (out (step { State.reset with pending := [.tracePoint 0 0 [], .flipGo] })).pending = [.flipGo] := by
  decide +kernel

end Sys2Proof.Tests
end

/-! SUPPORT. What reset leaves (R14, R216, R334): the reset state, seen through the model's accessors. -/
section

namespace Sys2Proof.Machine

/-! ### The accessors at reset -/

@[simp] theorem pending_reset : State.reset.pending = [] := rfl

/-- No copy of a word is listed, so the majority of R482 is the Reset column's value. -/
@[simp] theorem rdWord_reset (a : Nat) : rdWord State.reset a = resetAt a := by
  have hmajority : rdWord State.reset a = resetAt a ^^^ (0#32 &&& 0#32) := rfl
  rw [hmajority, BitVec.and_self, BitVec.xor_zero]

@[simp] theorem coreOf_reset (c : Nat) : coreOf State.reset c = CoreSt.reset := sget_nil CoreSt.reset c

@[simp] theorem ctxOf_reset (k : Nat) : ctxOf State.reset k = CtxSt.reset := sget_nil CtxSt.reset k

/-- Fabric time starts at 0 (R334). -/
@[simp] theorem ftNow_reset : ftNow State.reset = 0 := rfl

/-- Nothing is bound to a core at reset. -/
theorem bound_coreOf_reset (c : Nat) : (coreOf State.reset c).bound = none := by
  rw [coreOf_reset, CoreSt.reset]

/-- No context exists at reset: each is FREE, state 0 (Table 9.2). -/
theorem state_ctxOf_reset (k : Nat) : (ctxOf State.reset k).state = 0 := by
  rw [ctxOf_reset, CtxSt.reset]

/-! ### The obligation -/

/-- Settles O4: the reset state lists nothing, so each accessor reads its default. -/
theorem resetState : Obligations.ResetState :=
  ⟨pending_reset, memWf_reset, rdWord_reset, bound_coreOf_reset, state_ctxOf_reset, ftNow_reset⟩

end Sys2Proof.Machine
end

/-! SUPPORT. What issuing a syllable that queues operations leaves, and the array syllables (R86 to R94, R110). -/
section

namespace Sys2Proof.Machine

/-! ### A syllable of its own, by the state `u` that its effect gives -/

section Issue

variable {s u : State} {c : Nat} {y : Syl}

/-- A core whose syllable issues holds no bundle, and no HALT of it waits. -/
theorem idle_of_acts (h : Acts s c y) : (coreOf s c).fetched = none ∧ (coreOf s c).halting = false := by
  obtain ⟨⟨-, -, hfetched, hhalt, -⟩, -⟩ := h
  exact ⟨hfetched, hhalt⟩

/-- After its effect, a syllable outside slot C that meets no waiting HALT counts one bundle and leaves the core in RUN. -/
theorem issueSyl_of_effect (h : Acts s c y) (hc : cSyl [y] = none)
    (hu : sylEffect c (coreOf s c) (spoilCore s c [y]) y = u) (hh : (coreOf u c).halting = false) :
    issueSyl s c y =
      setF (modCore u c (fun k => { k with fetched := none, issued := k.issued + 1 })) F.CORE_STS_STATE c 1 := by
  have hafter : afterSyl s c y =
      setF (modCore u c (fun k => { k with fetched := none, issued := k.issued + 1 })) F.CORE_STS_STATE c 1 := by
    rw [afterSyl, hu, hc]
    rfl
  rw [issueSyl_acts s c y h, hafter, haltCheck_going]
  simpa using hh

theorem coreOf_issueSyl_of_effect (h : Acts s c y) (hc : cSyl [y] = none)
    (hu : sylEffect c (coreOf s c) (spoilCore s c [y]) y = u) (hh : (coreOf u c).halting = false) :
    coreOf (issueSyl s c y) c = { coreOf u c with fetched := none, issued := (coreOf u c).issued + 1 } := by
  rw [issueSyl_of_effect h hc hu hh, coreOf_setF, coreOf_modCore_self]

/-- Fields of words other than the core's CORE_STS read as the effect left them. -/
theorem getF_issueSyl_of_effect (h : Acts s c y) (hc : cSyl [y] = none)
    (hu : sylEffect c (coreOf s c) (spoilCore s c [y]) y = u) (hh : (coreOf u c).halting = false) (f : Fld)
    (hf : f.hi < 32) (ha : fldAddr f c ≠ fldAddr F.CORE_STS_STATE c) :
    getF (issueSyl s c y) f c = getF u f c := by
  rw [issueSyl_of_effect h hc hu hh, getF_setF_other _ _ _ _ _ _ hf (.inl ha), getF_modCore]

/-- An effect on the core alone, which leaves it as `k`, is all that the issue changes. -/
theorem onlyCore_issueSyl_of_effect {k : CoreSt} (h : Acts s c y) (hc : cSyl [y] = none)
    (hu : sylEffect c (coreOf s c) (spoilCore s c [y]) y = u) (hcores : u = { s with cores := u.cores })
    (hk : coreOf u c = k) (ho : ∀ d, d ≠ c → coreOf u d = coreOf s d)
    (hhalt : k.halting = false) (hfetched : k.fetched = none) (hissued : k.issued = (coreOf s c).issued) :
    OnlyCore s (issueSyl s c y) c k := by
  subst hk
  rw [issueSyl_of_effect h hc hu hhalt]
  refine onlyCore_setF s _ c _ h.1.2.1 (coresOnly_modCore _ _ _ _ hcores) ?_ ?_
  · rw [coreOf_modCore_self, hissued, ← hfetched]
  · intro d hd
    rw [coreOf_modCore, if_neg hd, ho d hd]

end Issue

/-! ### The scale buffer's match, ended by a write of its tile, is of no other field -/

@[simp] theorem spoilScales_units (l : List Syl) (k : CoreSt) : (spoilScales l k).units = k.units := by
  unfold spoilScales; split <;> rfl

@[simp] theorem spoilScales_reports (l : List Syl) (k : CoreSt) : (spoilScales l k).reports = k.reports := by
  unfold spoilScales; split <;> rfl

@[simp] theorem spoilScales_drainPar (l : List Syl) (k : CoreSt) : (spoilScales l k).drainPar = k.drainPar := by
  unfold spoilScales; split <;> rfl

@[simp] theorem spoilScales_halting (l : List Syl) (k : CoreSt) : (spoilScales l k).halting = k.halting := by
  unfold spoilScales; split <;> rfl

@[simp] theorem spoilScales_fetched (l : List Syl) (k : CoreSt) : (spoilScales l k).fetched = k.fetched := by
  unfold spoilScales; split <;> rfl

@[simp] theorem spoilScales_issued (l : List Syl) (k : CoreSt) : (spoilScales l k).issued = k.issued := by
  unfold spoilScales; split <;> rfl

@[simp] theorem unitOps_spoilScales (l : List Syl) (k : CoreSt) (u : Nat) : unitOps (spoilScales l k) u = unitOps k u := by
  rw [unitOps, spoilScales_units, unitOps]

@[simp] theorem coreOf_spoilCore_self (s : State) (c : Nat) (l : List Syl) :
    coreOf (spoilCore s c l) c = spoilScales l (coreOf s c) := by
  rw [coreOf_spoilCore, if_pos rfl]

@[simp] theorem getF_spoilCore (s : State) (c : Nat) (l : List Syl) (f : Fld) (n : Nat) :
    getF (spoilCore s c l) f n = getF s f n := by
  rw [coresOnly_spoilCore s c l]; rfl

/-! ### Queues and reports -/

/-- The operations `l` as they join queue `u` of core `k`: each with its place in the issue order. -/
def numberedOps (k : CoreSt) (u : Nat) (l : List UnitOp) : List UnitOp :=
  l.map (fun o => { o with num := nextNum k (if u < 8 then u else u - 8) })

@[simp] theorem length_numberedOps (k : CoreSt) (u : Nat) (l : List UnitOp) : (numberedOps k u l).length = l.length :=
  List.length_map _

@[simp] theorem unitOps_setUnitOps_self (k : CoreSt) (u : Nat) (l : List UnitOp) : unitOps (setUnitOps k u l) u = l :=
  sget_sset_self ..

theorem coreOf_pushOps_self (s : State) (c u : Nat) (l : List UnitOp) :
    coreOf (pushOps s c u l) c =
      setUnitOps (coreOf s c) u (unitOps (coreOf s c) u ++ numberedOps (coreOf s c) u l) :=
  coreOf_modCore_self ..

theorem coreOf_pushOps_ne (s : State) {c d : Nat} (u : Nat) (l : List UnitOp) (h : d ≠ c) :
    coreOf (pushOps s c u l) d = coreOf s d := by
  rw [pushOps, coreOf_modCore, if_neg h]

theorem unitOps_pushOps (s : State) (c u : Nat) (l : List UnitOp) :
    unitOps (coreOf (pushOps s c u l) c) u = unitOps (coreOf s c) u ++ numberedOps (coreOf s c) u l := by
  rw [coreOf_pushOps_self, unitOps_setUnitOps_self]

@[simp] theorem halting_pushOps (s : State) (c u : Nat) (l : List UnitOp) :
    (coreOf (pushOps s c u l) c).halting = (coreOf s c).halting := by
  rw [coreOf_pushOps_self, setUnitOps_halting]

theorem coreOf_report_self (s : State) (c code : Nat) :
    coreOf (report s c code) c = { coreOf s c with reports := (coreOf s c).reports ++ [⟨code, 0⟩] } :=
  coreOf_modCore_self ..

theorem coreOf_report_ne (s : State) {c d : Nat} (code : Nat) (h : d ≠ c) : coreOf (report s c code) d = coreOf s d := by
  rw [report, coreOf_modCore, if_neg h]

/-- A syllable whose effect is to queue `l` changes nothing but the queue and, by its writes, the match of the scale buffer. -/
theorem queued_issueSyl {s : State} {c : Nat} {y : Syl} (h : Acts s c y) (hc : cSyl [y] = none) {u : Nat} {l : List UnitOp}
    (he : sylEffect c (coreOf s c) (spoilCore s c [y]) y = pushOps (spoilCore s c [y]) c u l) :
    Queued s (issueSyl s c y) c u (spoilScales [y] (coreOf s c)) (numberedOps (spoilScales [y] (coreOf s c)) u l) := by
  obtain ⟨hfetched, hhalt⟩ := idle_of_acts h
  refine onlyCore_issueSyl_of_effect h hc he (coresOnly_modCore _ _ _ _ (coresOnly_spoilCore _ _ _)) ?_ ?_ ?_ ?_ ?_
  · rw [coreOf_pushOps_self, coreOf_spoilCore_self, unitOps_spoilScales]
  · intro d hd
    rw [coreOf_pushOps_ne _ _ _ hd, coreOf_spoilCore, if_neg hd]
  · rw [setUnitOps_halting, spoilScales_halting, hhalt]
  · rw [setUnitOps_fetched, spoilScales_fetched, hfetched]
  · rw [setUnitOps_issued, spoilScales_issued]

/-! ### Array syllables: issue -/

theorem cSyl_array (a : ArrId) (o : AOp) (y : ASyl) : cSyl [.a a o y] = none := rfl

/-- AFILL and ACLR write a bank and no tile, so that the match of the scale buffer stands. -/
theorem spoilScales_bankWrite (a : ArrId) {o : AOp} (y : ASyl) (k : CoreSt) (ho : o = .afill ∨ o = .aclr) :
    spoilScales [.a a o y] k = k := by
  have hwrites : sylWrites (.a a o y) = [useR (.bank (4 * a.val + y.acc.toNat))] := by
    obtain rfl | rfl := ho <;> rfl
  have hspoils : spoils [.a a o y] k = false := by
    simp [spoils, hwrites, useR]
  rw [spoilScales, hspoils, if_neg Bool.false_ne_true]

/-! ### Refusal (R86) -/

theorem coreOf_arrayRefuse (s : State) (c a code : Nat) :
    coreOf (arrayRefuse s c a code) c = { coreOf s c with reports := (coreOf s c).reports ++ [⟨2, 0⟩] } := by
  rw [arrayRefuse, coreOf_report_self, coreOf_inc, coreOf_setF, coreOf_setF]

/-- ARR_STS.REFUSE, three bits wide, takes the code; REF_ARR lies beside it and the counter in another word. -/
theorem refuse_arrayRefuse (s : State) (c a code : Nat) :
    getF (arrayRefuse s c a code) F.ARR_STS_REFUSE c = code % 8 := by
  have hcounter : fldAddr F.ARR_STS_REFUSE c ≠ fldAddr F.ARR_CNT1_REFUSE_CNT c := by
    simp [fldAddr, F.ARR_STS_REFUSE, F.ARR_CNT1_REFUSE_CNT]
  rw [arrayRefuse, report, getF_modCore, inc, incBy, getF_setF_other _ _ _ _ _ _ (by decide) (.inl hcounter),
    getF_setF_other _ _ _ _ _ _ (by decide) (.inr (.inl (by decide))), getF_setF _ _ _ _ (by decide)]
  rfl

theorem arrSts_ne_coreSts (c : Nat) : fldAddr F.ARR_STS_REFUSE c ≠ fldAddr F.CORE_STS_STATE c := by
  simp only [fldAddr, pageBase, F.ARR_STS_REFUSE, F.CORE_STS_STATE]
  omega

/-! ### ALOAD, AMM and ADIST: accepted or refused -/

/-- The state once array `a` has met the errors armed for its operand reads, and, with `inj`, for a cell. -/
def meetArmed (c : Nat) (a : ArrId) (inj : Bool) (s : State) : State :=
  let s := modCore s c (fun k => { k with injPar := sset false k.injPar a.val false })
  if inj then modCore s c (fun k => { k with injCell := sset false k.injCell a.val false }) else s

theorem units_meetArmed (c : Nat) (a : ArrId) (inj : Bool) (s : State) :
    (coreOf (meetArmed c a inj s) c).units = (coreOf s c).units := by
  cases inj <;> simp [meetArmed]

theorem halting_meetArmed (c : Nat) (a : ArrId) (inj : Bool) (s : State) :
    (coreOf (meetArmed c a inj s) c).halting = (coreOf s c).halting := by
  cases inj <;> simp [meetArmed]

/-- ALOAD of an accepted operand, read without error (R92). -/
theorem aloadEffect_accepted {c : Nat} {k : CoreSt} {a : ArrId} {y : ASyl} {s : State}
    (hcode : opndRefusal c (getD k y.da.toNat).tens = 0) (hpar : sget false k.injPar a.val = false)
    (hbad : (loadStation k (getD k y.da.toNat).tens (scaleOf k y.da.toNat) y.dfl.toNat).2 = false) :
    aloadEffect c k a y s = pushOps (meetArmed c a false s) c a.val
      [plainOp [] [] [.station a.val (loadStation k (getD k y.da.toNat).tens (scaleOf k y.da.toNat) y.dfl.toNat).1]] := by
  simp [aloadEffect, meetArmed, hcode, hpar, hbad]

/-- Banks that an AMM or ADIST writes: one under OS, else one for each of its steps (R90). -/
def macSteps (k : CoreSt) (y : ASyl) : Nat := if y.dfl = 1 then 1 else aSteps k y

/-- A cell error armed for array `a` meets the operation: multiply-accumulate alone has one, at its first step. -/
def macInj (k : CoreSt) (a : ArrId) (o : AOp) (y : ASyl) : Bool := isMac o y && sget false k.injCell a.val

/-- The steps of an AMM or ADIST as operations. -/
def macOps (s : State) (c : Nat) (k : CoreSt) (a : ArrId) (o : AOp) (y : ASyl) : List UnitOp :=
  (List.range (macSteps k y)).map (fun i => stepOp s c k a o y (aSteps k y) i (macInj k a o y && i == 0))

theorem macEffect_refused {c : Nat} {k : CoreSt} {a : ArrId} {o : AOp} {y : ASyl} {s : State} {p q : Opnd}
    (hpq : aOperands k a.val y (aSteps k y) 0 = (p, q)) (hcode : macRefusal c a.val k o y p q ≠ 0) :
    macEffect c k a o y s = arrayRefuse s c a.val (macRefusal c a.val k o y p q) := by
  simp [macEffect, hpq, hcode]

/-- AMM or ADIST of accepted operands, each step's read without error (R87, R90). -/
theorem macEffect_accepted {c : Nat} {k : CoreSt} {a : ArrId} {o : AOp} {y : ASyl} {s : State}
    (hcode : ∀ p q, aOperands k a.val y (aSteps k y) 0 = (p, q) → macRefusal c a.val k o y p q = 0)
    (hpar : sget false k.injPar a.val = false)
    (hgood : ∀ i p q, i < macSteps k y → aOperands k a.val y (aSteps k y) i = (p, q) → p.bad = false ∧ q.bad = false) :
    macEffect c k a o y s =
      pushOps (meetArmed c a (macInj k a o y) s) c a.val (macOps (meetArmed c a (macInj k a o y) s) c k a o y) := by
  have haccept := hcode (aOperands k a.val y (aSteps k y) 0).1 (aOperands k a.val y (aSteps k y) 0).2 rfl
  have hbad : (List.range (macSteps k y)).any (fun i =>
      (aOperands k a.val y (aSteps k y) i).1.bad || (aOperands k a.val y (aSteps k y) i).2.bad) = false := by
    rw [List.any_eq_false]
    intro i hi
    obtain ⟨hp, hq⟩ := hgood i (aOperands k a.val y (aSteps k y) i).1 (aOperands k a.val y (aSteps k y) i).2
      (List.mem_range.mp hi) rfl
    rw [hp, hq]
    decide
  rw [macSteps] at hbad
  simp only [macEffect, haccept, hpar, hbad, ne_eq, not_true_eq_false, Bool.or_self, Bool.false_eq_true, if_false]
  rfl

theorem length_macOps (s : State) (c : Nat) (k : CoreSt) (a : ArrId) (o : AOp) (y : ASyl) :
    (macOps s c k a o y).length = macSteps k y := by
  simp [macOps]

theorem stepOp_bank (s : State) (c : Nat) (k : CoreSt) (a : ArrId) (o : AOp) (y : ASyl) (n i : Nat) (inj : Bool) :
    (stepOp s c k a o y n i inj).bank = some (4 * a.val + if y.dfl = 1 then y.acc.toNat else (y.acc.toNat + i) % 4) := rfl

theorem stepOp_last (s : State) (c : Nat) (k : CoreSt) (a : ArrId) (o : AOp) (y : ASyl) (n i : Nat) (inj : Bool) :
    (stepOp s c k a o y n i inj).last = decide (y.dfl = 1 ∨ i + 1 = n) := rfl

/-- Among the steps that are queued the mark stands on the last: under OS there is one step. -/
theorem last_iff_of_lt_macSteps {k : CoreSt} {y : ASyl} {i : Nat} (hi : i < macSteps k y) :
    (y.dfl = 1 ∨ i + 1 = aSteps k y) ↔ i + 1 = macSteps k y := by
  unfold macSteps at hi ⊢
  by_cases hos : y.dfl = 1
  · rw [if_pos hos] at hi ⊢
    exact iff_of_true (.inl hos) (by omega)
  · rw [if_neg hos, or_iff_right hos]

/-- Each queued step has the bank of its place, and the last one alone is marked (R90). -/
theorem numberedOps_macOps_getElem? {s : State} {c : Nat} {k k' : CoreSt} {a : ArrId} {o : AOp} {y : ASyl} {u i : Nat}
    {x : UnitOp} (hx : (numberedOps k' u (macOps s c k a o y))[i]? = some x) :
    x.bank = some (4 * a.val + if y.dfl = 1 then y.acc.toNat else (y.acc.toNat + i) % 4) ∧
      (x.last = true ↔ i + 1 = macSteps k y) := by
  have hi : i < macSteps k y := by
    obtain ⟨hlt, -⟩ := List.getElem?_eq_some_iff.mp hx
    rwa [length_numberedOps, length_macOps] at hlt
  simp only [numberedOps, macOps, List.getElem?_map, List.getElem?_range hi, Option.map_some, Option.some.injEq] at hx
  subst hx
  refine ⟨stepOp_bank s c k a o y (aSteps k y) i (macInj k a o y && i == 0), ?_⟩
  dsimp only
  rw [stepOp_last, decide_eq_true_eq, last_iff_of_lt_macSteps hi]

/-- AMM and ADIST issue alike. -/
theorem exec_macSyl {e : (CoreId → ArrId → ASyl → Instr) × AOp} (he : e ∈ [(Instr.amm, AOp.amm), (Instr.adist, AOp.adist)])
    (c : CoreId) (a : ArrId) (y : ASyl) (s : State) :
    exec (e.1 c a y) s = .next (issueSyl s c.val (.a a e.2 y)) ∧
      ∀ k u, sylEffect c.val k u (.a a e.2 y) = macEffect c.val k a e.2 y u := by
  simp only [List.mem_cons, List.not_mem_nil, or_false] at he
  obtain rfl | rfl := he
  · exact ⟨exec_sylInstr c (.a a .amm y) s, fun _ _ => rfl⟩
  · exact ⟨exec_sylInstr c (.a a .adist y) s, fun _ _ => rfl⟩

/-- Operations queued by an array syllable once armed errors are met stand at the end of the array's queue. -/
theorem unitOps_issueSyl_meetArmed {s : State} {c : Nat} {a : ArrId} {o : AOp} {y : ASyl} {inj : Bool} {l : List UnitOp}
    (h : Acts s c (.a a o y))
    (he : sylEffect c (coreOf s c) (spoilCore s c [.a a o y]) (.a a o y) =
      pushOps (meetArmed c a inj (spoilCore s c [.a a o y])) c a.val l) :
    unitOps (coreOf (issueSyl s c (.a a o y)) c) a.val = unitOps (coreOf s c) a.val ++
      numberedOps (coreOf (meetArmed c a inj (spoilCore s c [.a a o y])) c) a.val l := by
  have hhalt := (idle_of_acts h).2
  have hh : (coreOf (pushOps (meetArmed c a inj (spoilCore s c [.a a o y])) c a.val l) c).halting = false := by
    rw [halting_pushOps, halting_meetArmed, coreOf_spoilCore_self, spoilScales_halting, hhalt]
  have hold : unitOps (coreOf (meetArmed c a inj (spoilCore s c [.a a o y])) c) a.val = unitOps (coreOf s c) a.val := by
    rw [unitOps, units_meetArmed, coreOf_spoilCore_self, spoilScales_units, unitOps]
  rw [coreOf_issueSyl_of_effect h (cSyl_array a o y) he hh, ← hold]
  exact unitOps_pushOps ..

/-- An array syllable refused by R86 leaves its code and a stop report DESC_INVALID, and every queue as it was. -/
theorem issueSyl_arrayRefuse {s : State} {c : Nat} {a : ArrId} {o : AOp} {y : ASyl} {code : Nat} (h : Acts s c (.a a o y))
    (he : sylEffect c (coreOf s c) (spoilCore s c [.a a o y]) (.a a o y) =
      arrayRefuse (spoilCore s c [.a a o y]) c a.val code) :
    getF (issueSyl s c (.a a o y)) F.ARR_STS_REFUSE c = code % 8 ∧
      (coreOf (issueSyl s c (.a a o y)) c).units = (coreOf s c).units ∧
      (coreOf (issueSyl s c (.a a o y)) c).reports = (coreOf s c).reports ++ [⟨2, 0⟩] := by
  have hhalt := (idle_of_acts h).2
  have hh : (coreOf (arrayRefuse (spoilCore s c [.a a o y]) c a.val code) c).halting = false := by
    rw [coreOf_arrayRefuse, coreOf_spoilCore_self, spoilScales_halting, hhalt]
  refine ⟨?_, ?_, ?_⟩
  · rw [getF_issueSyl_of_effect h (cSyl_array a o y) he hh _ (by decide) (arrSts_ne_coreSts c), refuse_arrayRefuse]
  · rw [coreOf_issueSyl_of_effect h (cSyl_array a o y) he hh, coreOf_arrayRefuse, coreOf_spoilCore_self, spoilScales_units]
  · rw [coreOf_issueSyl_of_effect h (cSyl_array a o y) he hh, coreOf_arrayRefuse, coreOf_spoilCore_self, spoilScales_reports]

/-! ### ADRAIN, AFILL and the drain path (R94, R110) -/

/-- Without a parity error ADRAIN joins the drain path, with the bank as it stood before the bundle. -/
theorem adrainEffect_good {c : Nat} {k : CoreSt} {a : ArrId} {y : ASyl} {s : State}
    (hpar : sget false k.drainPar a.val = false) :
    arrayEffect c k a .adrain y s = pushOps s c (8 + a.val)
      [plainOp [.bank (4 * a.val + y.acc.toNat)] [.tile y.td.toNat]
        [.tile y.td.toNat (allCells (getBank k (4 * a.val + y.acc.toNat))), .tag y.td.toNat 0,
          .tpoison y.td.toNat (bankPoison s c (4 * a.val + y.acc.toNat)),
          .count F.VEC_CNT_ANF_ANF_CNT
            ((allCells (getBank k (4 * a.val + y.acc.toNat))).filter (fun x => !isFin32 x.2)).length]] := by
  simp [arrayEffect, hpar]

/-- Without a parity error AFILL joins the drain path, with the tile as it stood before the bundle. -/
theorem afillEffect_good {c : Nat} {k : CoreSt} {a : ArrId} {y : ASyl} {s : State}
    (hpar : sget false k.drainPar a.val = false) :
    arrayEffect c k a .afill y s = pushOps s c (8 + a.val)
      [plainOp [.tile y.td.toNat] [.bank (4 * a.val + y.acc.toNat)]
        [.bank (4 * a.val + y.acc.toNat) (allCells (getTile k y.td.toNat)),
          .bpoison (4 * a.val + y.acc.toNat) (tilePoison s c y.td.toNat)]] := by
  simp [arrayEffect, hpar]

/-- ADRAIN and AFILL issue alike, and a parity error of the drain path is all that either does. -/
theorem exec_drainSyl {e : (CoreId → ArrId → ASyl → Instr) × AOp}
    (he : e ∈ [(Instr.adrain, AOp.adrain), (Instr.afill, AOp.afill)]) (c : CoreId) (a : ArrId) (y : ASyl) (s : State) :
    exec (e.1 c a y) s = .next (issueSyl s c.val (.a a e.2 y)) ∧
      ∀ k u, sget false k.drainPar a.val = true → sylEffect c.val k u (.a a e.2 y) =
        report (modCore u c.val (fun k => { k with drainPar := sset false k.drainPar a.val false })) c.val 6 := by
  simp only [List.mem_cons, List.not_mem_nil, or_false] at he
  obtain rfl | rfl := he
  · exact ⟨exec_sylInstr c (.a a .adrain y) s, fun k u hpar => by simp [sylEffect, arrayEffect, hpar]⟩
  · exact ⟨exec_sylInstr c (.a a .afill y) s, fun k u hpar => by simp [sylEffect, arrayEffect, hpar]⟩

/-- A parity error of the drain path queues nothing: the core has a stop report UNCORRECTABLE. -/
theorem onlyCore_drainParity {s : State} {c : Nat} {a : ArrId} {o : AOp} {y : ASyl} (h : Acts s c (.a a o y))
    (he : sylEffect c (coreOf s c) (spoilCore s c [.a a o y]) (.a a o y) =
      report (modCore (spoilCore s c [.a a o y]) c (fun k => { k with drainPar := sset false k.drainPar a.val false })) c 6) :
    OnlyCore s (issueSyl s c (.a a o y)) c { spoilScales [.a a o y] (coreOf s c) with
      drainPar := sset false (coreOf s c).drainPar a.val false, reports := (coreOf s c).reports ++ [⟨6, 0⟩] } := by
  obtain ⟨hfetched, hhalt⟩ := idle_of_acts h
  refine onlyCore_issueSyl_of_effect h (cSyl_array a o y) he
    (coresOnly_modCore _ _ _ _ (coresOnly_modCore _ _ _ _ (coresOnly_spoilCore _ _ _))) ?_ ?_ ?_ ?_ ?_
  · simp [coreOf_report_self]
  · intro d hd
    rw [coreOf_report_ne _ _ hd, coreOf_modCore, if_neg hd, coreOf_spoilCore, if_neg hd]
  · rw [spoilScales_halting, hhalt]
  · rw [spoilScales_fetched, hfetched]
  · rw [spoilScales_issued]

/-! ### Each array syllable -/

section Syllables

variable {c : CoreId} {a : ArrId} {y : ASyl} {s : State}

theorem exec_aload_accepted (h : Acts s c.val (.a a .aload y))
    (hcode : opndRefusal c.val (getD (coreOf s c.val) y.da.toNat).tens = 0)
    (hpar : sget false (coreOf s c.val).injPar a.val = false)
    (hbad : (loadStation (coreOf s c.val) (getD (coreOf s c.val) y.da.toNat).tens (scaleOf (coreOf s c.val) y.da.toNat)
      y.dfl.toNat).2 = false) :
    ∃ t o, exec (.aload c a y) s = .next t ∧
      unitOps (coreOf t c.val) a.val = unitOps (coreOf s c.val) a.val ++ [o] ∧
      o.effs = [.station a.val (loadStation (coreOf s c.val) (getD (coreOf s c.val) y.da.toNat).tens
        (scaleOf (coreOf s c.val) y.da.toNat) y.dfl.toNat).1] :=
  ⟨_, _, exec_sylInstr c (.a a .aload y) s, unitOps_issueSyl_meetArmed h (aloadEffect_accepted hcode hpar hbad), rfl⟩

theorem exec_mac_accepted {e : (CoreId → ArrId → ASyl → Instr) × AOp}
    (he : e ∈ [(Instr.amm, AOp.amm), (Instr.adist, AOp.adist)]) (h : Acts s c.val (.a a e.2 y))
    (hcode : ∀ p q, aOperands (coreOf s c.val) a.val y (aSteps (coreOf s c.val) y) 0 = (p, q) →
      macRefusal c.val a.val (coreOf s c.val) e.2 y p q = 0)
    (hpar : sget false (coreOf s c.val).injPar a.val = false)
    (hgood : ∀ i p q, i < macSteps (coreOf s c.val) y →
      aOperands (coreOf s c.val) a.val y (aSteps (coreOf s c.val) y) i = (p, q) → p.bad = false ∧ q.bad = false) :
    ∃ t l, exec (e.1 c a y) s = .next t ∧
      unitOps (coreOf t c.val) a.val = unitOps (coreOf s c.val) a.val ++ l ∧ l.length = macSteps (coreOf s c.val) y ∧
      ∀ i o, l[i]? = some o →
        o.bank = some (4 * a.val + if y.dfl = 1 then y.acc.toNat else (y.acc.toNat + i) % 4) ∧
          (o.last = true ↔ i + 1 = macSteps (coreOf s c.val) y) := by
  obtain ⟨hexec, heff⟩ := exec_macSyl he c a y s
  exact ⟨_, _, hexec, unitOps_issueSyl_meetArmed h ((heff _ _).trans (macEffect_accepted hcode hpar hgood)),
    by rw [length_numberedOps, length_macOps], fun _ _ => numberedOps_macOps_getElem?⟩

theorem exec_mac_refused {e : (CoreId → ArrId → ASyl → Instr) × AOp}
    (he : e ∈ [(Instr.amm, AOp.amm), (Instr.adist, AOp.adist)]) (h : Acts s c.val (.a a e.2 y)) {p q : Opnd}
    (hpq : aOperands (coreOf s c.val) a.val y (aSteps (coreOf s c.val) y) 0 = (p, q))
    (hcode : macRefusal c.val a.val (coreOf s c.val) e.2 y p q ≠ 0) :
    ∃ t, exec (e.1 c a y) s = .next t ∧
      getF t F.ARR_STS_REFUSE c.val = macRefusal c.val a.val (coreOf s c.val) e.2 y p q % 8 ∧
      unitOps (coreOf t c.val) a.val = unitOps (coreOf s c.val) a.val ∧
      (coreOf t c.val).reports = (coreOf s c.val).reports ++ [⟨2, 0⟩] := by
  obtain ⟨hexec, heff⟩ := exec_macSyl he c a y s
  obtain ⟨hsts, hunits, hreports⟩ := issueSyl_arrayRefuse h ((heff _ _).trans (macEffect_refused hpq hcode))
  exact ⟨_, hexec, hsts, by rw [unitOps, hunits, unitOps], hreports⟩

theorem exec_adrain_good (hpar : sget false (coreOf s c.val).drainPar a.val = false) (h : Acts s c.val (.a a .adrain y)) :
    ∃ t o, exec (.adrain c a y) s = .next t ∧
      Queued s t c.val (8 + a.val) (spoilScales [.a a .adrain y] (coreOf s c.val)) [o] ∧
      Eff.tile y.td.toNat (allCells (getBank (coreOf s c.val) (4 * a.val + y.acc.toNat))) ∈ o.effs ∧
      Eff.tag y.td.toNat 0 ∈ o.effs ∧
      Eff.tpoison y.td.toNat (bankPoison s c.val (4 * a.val + y.acc.toNat)) ∈ o.effs := by
  refine ⟨_, _, exec_sylInstr c (.a a .adrain y) s, queued_issueSyl h (cSyl_array ..) (adrainEffect_good hpar), ?_⟩
  simp [plainOp, bankPoison]

theorem exec_afill_good (hpar : sget false (coreOf s c.val).drainPar a.val = false) (h : Acts s c.val (.a a .afill y)) :
    ∃ t o, exec (.afill c a y) s = .next t ∧ Queued s t c.val (8 + a.val) (coreOf s c.val) [o] ∧
      o.effs = [.bank (4 * a.val + y.acc.toNat) (allCells (getTile (coreOf s c.val) y.td.toNat)),
        .bpoison (4 * a.val + y.acc.toNat) (tilePoison s c.val y.td.toNat)] := by
  have hqueued := queued_issueSyl h (cSyl_array ..) (afillEffect_good hpar)
  rw [spoilScales_bankWrite a y _ (.inl rfl)] at hqueued
  refine ⟨_, _, exec_sylInstr c (.a a .afill y) s, hqueued, ?_⟩
  simp [plainOp, tilePoison]

theorem exec_drain_parity {e : (CoreId → ArrId → ASyl → Instr) × AOp}
    (he : e ∈ [(Instr.adrain, AOp.adrain), (Instr.afill, AOp.afill)])
    (hpar : sget false (coreOf s c.val).drainPar a.val = true) (h : Acts s c.val (.a a e.2 y)) :
    ∃ t, exec (e.1 c a y) s = .next t ∧
      OnlyCore s t c.val { spoilScales [.a a e.2 y] (coreOf s c.val) with
        drainPar := sset false (coreOf s c.val).drainPar a.val false,
        reports := (coreOf s c.val).reports ++ [⟨6, 0⟩] } := by
  obtain ⟨hexec, heff⟩ := exec_drainSyl he c a y s
  exact ⟨_, hexec, onlyCore_drainParity h (heff _ _ hpar)⟩

theorem exec_aclr_queues (h : Acts s c.val (.a a .aclr y)) :
    ∃ t o, exec (.aclr c a y) s = .next t ∧ Queued s t c.val a.val (coreOf s c.val) [o] ∧
      o.bank = some (4 * a.val + y.acc.toNat) ∧
      o.effs = [.bank (4 * a.val + y.acc.toNat) (gridCells (fun _ _ => 0)), .bpoison (4 * a.val + y.acc.toNat) false] := by
  have hqueued := queued_issueSyl h (cSyl_array ..) (u := a.val) rfl
  rw [spoilScales_bankWrite a y _ (.inr rfl)] at hqueued
  exact ⟨_, _, exec_sylInstr c (.a a .aclr y) s, hqueued, rfl, rfl⟩

end Syllables

/-! ### The obligation -/

/-- Settles O16: each array syllable that acts is its own effect, which queues its operations or leaves a stop report. -/
theorem arrayOperationsQueue : Obligations.ArrayOperationsQueue := by
  intro c a y s
  refine ⟨exec_aload_accepted, ?_, ?_, exec_adrain_good, exec_afill_good, ?_, exec_aclr_queues⟩
  · intro e he n steps h hcode hpar hgood
    exact exec_mac_accepted he h hcode hpar hgood
  · intro e he h p q hpq hcode
    exact exec_mac_refused he h hpq hcode
  · intro e he hpar h
    exact exec_drain_parity he hpar h

end Sys2Proof.Machine
end
